-- ==== Sys2Proof/Word.lean ====
section
/-! DEFINITION. The word types of the TZ-480. -/

namespace Sys2Proof

/-- A scalar register (03_crews R57). -/
abbrev Word := BitVec 64
/-- A byte of memory (R4). -/
abbrev Byte := BitVec 8

end Sys2Proof
end

