-- ==== Sys2Proof/Syntax.lean ====
section
/-! DEFINITION. The instructions and steps of the TZ-480: one constructor for each row of spec/opcode_table.json.

The first 262 constructors are instructions with an encoding (04_encoding R86 to R101); their operands are the fields of
the encoding. The last 100 are the steps without an encoding (95_what_each_step_holds): what an engine, a home, a
scheduler, the firmware, the link or the host does; their operands say which unit acts and what arrives from outside. -/

namespace Sys2Proof

/-- The agents that read memory through a view of their own (10_memory_model R204). -/
inductive View where
  | core (n : Nat)
  | die (n : Nat)
  | host
  | peer (n : Nat)
  deriving DecidableEq, Repr

/-- The structures that cache translations (20_context R340). -/
inductive TlbPlace where
  | core (n : Nat)
  | die (n : Nat)
  | walk (n : Nat)
  deriving DecidableEq, Repr

/-- A notice of one flit at a barrier's home, from source device `src` (12_barrier R246). -/
inductive Notice where
  | bind (src pa count scope : Nat)
  | arrive (src pa units bytes : Nat)
  | attach (src pa : Nat)
  | detach (src pa bytes : Nat) (failed : Bool)
  deriving DecidableEq, Repr

/-- What waits for a crew: a placement of a launch, or a pre-empted crew (23_group R383). -/
inductive WaitItem where
  | launch (lid : Nat)
  | parked (pid : Nat)
  deriving DecidableEq, Repr

/-- What a read of a line finds (26_reliability R415 to R419): `lasting` is the scrubber's finding, `demand` a read of some agent
that failed twice; with `double` and `latentDouble` a second unit of the same row fails too, met by a demand read and by the scrubber. -/
inductive ReadFault where
  | clean
  | corrected
  | transient
  | lasting
  | demand
  | double
  | latentDouble
  deriving DecidableEq, Repr

/-- The host's access to a notify register: its T bit, whether it reads or writes (21_queue R351, 27_link R445), and whether its integrity
check passes (27_link R444). -/
structure NotifyAccess where
  tbit : Bool
  isRead : Bool
  intact : Bool
  deriving DecidableEq, Repr

/-- The host's read of a telemetry counter or of an IDE status word: its T bit, and whether its integrity check passes (27_link R444). -/
structure TelemetryAccess where
  tbit : Bool
  intact : Bool
  deriving DecidableEq, Repr

/-- What an error strikes: a line of memory, a 64-bit word of a vector register (07_vector_compute R172), a plane or a tile row of a matrix
array (14_matrix R256). -/
inductive ScrubPlace where
  | line (pa : Nat)
  | vreg (hart : Nat) (reg : BitVec 5) (word : Nat)
  | plane (core : Nat) (shadow : Bool)
  | tileRow (core tile row : Nat)
  deriving DecidableEq, Repr

/-- A row with spares: of a pool die or a scratchpad bank, with its first address, or of a register file (26_reliability
R424). -/
inductive RowPlace where
  | memory (pa : Nat)
  | registers (core row : Nat)
  deriving DecidableEq, Repr

/-- A register, or an entry of a table that firmware loads, that REGISTER_WRITE writes: a CSR of a hart, a hart's timer comparator
(29_bringup R465), the mailbox control register (27_link R441), the IDE status word of a stream (28_worlds R455), and a window of
the fabric admission table (27_link R438). -/
inductive RegPlace where
  | csr (hart : Nat) (num : BitVec 11)
  | timer (hart : Nat)
  | mailbox
  | ideStatus (stream : Nat)
  | window (src base limit : Nat) (read write : Bool) (ctx : Nat)
  deriving DecidableEq, Repr

/-- What a flit carries, by TYPE (27_link R432). -/
inductive FlitBody where
  | read (pa len : Nat)
  | write (pa : Nat) (data : List (BitVec 8))
  | writeBits (pa : Nat) (mask value : BitVec 16)
  | amo (pa : Nat) (wide : Bool) (op : BitVec 4) (operand expect : BitVec 64)
  | response (ok : Bool) (data : List (BitVec 8))
  | trainHead (bytes count : Nat)
  | trainBody (elems : List (Nat × List (BitVec 8)))
  | trainTail (count : Nat)
  | notice (n : Notice)
  | ackOnly
  deriving DecidableEq, Repr

/-- A received flit: its check, its source and destination, its numbers and its piggy-backed acknowledgement (27_link R432), and whether a receive
entry is free for it (27_link R433). -/
structure Flit where
  crcOk : Bool
  src : Nat
  dst : Nat
  seq : Nat
  tag : Nat
  ackSeq : Option Nat
  nackSeq : Option Nat
  room : Bool
  body : FlitBody
  deriving DecidableEq, Repr

/-- The two BARs of the module (27_link R440). -/
inductive HostBar where
  | bar0
  | bar2
  deriving DecidableEq, Repr

/-- A host access through a BAR (27_link R440, R444, R445). -/
structure HostAccess where
  bar : HostBar
  offset : Nat
  len : Nat
  data : Option (List (BitVec 8))
  stream : Nat
  tbit : Bool
  intact : Bool
  deriving DecidableEq, Repr

/-- TDISP messages (27_link R445). -/
inductive TdispMsg where
  | lock
  | start
  | stop
  | change
  deriving DecidableEq, Repr

/-- An IDE stream key, for the world whose interface the stream carries (27_link R444). -/
structure IdeKey where
  world : Nat
  key : List (BitVec 8)
  deriving DecidableEq, Repr

/-- A PCIe completion for a request of the module (27_link R439). -/
inductive HostAnswer where
  | translation (page : Nat) (read write : Bool)
  | refused
  | data (bytes : List (BitVec 8))
  deriving DecidableEq, Repr

/-- One constructor for each row of spec/opcode_table.json, in the table's order. -/
inductive Instr where
  /-- C.LI (R100). -/
  | cLi (rd : BitVec 5) (imm : BitVec 5)
  /-- C.ADDI (R100). -/
  | cAddi (rd : BitVec 5) (imm : BitVec 5)
  /-- C.MV (R100). -/
  | cMv (rd : BitVec 5) (rs : BitVec 5)
  /-- C.ADD (R100). -/
  | cAdd (rd : BitVec 5) (rs : BitVec 5)
  /-- C.LD (R100). -/
  | cLd (rd : BitVec 3) (rs1 : BitVec 3) (off : BitVec 4)
  /-- C.SD (R100). -/
  | cSd (rs2 : BitVec 3) (rs1 : BitVec 3) (off : BitVec 4)
  /-- C.J (R100). -/
  | cJ (off : BitVec 10)
  /-- C.BEQZ (R100). -/
  | cBeqz (rs1 : BitVec 3) (off : BitVec 7)
  /-- C.BNEZ (R100). -/
  | cBnez (rs1 : BitVec 3) (off : BitVec 7)
  /-- C.JR (R100). -/
  | cJr (rs1 : BitVec 5)
  /-- C.QGET (R100). -/
  | cQget (rd : BitVec 5) (q : BitVec 4)
  /-- C.NOP (R100). -/
  | cNop
  /-- ADDI (R122). -/
  | addi (rd : BitVec 5) (rs1 : BitVec 5) (imm : BitVec 11)
  /-- SLTI (R122). -/
  | slti (rd : BitVec 5) (rs1 : BitVec 5) (imm : BitVec 11)
  /-- SLTIU (R122). -/
  | sltiu (rd : BitVec 5) (rs1 : BitVec 5) (imm : BitVec 11)
  /-- ANDI (R122). -/
  | andi (rd : BitVec 5) (rs1 : BitVec 5) (imm : BitVec 11)
  /-- ORI (R122). -/
  | ori (rd : BitVec 5) (rs1 : BitVec 5) (imm : BitVec 11)
  /-- XORI (R122). -/
  | xori (rd : BitVec 5) (rs1 : BitVec 5) (imm : BitVec 11)
  /-- SLLI (R122). -/
  | slli (rd : BitVec 5) (rs1 : BitVec 5) (sh : BitVec 6)
  /-- SRLI (R122). -/
  | srli (rd : BitVec 5) (rs1 : BitVec 5) (sh : BitVec 6)
  /-- SRAI (R122). -/
  | srai (rd : BitVec 5) (rs1 : BitVec 5) (sh : BitVec 6)
  /-- ADD (R123). -/
  | add (rd : BitVec 5) (rs1 : BitVec 5) (rs2 : BitVec 5)
  /-- SUB (R123). -/
  | sub (rd : BitVec 5) (rs1 : BitVec 5) (rs2 : BitVec 5)
  /-- AND (R123). -/
  | and (rd : BitVec 5) (rs1 : BitVec 5) (rs2 : BitVec 5)
  /-- OR (R123). -/
  | or (rd : BitVec 5) (rs1 : BitVec 5) (rs2 : BitVec 5)
  /-- XOR (R123). -/
  | xor (rd : BitVec 5) (rs1 : BitVec 5) (rs2 : BitVec 5)
  /-- SLL (R123). -/
  | sll (rd : BitVec 5) (rs1 : BitVec 5) (rs2 : BitVec 5)
  /-- SRL (R123). -/
  | srl (rd : BitVec 5) (rs1 : BitVec 5) (rs2 : BitVec 5)
  /-- SRA (R123). -/
  | sra (rd : BitVec 5) (rs1 : BitVec 5) (rs2 : BitVec 5)
  /-- SLT (R123). -/
  | slt (rd : BitVec 5) (rs1 : BitVec 5) (rs2 : BitVec 5)
  /-- SLTU (R123). -/
  | sltu (rd : BitVec 5) (rs1 : BitVec 5) (rs2 : BitVec 5)
  /-- MIN (R123). -/
  | min (rd : BitVec 5) (rs1 : BitVec 5) (rs2 : BitVec 5)
  /-- MAX (R123). -/
  | max (rd : BitVec 5) (rs1 : BitVec 5) (rs2 : BitVec 5)
  /-- MINU (R123). -/
  | minu (rd : BitVec 5) (rs1 : BitVec 5) (rs2 : BitVec 5)
  /-- MAXU (R123). -/
  | maxu (rd : BitVec 5) (rs1 : BitVec 5) (rs2 : BitVec 5)
  /-- MUL (R123). -/
  | mul (rd : BitVec 5) (rs1 : BitVec 5) (rs2 : BitVec 5)
  /-- MULH (R123). -/
  | mulh (rd : BitVec 5) (rs1 : BitVec 5) (rs2 : BitVec 5)
  /-- MULHU (R123). -/
  | mulhu (rd : BitVec 5) (rs1 : BitVec 5) (rs2 : BitVec 5)
  /-- DIV (R123). -/
  | div (rd : BitVec 5) (rs1 : BitVec 5) (rs2 : BitVec 5)
  /-- DIVU (R123). -/
  | divu (rd : BitVec 5) (rs1 : BitVec 5) (rs2 : BitVec 5)
  /-- REM (R123). -/
  | rem (rd : BitVec 5) (rs1 : BitVec 5) (rs2 : BitVec 5)
  /-- REMU (R123). -/
  | remu (rd : BitVec 5) (rs1 : BitVec 5) (rs2 : BitVec 5)
  /-- CLZ (R123). -/
  | clz (rd : BitVec 5) (rs1 : BitVec 5)
  /-- CTZ (R123). -/
  | ctz (rd : BitVec 5) (rs1 : BitVec 5)
  /-- CPOP (R123). -/
  | cpop (rd : BitVec 5) (rs1 : BitVec 5)
  /-- LUI (R124). -/
  | lui (rd : BitVec 5) (imm : BitVec 19)
  /-- AUIPC (R124). -/
  | auipc (rd : BitVec 5) (imm : BitVec 19)
  /-- JAL (R125). -/
  | jal (rd : BitVec 5) (imm : BitVec 19)
  /-- JALR (R125). -/
  | jalr (rd : BitVec 5) (rs1 : BitVec 5) (imm : BitVec 11)
  /-- BEQ (R126). -/
  | beq (rs1 : BitVec 5) (rs2 : BitVec 5) (imm : BitVec 11)
  /-- BNE (R126). -/
  | bne (rs1 : BitVec 5) (rs2 : BitVec 5) (imm : BitVec 11)
  /-- BLT (R126). -/
  | blt (rs1 : BitVec 5) (rs2 : BitVec 5) (imm : BitVec 11)
  /-- BGE (R126). -/
  | bge (rs1 : BitVec 5) (rs2 : BitVec 5) (imm : BitVec 11)
  /-- BLTU (R126). -/
  | bltu (rs1 : BitVec 5) (rs2 : BitVec 5) (imm : BitVec 11)
  /-- BGEU (R126). -/
  | bgeu (rs1 : BitVec 5) (rs2 : BitVec 5) (imm : BitVec 11)
  /-- LD (R127). -/
  | ld (rd : BitVec 5) (rs1 : BitVec 5) (imm : BitVec 11)
  /-- LW (R127). -/
  | lw (rd : BitVec 5) (rs1 : BitVec 5) (imm : BitVec 11)
  /-- LH (R127). -/
  | lh (rd : BitVec 5) (rs1 : BitVec 5) (imm : BitVec 11)
  /-- LB (R127). -/
  | lb (rd : BitVec 5) (rs1 : BitVec 5) (imm : BitVec 11)
  /-- LWU (R127). -/
  | lwu (rd : BitVec 5) (rs1 : BitVec 5) (imm : BitVec 11)
  /-- LHU (R127). -/
  | lhu (rd : BitVec 5) (rs1 : BitVec 5) (imm : BitVec 11)
  /-- LBU (R127). -/
  | lbu (rd : BitVec 5) (rs1 : BitVec 5) (imm : BitVec 11)
  /-- SD (R128). -/
  | sd (rs1 : BitVec 5) (rs2 : BitVec 5) (imm : BitVec 11)
  /-- SW (R128). -/
  | sw (rs1 : BitVec 5) (rs2 : BitVec 5) (imm : BitVec 11)
  /-- SH (R128). -/
  | sh (rs1 : BitVec 5) (rs2 : BitVec 5) (imm : BitVec 11)
  /-- SB (R128). -/
  | sb (rs1 : BitVec 5) (rs2 : BitVec 5) (imm : BitVec 11)
  /-- AMOSWAP.D (R130). -/
  | amoswapD (ord : BitVec 2) (scope : BitVec 3) (rs2 : BitVec 5) (rs1 : BitVec 5) (rd : BitVec 5)
  /-- AMOADD.D (R130). -/
  | amoaddD (ord : BitVec 2) (scope : BitVec 3) (rs2 : BitVec 5) (rs1 : BitVec 5) (rd : BitVec 5)
  /-- AMOAND.D (R130). -/
  | amoandD (ord : BitVec 2) (scope : BitVec 3) (rs2 : BitVec 5) (rs1 : BitVec 5) (rd : BitVec 5)
  /-- AMOOR.D (R130). -/
  | amoorD (ord : BitVec 2) (scope : BitVec 3) (rs2 : BitVec 5) (rs1 : BitVec 5) (rd : BitVec 5)
  /-- AMOXOR.D (R130). -/
  | amoxorD (ord : BitVec 2) (scope : BitVec 3) (rs2 : BitVec 5) (rs1 : BitVec 5) (rd : BitVec 5)
  /-- AMOMIN.D (R130). -/
  | amominD (ord : BitVec 2) (scope : BitVec 3) (rs2 : BitVec 5) (rs1 : BitVec 5) (rd : BitVec 5)
  /-- AMOMAX.D (R130). -/
  | amomaxD (ord : BitVec 2) (scope : BitVec 3) (rs2 : BitVec 5) (rs1 : BitVec 5) (rd : BitVec 5)
  /-- AMOMINU.D (R130). -/
  | amominuD (ord : BitVec 2) (scope : BitVec 3) (rs2 : BitVec 5) (rs1 : BitVec 5) (rd : BitVec 5)
  /-- AMOMAXU.D (R130). -/
  | amomaxuD (ord : BitVec 2) (scope : BitVec 3) (rs2 : BitVec 5) (rs1 : BitVec 5) (rd : BitVec 5)
  /-- AMOCAS.D (R130). -/
  | amocasD (ord : BitVec 2) (scope : BitVec 3) (rs2 : BitVec 5) (rs1 : BitVec 5) (rd : BitVec 5)
  /-- LDA.D (R130). -/
  | ldaD (scope : BitVec 3) (rs1 : BitVec 5) (rd : BitVec 5)
  /-- STL.D (R130). -/
  | stlD (scope : BitVec 3) (rs2 : BitVec 5) (rs1 : BitVec 5)
  /-- AMOSWAP.W (R130). -/
  | amoswapW (ord : BitVec 2) (scope : BitVec 3) (rs2 : BitVec 5) (rs1 : BitVec 5) (rd : BitVec 5)
  /-- AMOADD.W (R130). -/
  | amoaddW (ord : BitVec 2) (scope : BitVec 3) (rs2 : BitVec 5) (rs1 : BitVec 5) (rd : BitVec 5)
  /-- AMOAND.W (R130). -/
  | amoandW (ord : BitVec 2) (scope : BitVec 3) (rs2 : BitVec 5) (rs1 : BitVec 5) (rd : BitVec 5)
  /-- AMOOR.W (R130). -/
  | amoorW (ord : BitVec 2) (scope : BitVec 3) (rs2 : BitVec 5) (rs1 : BitVec 5) (rd : BitVec 5)
  /-- AMOXOR.W (R130). -/
  | amoxorW (ord : BitVec 2) (scope : BitVec 3) (rs2 : BitVec 5) (rs1 : BitVec 5) (rd : BitVec 5)
  /-- AMOMIN.W (R130). -/
  | amominW (ord : BitVec 2) (scope : BitVec 3) (rs2 : BitVec 5) (rs1 : BitVec 5) (rd : BitVec 5)
  /-- AMOMAX.W (R130). -/
  | amomaxW (ord : BitVec 2) (scope : BitVec 3) (rs2 : BitVec 5) (rs1 : BitVec 5) (rd : BitVec 5)
  /-- AMOMINU.W (R130). -/
  | amominuW (ord : BitVec 2) (scope : BitVec 3) (rs2 : BitVec 5) (rs1 : BitVec 5) (rd : BitVec 5)
  /-- AMOMAXU.W (R130). -/
  | amomaxuW (ord : BitVec 2) (scope : BitVec 3) (rs2 : BitVec 5) (rs1 : BitVec 5) (rd : BitVec 5)
  /-- AMOCAS.W (R130). -/
  | amocasW (ord : BitVec 2) (scope : BitVec 3) (rs2 : BitVec 5) (rs1 : BitVec 5) (rd : BitVec 5)
  /-- LDA.W (R130). -/
  | ldaW (scope : BitVec 3) (rs1 : BitVec 5) (rd : BitVec 5)
  /-- STL.W (R130). -/
  | stlW (scope : BitVec 3) (rs2 : BitVec 5) (rs1 : BitVec 5)
  /-- FENCE (R134). -/
  | fence (scope : BitVec 3) (pred : BitVec 2) (succ : BitVec 2)
  /-- FENCE.X (R135). -/
  | fenceX (scope : BitVec 3) (src : BitVec 3) (dst : BitVec 3)
  /-- FENCE.T (R136). -/
  | fenceT (scope : BitVec 3) (dir : BitVec 1) (pred : BitVec 2) (succ : BitVec 2)
  /-- TCLR (R137). -/
  | tclr (file : BitVec 2) (reg : BitVec 5)
  /-- TJOIN (R137). -/
  | tjoin (fs : BitVec 2) (fd : BitVec 2) (rs1 : BitVec 5) (rd : BitVec 5)
  /-- YIELD (R138). -/
  | yield
  /-- WFI (R138). -/
  | wfi
  /-- ECALL (R138). -/
  | ecall
  /-- EBREAK (R138). -/
  | ebreak
  /-- ERET (R138). -/
  | eret
  /-- TLBINV (R139). -/
  | tlbinv (rs1 : BitVec 5)
  /-- CSRRW (R140). -/
  | csrrw (rd : BitVec 5) (rs1 : BitVec 5) (csr : BitVec 11)
  /-- CSRRWI (R140). -/
  | csrrwi (rd : BitVec 5) (uimm : BitVec 5) (csr : BitVec 11)
  /-- CSRRS (R140). -/
  | csrrs (rd : BitVec 5) (rs1 : BitVec 5) (csr : BitVec 11)
  /-- CSRRSI (R140). -/
  | csrrsi (rd : BitVec 5) (uimm : BitVec 5) (csr : BitVec 11)
  /-- CSRRC (R140). -/
  | csrrc (rd : BitVec 5) (rs1 : BitVec 5) (csr : BitVec 11)
  /-- CSRRCI (R140). -/
  | csrrci (rd : BitVec 5) (uimm : BitVec 5) (csr : BitVec 11)
  /-- QPUT (R143). -/
  | qput (q : BitVec 4) (rs2 : BitVec 5)
  /-- QGET (R144). -/
  | qget (rd : BitVec 5) (q : BitVec 4)
  /-- QBR (R145). -/
  | qbr (q : BitVec 4) (off : BitVec 11)
  /-- QSTAT (R146). -/
  | qstat (rd : BitVec 5) (q : BitVec 4)
  /-- CPY (R230). -/
  | cpy (rd : BitVec 5) (rs1 : BitVec 5) (rs2 : BitVec 5) (rs3 : BitVec 5)
  /-- CPY2D (R231). -/
  | cpy2d (rd : BitVec 5) (rs1 : BitVec 5) (rs2 : BitVec 5) (rs3 : BitVec 5)
  /-- GATHR (R232). -/
  | gathr (rd : BitVec 5) (rs1 : BitVec 5) (rs2 : BitVec 5) (rs3 : BitVec 5)
  /-- SCATR (R233). -/
  | scatr (rd : BitVec 5) (rs1 : BitVec 5) (rs2 : BitVec 5) (rs3 : BitVec 5)
  /-- CPWAIT (R234). -/
  | cpwait (rd : BitVec 5) (rs1 : BitVec 5)
  /-- BINIT (R248). -/
  | binit (rd : BitVec 5) (rs1 : BitVec 5) (rs2 : BitVec 5)
  /-- BARR (R248). -/
  | barr (rd : BitVec 5) (rs1 : BitVec 5)
  /-- BARRX (R248). -/
  | barrx (rd : BitVec 5) (rs1 : BitVec 5) (rs2 : BitVec 5)
  /-- BARRM (R248). -/
  | barrm (rd : BitVec 5) (rs1 : BitVec 5) (rs2 : BitVec 5)
  /-- BWAIT (R248). -/
  | bwait (rd : BitVec 5) (rs1 : BitVec 5) (rs2 : BitVec 5)
  /-- BTEST (R248). -/
  | btest (rd : BitVec 5) (rs1 : BitVec 5) (rs2 : BitVec 5)
  /-- BSHAPE (R359). -/
  | bshape (rd : BitVec 5) (rs1 : BitVec 5) (rs2 : BitVec 5)
  /-- SQADM (R361). -/
  | sqadm (rd : BitVec 5) (rs1 : BitVec 5) (rs2 : BitVec 5)
  /-- SQRET (R362). -/
  | sqret (rd : BitVec 5) (rs1 : BitVec 5) (rs2 : BitVec 5)
  /-- PGALLOC (R275). -/
  | pgalloc (rd : BitVec 5) (rs1 : BitVec 5)
  /-- PGREF (R275). -/
  | pgref (rd : BitVec 5) (rs1 : BitVec 5) (rs2 : BitVec 5)
  /-- PGREL (R275). -/
  | pgrel (rd : BitVec 5) (rs1 : BitVec 5) (rs2 : BitVec 5)
  /-- PGXFER (R281). -/
  | pgxfer (rd : BitVec 5) (rs1 : BitVec 5) (rs2 : BitVec 5)
  /-- IXINIT (R315). -/
  | ixinit (rd : BitVec 5) (rs1 : BitVec 5) (rs2 : BitVec 5)
  /-- IXCUR (R316). -/
  | ixcur (rd : BitVec 5) (rs1 : BitVec 5) (rs2 : BitVec 5)
  /-- IXATT (R317). -/
  | ixatt (rd : BitVec 5) (rs1 : BitVec 5) (rs2 : BitVec 5)
  /-- IXDET (R318). -/
  | ixdet (rd : BitVec 5) (rs1 : BitVec 5)
  /-- IXEXT (R319). -/
  | ixext (rd : BitVec 5) (rs1 : BitVec 5) (rs2 : BitVec 5)
  /-- IXMATCH (R320). -/
  | ixmatch (rd : BitVec 5) (rs1 : BitVec 5) (rs2 : BitVec 5)
  /-- IXSTAT (R321). -/
  | ixstat (rd : BitVec 5) (rs1 : BitVec 5) (rs2 : BitVec 5)
  /-- PGSUB (R287). -/
  | pgsub (rd : BitVec 5) (rs1 : BitVec 5) (rs2 : BitVec 5)
  /-- PGOPEN (R288). -/
  | pgopen (rd : BitVec 5) (rs1 : BitVec 5)
  /-- MBSET (R286). -/
  | mbset (rd : BitVec 5) (rs1 : BitVec 5) (rs2 : BitVec 5)
  /-- VSETVL (R150). -/
  | vsetvl (rd : BitVec 5) (rs1 : BitVec 5) (rs2 : BitVec 5)
  /-- VSETVLI (R150). -/
  | vsetvli (rd : BitVec 5) (rs1 : BitVec 5) (vt : BitVec 11)
  /-- VADD (R159). -/
  | vadd (ok : BitVec 2) (km : BitVec 3) (vs2 : BitVec 5) (src : BitVec 5) (vd : BitVec 5)
  /-- VSUB (R159). -/
  | vsub (ok : BitVec 2) (km : BitVec 3) (vs2 : BitVec 5) (src : BitVec 5) (vd : BitVec 5)
  /-- VRSUB (R159). -/
  | vrsub (ok : BitVec 2) (km : BitVec 3) (vs2 : BitVec 5) (src : BitVec 5) (vd : BitVec 5)
  /-- VMIN (R159). -/
  | vmin (ok : BitVec 2) (km : BitVec 3) (vs2 : BitVec 5) (src : BitVec 5) (vd : BitVec 5)
  /-- VMAX (R159). -/
  | vmax (ok : BitVec 2) (km : BitVec 3) (vs2 : BitVec 5) (src : BitVec 5) (vd : BitVec 5)
  /-- VMINU (R159). -/
  | vminu (ok : BitVec 2) (km : BitVec 3) (vs2 : BitVec 5) (src : BitVec 5) (vd : BitVec 5)
  /-- VMAXU (R159). -/
  | vmaxu (ok : BitVec 2) (km : BitVec 3) (vs2 : BitVec 5) (src : BitVec 5) (vd : BitVec 5)
  /-- VAND (R159). -/
  | vand (ok : BitVec 2) (km : BitVec 3) (vs2 : BitVec 5) (src : BitVec 5) (vd : BitVec 5)
  /-- VOR (R159). -/
  | vor (ok : BitVec 2) (km : BitVec 3) (vs2 : BitVec 5) (src : BitVec 5) (vd : BitVec 5)
  /-- VXOR (R159). -/
  | vxor (ok : BitVec 2) (km : BitVec 3) (vs2 : BitVec 5) (src : BitVec 5) (vd : BitVec 5)
  /-- VSLL (R159). -/
  | vsll (ok : BitVec 2) (km : BitVec 3) (vs2 : BitVec 5) (src : BitVec 5) (vd : BitVec 5)
  /-- VSRL (R159). -/
  | vsrl (ok : BitVec 2) (km : BitVec 3) (vs2 : BitVec 5) (src : BitVec 5) (vd : BitVec 5)
  /-- VSRA (R159). -/
  | vsra (ok : BitVec 2) (km : BitVec 3) (vs2 : BitVec 5) (src : BitVec 5) (vd : BitVec 5)
  /-- VSADD (R159). -/
  | vsadd (ok : BitVec 2) (km : BitVec 3) (vs2 : BitVec 5) (src : BitVec 5) (vd : BitVec 5)
  /-- VSSUB (R159). -/
  | vssub (ok : BitVec 2) (km : BitVec 3) (vs2 : BitVec 5) (src : BitVec 5) (vd : BitVec 5)
  /-- VMERGE (R159). -/
  | vmerge (ok : BitVec 2) (km : BitVec 3) (vs2 : BitVec 5) (src : BitVec 5) (vd : BitVec 5)
  /-- VMUL (R160). -/
  | vmul (ok : BitVec 2) (km : BitVec 3) (vs2 : BitVec 5) (src : BitVec 5) (vd : BitVec 5)
  /-- VMULH (R160). -/
  | vmulh (ok : BitVec 2) (km : BitVec 3) (vs2 : BitVec 5) (src : BitVec 5) (vd : BitVec 5)
  /-- VMULHU (R160). -/
  | vmulhu (ok : BitVec 2) (km : BitVec 3) (vs2 : BitVec 5) (src : BitVec 5) (vd : BitVec 5)
  /-- VDIV (R160). -/
  | vdiv (ok : BitVec 2) (km : BitVec 3) (vs2 : BitVec 5) (src : BitVec 5) (vd : BitVec 5)
  /-- VDIVU (R160). -/
  | vdivu (ok : BitVec 2) (km : BitVec 3) (vs2 : BitVec 5) (src : BitVec 5) (vd : BitVec 5)
  /-- VREM (R160). -/
  | vrem (ok : BitVec 2) (km : BitVec 3) (vs2 : BitVec 5) (src : BitVec 5) (vd : BitVec 5)
  /-- VREMU (R160). -/
  | vremu (ok : BitVec 2) (km : BitVec 3) (vs2 : BitVec 5) (src : BitVec 5) (vd : BitVec 5)
  /-- VMACC (R160). -/
  | vmacc (ok : BitVec 2) (km : BitVec 3) (vs2 : BitVec 5) (src : BitVec 5) (vd : BitVec 5)
  /-- VMV (R160). -/
  | vmv (ok : BitVec 2) (km : BitVec 3) (src : BitVec 5) (vd : BitVec 5)
  /-- VID (R160). -/
  | vid (km : BitVec 3) (vd : BitVec 5)
  /-- VMSEQ (R161). -/
  | vmseq (ok : BitVec 2) (km : BitVec 3) (vs2 : BitVec 5) (src : BitVec 5) (kd : BitVec 3)
  /-- VMSNE (R161). -/
  | vmsne (ok : BitVec 2) (km : BitVec 3) (vs2 : BitVec 5) (src : BitVec 5) (kd : BitVec 3)
  /-- VMSLT (R161). -/
  | vmslt (ok : BitVec 2) (km : BitVec 3) (vs2 : BitVec 5) (src : BitVec 5) (kd : BitVec 3)
  /-- VMSLTU (R161). -/
  | vmsltu (ok : BitVec 2) (km : BitVec 3) (vs2 : BitVec 5) (src : BitVec 5) (kd : BitVec 3)
  /-- VMSLE (R161). -/
  | vmsle (ok : BitVec 2) (km : BitVec 3) (vs2 : BitVec 5) (src : BitVec 5) (kd : BitVec 3)
  /-- VMSLEU (R161). -/
  | vmsleu (ok : BitVec 2) (km : BitVec 3) (vs2 : BitVec 5) (src : BitVec 5) (kd : BitVec 3)
  /-- VMSGT (R161). -/
  | vmsgt (ok : BitVec 2) (km : BitVec 3) (vs2 : BitVec 5) (src : BitVec 5) (kd : BitVec 3)
  /-- VMSGTU (R161). -/
  | vmsgtu (ok : BitVec 2) (km : BitVec 3) (vs2 : BitVec 5) (src : BitVec 5) (kd : BitVec 3)
  /-- VMFEQ (R161). -/
  | vmfeq (ok : BitVec 2) (km : BitVec 3) (vs2 : BitVec 5) (src : BitVec 5) (kd : BitVec 3)
  /-- VMFNE (R161). -/
  | vmfne (ok : BitVec 2) (km : BitVec 3) (vs2 : BitVec 5) (src : BitVec 5) (kd : BitVec 3)
  /-- VMFLT (R161). -/
  | vmflt (ok : BitVec 2) (km : BitVec 3) (vs2 : BitVec 5) (src : BitVec 5) (kd : BitVec 3)
  /-- VMFLE (R161). -/
  | vmfle (ok : BitVec 2) (km : BitVec 3) (vs2 : BitVec 5) (src : BitVec 5) (kd : BitVec 3)
  /-- VFADD (R162). -/
  | vfadd (ok : BitVec 2) (km : BitVec 3) (vs2 : BitVec 5) (src : BitVec 5) (vd : BitVec 5)
  /-- VFSUB (R162). -/
  | vfsub (ok : BitVec 2) (km : BitVec 3) (vs2 : BitVec 5) (src : BitVec 5) (vd : BitVec 5)
  /-- VFMUL (R162). -/
  | vfmul (ok : BitVec 2) (km : BitVec 3) (vs2 : BitVec 5) (src : BitVec 5) (vd : BitVec 5)
  /-- VFDIV (R162). -/
  | vfdiv (ok : BitVec 2) (km : BitVec 3) (vs2 : BitVec 5) (src : BitVec 5) (vd : BitVec 5)
  /-- VFMIN (R162). -/
  | vfmin (ok : BitVec 2) (km : BitVec 3) (vs2 : BitVec 5) (src : BitVec 5) (vd : BitVec 5)
  /-- VFMAX (R162). -/
  | vfmax (ok : BitVec 2) (km : BitVec 3) (vs2 : BitVec 5) (src : BitVec 5) (vd : BitVec 5)
  /-- VFSGNJ (R162). -/
  | vfsgnj (ok : BitVec 2) (km : BitVec 3) (vs2 : BitVec 5) (src : BitVec 5) (vd : BitVec 5)
  /-- VFSGNJN (R162). -/
  | vfsgnjn (ok : BitVec 2) (km : BitVec 3) (vs2 : BitVec 5) (src : BitVec 5) (vd : BitVec 5)
  /-- VFSGNJX (R162). -/
  | vfsgnjx (ok : BitVec 2) (km : BitVec 3) (vs2 : BitVec 5) (src : BitVec 5) (vd : BitVec 5)
  /-- VFMACC (R162). -/
  | vfmacc (ok : BitVec 2) (km : BitVec 3) (vs2 : BitVec 5) (src : BitVec 5) (vd : BitVec 5)
  /-- VFNMACC (R162). -/
  | vfnmacc (ok : BitVec 2) (km : BitVec 3) (vs2 : BitVec 5) (src : BitVec 5) (vd : BitVec 5)
  /-- VFMSAC (R162). -/
  | vfmsac (ok : BitVec 2) (km : BitVec 3) (vs2 : BitVec 5) (src : BitVec 5) (vd : BitVec 5)
  /-- VFSQRT (R162). -/
  | vfsqrt (ok : BitVec 2) (km : BitVec 3) (src : BitVec 5) (vd : BitVec 5)
  /-- VFRCP (R162). -/
  | vfrcp (ok : BitVec 2) (km : BitVec 3) (src : BitVec 5) (vd : BitVec 5)
  /-- VFEXP2 (R162). -/
  | vfexp2 (ok : BitVec 2) (km : BitVec 3) (src : BitVec 5) (vd : BitVec 5)
  /-- VFCLASS (R163). -/
  | vfclass (ok : BitVec 2) (km : BitVec 3) (src : BitVec 5) (vd : BitVec 5)
  /-- VFCVT.F.X (R164). -/
  | vfcvtFX (ok : BitVec 2) (km : BitVec 3) (src : BitVec 5) (vd : BitVec 5)
  /-- VFCVT.X.F (R164). -/
  | vfcvtXF (ok : BitVec 2) (km : BitVec 3) (src : BitVec 5) (vd : BitVec 5)
  /-- VFWCVT (R165). -/
  | vfwcvt (ok : BitVec 2) (km : BitVec 3) (fmt : BitVec 5) (src : BitVec 5) (vd : BitVec 5)
  /-- VFNCVT (R165). -/
  | vfncvt (ok : BitVec 2) (km : BitVec 3) (fmt : BitVec 5) (src : BitVec 5) (vd : BitVec 5)
  /-- VQNT (R166). -/
  | vqnt (ok : BitVec 2) (km : BitVec 3) (vsc : BitVec 5) (src : BitVec 5) (vd : BitVec 5)
  /-- VDEQ (R167). -/
  | vdeq (ok : BitVec 2) (km : BitVec 3) (vsc : BitVec 5) (src : BitVec 5) (vd : BitVec 5)
  /-- KAND (R168). -/
  | kand (ks2 : BitVec 3) (ks1 : BitVec 3) (kd : BitVec 3)
  /-- KOR (R168). -/
  | kor (ks2 : BitVec 3) (ks1 : BitVec 3) (kd : BitVec 3)
  /-- KXOR (R168). -/
  | kxor (ks2 : BitVec 3) (ks1 : BitVec 3) (kd : BitVec 3)
  /-- KANDN (R168). -/
  | kandn (ks2 : BitVec 3) (ks1 : BitVec 3) (kd : BitVec 3)
  /-- KNOT (R168). -/
  | knot (ks1 : BitVec 3) (kd : BitVec 3)
  /-- KFROMV (R168). -/
  | kfromv (km : BitVec 3) (vs1 : BitVec 5) (kd : BitVec 3)
  /-- VFROMK (R168). -/
  | vfromk (km : BitVec 3) (ks1 : BitVec 3) (vd : BitVec 5)
  /-- KPOP (R168). -/
  | kpop (ks1 : BitVec 3) (rd : BitVec 5)
  /-- KFIRST (R168). -/
  | kfirst (ks1 : BitVec 3) (rd : BitVec 5)
  /-- VSLIDEUP (R193). -/
  | vslideup (ok : BitVec 2) (km : BitVec 3) (vs2 : BitVec 5) (src : BitVec 5) (vd : BitVec 5)
  /-- VSLIDEDOWN (R193). -/
  | vslidedown (ok : BitVec 2) (km : BitVec 3) (vs2 : BitVec 5) (src : BitVec 5) (vd : BitVec 5)
  /-- VSLIDE1UP (R193). -/
  | vslide1up (ok : BitVec 2) (km : BitVec 3) (vs2 : BitVec 5) (src : BitVec 5) (vd : BitVec 5)
  /-- VSLIDE1DOWN (R193). -/
  | vslide1down (ok : BitVec 2) (km : BitVec 3) (vs2 : BitVec 5) (src : BitVec 5) (vd : BitVec 5)
  /-- VRGATHER (R194). -/
  | vrgather (ok : BitVec 2) (km : BitVec 3) (vs2 : BitVec 5) (src : BitVec 5) (vd : BitVec 5)
  /-- VCOMPRESS (R195). -/
  | vcompress (km : BitVec 3) (vs1 : BitVec 5) (vd : BitVec 5)
  /-- VEXPAND (R195). -/
  | vexpand (km : BitVec 3) (vs1 : BitVec 5) (vd : BitVec 5)
  /-- VIOTA (R195). -/
  | viota (km : BitVec 3) (ks1 : BitVec 3) (vd : BitVec 5)
  /-- VMVXS (R196). -/
  | vmvxs (vs2 : BitVec 5) (rd : BitVec 5)
  /-- VMVSX (R196). -/
  | vmvsx (rs1 : BitVec 5) (vd : BitVec 5)
  /-- VREDSUM (R198). -/
  | vredsum (ok : BitVec 2) (km : BitVec 3) (vs2 : BitVec 5) (src : BitVec 5) (vd : BitVec 5)
  /-- VREDMAX (R198). -/
  | vredmax (ok : BitVec 2) (km : BitVec 3) (vs2 : BitVec 5) (src : BitVec 5) (vd : BitVec 5)
  /-- VREDMIN (R198). -/
  | vredmin (ok : BitVec 2) (km : BitVec 3) (vs2 : BitVec 5) (src : BitVec 5) (vd : BitVec 5)
  /-- VREDMAXU (R198). -/
  | vredmaxu (ok : BitVec 2) (km : BitVec 3) (vs2 : BitVec 5) (src : BitVec 5) (vd : BitVec 5)
  /-- VREDMINU (R198). -/
  | vredminu (ok : BitVec 2) (km : BitVec 3) (vs2 : BitVec 5) (src : BitVec 5) (vd : BitVec 5)
  /-- VFREDSUM (R198). -/
  | vfredsum (ok : BitVec 2) (km : BitVec 3) (vs2 : BitVec 5) (src : BitVec 5) (vd : BitVec 5)
  /-- VFREDMAX (R198). -/
  | vfredmax (ok : BitVec 2) (km : BitVec 3) (vs2 : BitVec 5) (src : BitVec 5) (vd : BitVec 5)
  /-- VFREDMIN (R198). -/
  | vfredmin (ok : BitVec 2) (km : BitVec 3) (vs2 : BitVec 5) (src : BitVec 5) (vd : BitVec 5)
  /-- VSEGSUM (R199). -/
  | vsegsum (km : BitVec 3) (vs2 : BitVec 5) (ks1 : BitVec 3) (vd : BitVec 5)
  /-- VSEGMAX (R199). -/
  | vsegmax (km : BitVec 3) (vs2 : BitVec 5) (ks1 : BitVec 3) (vd : BitVec 5)
  /-- VLE (R179). -/
  | vle (ok : BitVec 2) (km : BitVec 3) (rs1 : BitVec 5) (vd : BitVec 5)
  /-- VLSE (R179). -/
  | vlse (ok : BitVec 2) (km : BitVec 3) (rs2 : BitVec 5) (rs1 : BitVec 5) (vd : BitVec 5)
  /-- VLXE (R179). -/
  | vlxe (ok : BitVec 2) (km : BitVec 3) (vs2 : BitVec 5) (rs1 : BitVec 5) (vd : BitVec 5)
  /-- VLXB (R180). -/
  | vlxb (ok : BitVec 2) (km : BitVec 3) (vs2 : BitVec 5) (rs1 : BitVec 5) (vd : BitVec 5)
  /-- VLEFF (R181). -/
  | vleff (ok : BitVec 2) (km : BitVec 3) (rs1 : BitVec 5) (vd : BitVec 5)
  /-- VLCB (R183). -/
  | vlcb (km : BitVec 3) (rs2 : BitVec 5) (rs1 : BitVec 5) (vd : BitVec 5)
  /-- VSE (R184). -/
  | vse (ok : BitVec 2) (km : BitVec 3) (rs1 : BitVec 5) (vd : BitVec 5)
  /-- VSSE (R184). -/
  | vsse (ok : BitVec 2) (km : BitVec 3) (rs2 : BitVec 5) (rs1 : BitVec 5) (vd : BitVec 5)
  /-- VSXE (R184). -/
  | vsxe (ok : BitVec 2) (km : BitVec 3) (vs2 : BitVec 5) (rs1 : BitVec 5) (vd : BitVec 5)
  /-- VSCADD (R185). -/
  | vscadd (ok : BitVec 2) (km : BitVec 3) (vs2 : BitVec 5) (rs1 : BitVec 5) (vd : BitVec 5)
  /-- VSCB (R186). -/
  | vscb (rs2 : BitVec 5) (rs1 : BitVec 5) (vd : BitVec 5)
  /-- VCAPP (R187). -/
  | vcapp (km : BitVec 3) (rd : BitVec 5) (rs1 : BitVec 5) (vd : BitVec 5)
  /-- VHACC (R189). -/
  | vhacc (ok : BitVec 2) (km : BitVec 3) (vs2 : BitVec 5) (rs1 : BitVec 5) (vd : BitVec 5)
  /-- QPUTV (R200). -/
  | qputv (km : BitVec 3) (vs1 : BitVec 5) (q : BitVec 4)
  /-- QGETV (R201). -/
  | qgetv (km : BitVec 3) (q : BitVec 4) (vd : BitVec 5)
  /-- VASCORE (R297). -/
  | vascore (vs2 : BitVec 5) (q : BitVec 4)
  /-- VAEXP (R298). -/
  | vaexp
  /-- VAACC (R299). -/
  | vaacc (q : BitVec 4)
  /-- VAFIN (R300). -/
  | vafin (rs1 : BitVec 5) (vd : BitVec 5)
  /-- IXPROP (R324). -/
  | ixprop (rd : BitVec 5) (rs1 : BitVec 5) (vd : BitVec 5)
  /-- IXACC (R325). -/
  | ixacc (vs2 : BitVec 5) (vs1 : BitVec 5) (rd : BitVec 5)
  /-- IXEXTV (R326). -/
  | ixextv (km : BitVec 3) (vs2 : BitVec 5) (rs1 : BitVec 5) (rd : BitVec 5)
  /-- VSTOP (R364). -/
  | vstop (km : BitVec 3) (vs2 : BitVec 5) (rs1 : BitVec 5) (kd : BitVec 3)
  /-- MCFG.ACQ (R254). -/
  | mcfgAcq
  /-- MCFG.REL (R254). -/
  | mcfgRel
  /-- MCFG.SET (R254). -/
  | mcfgSet (rs1 : BitVec 5)
  /-- MLDS (R260). -/
  | mlds (q : BitVec 4) (fmt : BitVec 3)
  /-- MSWAP (R261). -/
  | mswap
  /-- MSTRM (R262). -/
  | mstrm (va : BitVec 5) (vsc : BitVec 5) (tile : BitVec 2) (rows : BitVec 4) (fmt : BitVec 3)
  /-- MDRAIN (R264). -/
  | mdrain (vd : BitVec 5) (tile : BitVec 2) (rows : BitVec 4) (fmt : BitVec 3) (epi : BitVec 2) (vb : BitVec 5)
  /-- MZERO (R265). -/
  | mzero (tile : BitVec 2)
  /-- MWAIT (R265). -/
  | mwait
  /-- MSTRM_EXECUTE (R262). -/
  | mstrmExecute (core : Nat)
  /-- MDRAIN_EXECUTE (R264). -/
  | mdrainExecute (core : Nat)
  /-- MZERO_EXECUTE (R265). -/
  | mzeroExecute (core : Nat)
  /-- MSWAP_EXECUTE (R261). -/
  | mswapExecute (core : Nat)
  /-- MCFG_SET_EXECUTE (R254). -/
  | mcfgSetExecute (core : Nat)
  /-- LEASE_GRANT (R253). -/
  | leaseGrant (core : Nat)
  /-- HART_STALL_END (R80). -/
  | hartStallEnd (hart : Nat)
  /-- TAG_RETIRE (R214). -/
  | tagRetire (hart : Nat) (tag : Nat)
  /-- VIEW_ADVANCE (R206). -/
  | viewAdvance (wid : Nat) (view : Option View)
  /-- TLB_EVICTION (R340). -/
  | tlbEviction (place : TlbPlace) (idx : Nat)
  /-- TIMER_INTERRUPT (R394). -/
  | timerInterrupt (hart : Nat)
  /-- MAILBOX_INTERRUPT (R394). -/
  | mailboxInterrupt (hart : Nat)
  /-- PREEMPTION_TRAP (R385). -/
  | preemptionTrap (hart : Nat)
  /-- END_OF_BODY (R370). -/
  | endOfBody (hart : Nat)
  /-- QCFG_WRITE (R223). -/
  | qcfgWrite (hart : Nat) (v : BitVec 64)
  /-- SSTATUS_LEAVE (R402). -/
  | sstatusLeave (hart : Nat)
  /-- VIOLOG_WRITE (R342). -/
  | viologWrite (hart : Nat) (v : BitVec 64)
  /-- REGISTER_WRITE (R8). -/
  | registerWrite (place : RegPlace) (v : BitVec 64)
  /-- COPY_UNIT (R229). -/
  | copyUnit (core : Nat)
  /-- COPY_COMPLETE (R235). -/
  | copyComplete (core : Nat) (hart : Nat) (ticket : Nat)
  /-- TRAIN_ACK (R221). -/
  | trainAck (core : Nat) (hart : Nat) (ticket : Nat) (dev : Nat) (ok : Bool)
  /-- BARRIER_NOTICE (R246). -/
  | barrierNotice (notice : Notice)
  /-- POOL_VALIDATE (R271). -/
  | poolValidate (pa : Nat)
  /-- SLUICE_FETCH (R289). -/
  | sluiceFetch (die : Nat)
  /-- SLUICE_DELIVERY (R290). -/
  | sluiceDelivery (die : Nat) (sub : Nat)
  /-- STAGE_RECLAIM (R291). -/
  | stageReclaim (die : Nat)
  /-- SLUICE_REFETCH (R291). -/
  | sluiceRefetch (die : Nat)
  /-- LATE_JOINER_SERVICE (R292). -/
  | lateJoinerService (die : Nat)
  /-- PARTIAL_MERGE (R294). -/
  | partialMerge (die : Nat) (gseq : Nat) (mq : Nat)
  /-- QUEUE_NOTIFY (R351). -/
  | queueNotify (die : Nat) (queue : Nat) (stream : Nat) (acc : NotifyAccess)
  /-- QUEUE_SERVICE_STEP (R353). -/
  | queueServiceStep (die : Nat) (queue : Nat)
  /-- QUEUE_MAP (R353). -/
  | queueMap (die : Nat) (queue : Nat)
  /-- QUEUE_UNMAP (R353). -/
  | queueUnmap (die : Nat) (queue : Nat)
  /-- LAUNCH_READY (R375). -/
  | launchReady (lid : Nat)
  /-- PLACEMENT_DISPATCH (R379). -/
  | placementDispatch (lid : Nat) (die : Nat)
  /-- TEMPORAL_REDISPATCH (R371). -/
  | temporalRedispatch (crew : Nat)
  /-- CREW_END (R376). -/
  | crewEnd (crew : Nat)
  /-- LAUNCH_ABANDON (R375). -/
  | launchAbandon (crew : Nat)
  /-- SLICE_EXPIRY (R384). -/
  | sliceExpiry (die : Nat) (item : WaitItem)
  /-- PREEMPTION_REQUEST (R384). -/
  | preemptionRequest (die : Nat) (item : WaitItem)
  /-- SWITCH_OUT (R403). -/
  | switchOut (crew : Nat)
  /-- CREW_RESUME (R408). -/
  | crewResume (pid : Nat)
  /-- CONTEXT_LIVE (R333). -/
  | contextLive (ctx : Nat)
  /-- CONTEXT_QUIESCE (R333). -/
  | contextQuiesce (ctx : Nat)
  /-- CONTEXT_TEARDOWN (R334). -/
  | contextTeardown (ctx : Nat)
  /-- TEARDOWN_COMPLETE (R334). -/
  | teardownComplete (ctx : Nat)
  /-- CONTEXT_RELEASE (R333). -/
  | contextRelease (ctx : Nat)
  /-- PATROL_SCRUB (R418). -/
  | patrolScrub (place : ScrubPlace) (found : ReadFault)
  /-- CHANNEL_RETIRE (R420). -/
  | channelRetire (ch : Nat)
  /-- REBUILD_ROW (R421). -/
  | rebuildRow (group : Nat)
  /-- CORE_SPARE (R423). -/
  | coreSpare (core : Nat) (readable : Bool)
  /-- ROW_REMAP (R424). -/
  | rowRemap (place : RowPlace) (lines : Nat) (lost : List Nat)
  /-- CHECKPOINT_WRITE (R426). -/
  | checkpointWrite
  /-- MODULE_RESET (R459). -/
  | moduleReset (fail : Option Nat)
  /-- LINK_TRAINING_DONE (R431). -/
  | linkTrainingDone (port : Nat) (lanes : BitVec 4) (devnum : Nat)
  /-- LANE_FAILURE (R431). -/
  | laneFailure (port : Nat) (lane : Nat)
  /-- LOSS_OF_SIGNAL (R431). -/
  | lossOfSignal (port : Nat)
  /-- FLIT_RECEIVE (R433). -/
  | flitReceive (port : Nat) (flit : Flit)
  /-- FLIT_REPLAY (R435). -/
  | flitReplay (port : Nat)
  /-- REQUEST_TIMEOUT (R435). -/
  | requestTimeout (rid : Nat)
  /-- ATS_INVALIDATION (R442). -/
  | atsInvalidation (pasid : Nat) (iova : Nat) (len : Nat)
  /-- INVALIDATION_COMPLETION (R442). -/
  | invalidationCompletion
  /-- HOST_BAR2_ACCESS (R440). -/
  | hostBar2Access (acc : HostAccess)
  /-- TDISP_REQUEST (R445). -/
  | tdispRequest (world : Nat) (msg : TdispMsg)
  /-- IDE_KM (R444). -/
  | ideKm (stream : Nat) (key : IdeKey)
  /-- GET_MEASUREMENTS (R457). -/
  | getMeasurements (world : Nat) (nonce : List (BitVec 8))
  /-- TELEMETRY_READ (R455). -/
  | telemetryRead (counter : Nat) (stream : Nat) (acc : TelemetryAccess)
  /-- MAILBOX_DOORBELL (R441). -/
  | mailboxDoorbell (req : List (BitVec 8))
  /-- QBIND (R461). -/
  | qbind (die : Nat) (queue : Nat) (ctx : Nat) (va : Nat)
  /-- QUNBIND (R461). -/
  | qunbind (die : Nat) (queue : Nat)
  /-- PARTSET (R463). -/
  | partset (mask : BitVec 8)
  /-- CLKSET (R463). -/
  | clkset (part : Nat) (mhz : Nat)
  /-- PWRLIM (R461). -/
  | pwrlim (watts : Nat)
  /-- SLICE (R461). -/
  | slice (log2 : Nat)
  /-- LINK_ENABLE (R461). -/
  | linkEnable (port : Nat)
  /-- LINK_DISABLE (R461). -/
  | linkDisable (port : Nat)
  /-- LINK_RETIRE (R461). -/
  | linkRetire (port : Nat)
  /-- CHRETIRE (R461). -/
  | chretire (ch : Nat)
  /-- REVOKE (R461). -/
  | revoke (core : Nat)
  /-- CKPT (R461). -/
  | ckpt
  /-- APMAP (R462). -/
  | apmap (page : Nat) (ctx : Nat) (rights : BitVec 2) (base : Nat) (len : Nat)
  /-- APMAP_UNMAP (R462). -/
  | apmapUnmap (page : Nat)
  /-- LOGREAD (R462). -/
  | logread (first : Nat) (count : Nat)
  /-- TIMER (R465). -/
  | timer (hart : Nat) (value : BitVec 64)
  /-- WOPEN (R446). -/
  | wopen (world : Nat)
  /-- WADMIT (R446). -/
  | wadmit (world : Nat) (ctx : Nat)
  /-- LGTAG (R447). -/
  | lgtag (core : Nat) (world : Nat) (mask : BitVec 16)
  /-- FTAG (R448). -/
  | ftag (world : Nat) (frame : Nat)
  /-- TLSET (R455). -/
  | tlset (world : Nat) (chunk : Nat) (bits : List (BitVec 8))
  /-- WERASE (R454). -/
  | werase (world : Nat)
  /-- ATTEST (R457). -/
  | attest (world : Nat) (nonce : List (BitVec 8))
  /-- WEXPORT (R458). -/
  | wexport (world : Nat) (report : List (BitVec 8)) (modulus : List (BitVec 8)) (chain : List (BitVec 8))
  /-- WIMPORT (R458). -/
  | wimport (world : Nat) (blob : List (BitVec 8))
  /-- MREXT (R457). -/
  | mrext (world : Nat) (digest : List (BitVec 8))
  /-- CERT (R461). -/
  | cert
  /-- POWER_SAMPLE (R464). -/
  | powerSample (milliwatts : Nat) (temps : List Nat)
  /-- THROTTLE_STEP (R464). -/
  | throttleStep (part : Nat)
  /-- RESERVED_ENCODING (R102). -/
  | reservedEncoding
  /-- FETCH_FAULT (R103). -/
  | fetchFault (cause : Nat) (addr : BitVec 64)
  /-- HOST_COMPLETION (R439). -/
  | hostCompletion (rid : Nat) (ans : HostAnswer)
  deriving DecidableEq, Repr

end Sys2Proof
end

