-- ==== Sys2Proof/WellFormed.lean ====
section
/-! DEFINITION. Which instructions have an encoding that is not reserved (04_encoding R83, R88, R89, R93 to R101), and which
steps name a unit that exists. -/

namespace Sys2Proof

/-- A k register fills three bits of a five-bit field, and file vl names no register (R83, R89). -/
def regOk (file : BitVec 2) (reg : BitVec 5) : Bool :=
  if file = 3 then reg == 0 else if file = 2 then decide (reg.toNat < 8) else true

/-- The operand kind is one the major permits, and a chute source leaves bit 17 zero (R93). -/
def okIn (ok : BitVec 2) (src : BitVec 5) (ks : List (BitVec 2)) : Bool :=
  ks.contains ok && (ok != 3 || decide (src.toNat < 16))

/-- An fmt field whose format code leaves NF no part in it: a float format has NF 00 (R165). -/
def nfOk (fmt : BitVec 5) : Bool := !(decide (4 ≤ fmt.toNat % 8) && decide (fmt.toNat % 8 ≤ 6)) || decide (fmt.toNat / 8 = 0)

/-- The register word, plane or tile row that a scrub names exists; so does the core of a register file. -/
def scrubOk : ScrubPlace → Bool
  | .line _ => true
  | .vreg hart _ word => decide (hart < 512) && decide (word < 256)
  | .plane core _ => decide (core < 64)
  | .tileRow core tile row => decide (core < 64) && decide (tile < 4) && decide (row < 64)
def rowOk : RowPlace → Bool
  | .memory _ => true
  | .registers core _ => decide (core < 64)

/-- The check of R102 on the operands of an instruction, and the range of the unit numbers of a step. -/
def wellFormed : Instr → Bool
  | .cLi rd _ => rd != 0
  | .cAddi rd _ => rd != 0
  | .cMv rd _ => rd != 0
  | .cAdd rd _ => rd != 0
  | .cJr rs1 => rs1 != 0
  | .amoswapD _ scope _ _ _ => decide (scope.toNat ≤ 4)
  | .amoaddD _ scope _ _ _ => decide (scope.toNat ≤ 4)
  | .amoandD _ scope _ _ _ => decide (scope.toNat ≤ 4)
  | .amoorD _ scope _ _ _ => decide (scope.toNat ≤ 4)
  | .amoxorD _ scope _ _ _ => decide (scope.toNat ≤ 4)
  | .amominD _ scope _ _ _ => decide (scope.toNat ≤ 4)
  | .amomaxD _ scope _ _ _ => decide (scope.toNat ≤ 4)
  | .amominuD _ scope _ _ _ => decide (scope.toNat ≤ 4)
  | .amomaxuD _ scope _ _ _ => decide (scope.toNat ≤ 4)
  | .amocasD _ scope _ _ _ => decide (scope.toNat ≤ 4)
  | .ldaD scope _ _ => decide (scope.toNat ≤ 4)
  | .stlD scope _ _ => decide (scope.toNat ≤ 4)
  | .amoswapW _ scope _ _ _ => decide (scope.toNat ≤ 4)
  | .amoaddW _ scope _ _ _ => decide (scope.toNat ≤ 4)
  | .amoandW _ scope _ _ _ => decide (scope.toNat ≤ 4)
  | .amoorW _ scope _ _ _ => decide (scope.toNat ≤ 4)
  | .amoxorW _ scope _ _ _ => decide (scope.toNat ≤ 4)
  | .amominW _ scope _ _ _ => decide (scope.toNat ≤ 4)
  | .amomaxW _ scope _ _ _ => decide (scope.toNat ≤ 4)
  | .amominuW _ scope _ _ _ => decide (scope.toNat ≤ 4)
  | .amomaxuW _ scope _ _ _ => decide (scope.toNat ≤ 4)
  | .amocasW _ scope _ _ _ => decide (scope.toNat ≤ 4)
  | .ldaW scope _ _ => decide (scope.toNat ≤ 4)
  | .stlW scope _ _ => decide (scope.toNat ≤ 4)
  | .fence scope _ _ => decide (scope.toNat ≤ 4)
  | .fenceX scope src dst => decide (scope.toNat ≤ 4) && decide (src.toNat ≤ 4) && decide (dst.toNat ≤ 4)
  | .fenceT scope _ _ _ => decide (scope.toNat ≤ 4)
  | .tclr file reg => regOk file reg
  | .tjoin fs fd rs1 rd => regOk fs rs1 && regOk fd rd
  | .vadd ok _ _ src _ => okIn ok src [0, 1, 2, 3]
  | .vsub ok _ _ src _ => okIn ok src [0, 1, 2, 3]
  | .vrsub ok _ _ src _ => okIn ok src [0, 1, 2, 3]
  | .vmin ok _ _ src _ => okIn ok src [0, 1, 2, 3]
  | .vmax ok _ _ src _ => okIn ok src [0, 1, 2, 3]
  | .vminu ok _ _ src _ => okIn ok src [0, 1, 2, 3]
  | .vmaxu ok _ _ src _ => okIn ok src [0, 1, 2, 3]
  | .vand ok _ _ src _ => okIn ok src [0, 1, 2, 3]
  | .vor ok _ _ src _ => okIn ok src [0, 1, 2, 3]
  | .vxor ok _ _ src _ => okIn ok src [0, 1, 2, 3]
  | .vsll ok _ _ src _ => okIn ok src [0, 1, 2, 3]
  | .vsrl ok _ _ src _ => okIn ok src [0, 1, 2, 3]
  | .vsra ok _ _ src _ => okIn ok src [0, 1, 2, 3]
  | .vsadd ok _ _ src _ => okIn ok src [0, 1, 2, 3]
  | .vssub ok _ _ src _ => okIn ok src [0, 1, 2, 3]
  | .vmerge ok km _ src _ => okIn ok src [0, 1, 2, 3] && km != 0
  | .vmul ok _ _ src _ => okIn ok src [0, 1, 3]
  | .vmulh ok _ _ src _ => okIn ok src [0, 1, 3]
  | .vmulhu ok _ _ src _ => okIn ok src [0, 1, 3]
  | .vdiv ok _ _ src _ => okIn ok src [0, 1, 3]
  | .vdivu ok _ _ src _ => okIn ok src [0, 1, 3]
  | .vrem ok _ _ src _ => okIn ok src [0, 1, 3]
  | .vremu ok _ _ src _ => okIn ok src [0, 1, 3]
  | .vmacc ok _ _ src _ => okIn ok src [0, 1, 3]
  | .vmv ok _ src _ => okIn ok src [0, 1, 2, 3]
  | .vmseq ok _ _ src _ => okIn ok src [0, 1, 2, 3]
  | .vmsne ok _ _ src _ => okIn ok src [0, 1, 2, 3]
  | .vmslt ok _ _ src _ => okIn ok src [0, 1, 2, 3]
  | .vmsltu ok _ _ src _ => okIn ok src [0, 1, 2, 3]
  | .vmsle ok _ _ src _ => okIn ok src [0, 1, 2, 3]
  | .vmsleu ok _ _ src _ => okIn ok src [0, 1, 2, 3]
  | .vmsgt ok _ _ src _ => okIn ok src [0, 1, 2, 3]
  | .vmsgtu ok _ _ src _ => okIn ok src [0, 1, 2, 3]
  | .vmfeq ok _ _ src _ => okIn ok src [0, 1, 3]
  | .vmfne ok _ _ src _ => okIn ok src [0, 1, 3]
  | .vmflt ok _ _ src _ => okIn ok src [0, 1, 3]
  | .vmfle ok _ _ src _ => okIn ok src [0, 1, 3]
  | .vfadd ok _ _ src _ => okIn ok src [0, 1, 3]
  | .vfsub ok _ _ src _ => okIn ok src [0, 1, 3]
  | .vfmul ok _ _ src _ => okIn ok src [0, 1, 3]
  | .vfdiv ok _ _ src _ => okIn ok src [0, 1, 3]
  | .vfmin ok _ _ src _ => okIn ok src [0, 1, 3]
  | .vfmax ok _ _ src _ => okIn ok src [0, 1, 3]
  | .vfsgnj ok _ _ src _ => okIn ok src [0, 1, 3]
  | .vfsgnjn ok _ _ src _ => okIn ok src [0, 1, 3]
  | .vfsgnjx ok _ _ src _ => okIn ok src [0, 1, 3]
  | .vfmacc ok _ _ src _ => okIn ok src [0, 1, 3]
  | .vfnmacc ok _ _ src _ => okIn ok src [0, 1, 3]
  | .vfmsac ok _ _ src _ => okIn ok src [0, 1, 3]
  | .vfsqrt ok _ src _ => okIn ok src [0, 1, 3]
  | .vfrcp ok _ src _ => okIn ok src [0, 1, 3]
  | .vfexp2 ok _ src _ => okIn ok src [0, 1, 3]
  | .vfclass ok _ src _ => okIn ok src [0, 1, 3]
  | .vfcvtFX ok _ src _ => okIn ok src [0, 3]
  | .vfcvtXF ok _ src _ => okIn ok src [0, 3]
  | .vfwcvt ok _ fmt src vd => okIn ok src [0] && nfOk fmt && vd != src
  | .vfncvt ok _ fmt src vd => okIn ok src [0, 3] && nfOk fmt && (ok == 3 || vd != src)
  | .vqnt ok _ vsc src vd => okIn ok src [0, 3] && vd != vsc && (ok == 3 || (vd != src && vsc != src))
  | .vdeq ok _ vsc src vd => okIn ok src [0] && vd != src && vd != vsc
  | .vslideup ok _ vs2 src vd => okIn ok src [0, 1, 2, 3] && vd != vs2 && (ok != 0 || vd != src)
  | .vslidedown ok _ _ src _ => okIn ok src [0, 1, 2, 3]
  | .vslide1up ok _ vs2 src vd => okIn ok src [0, 1, 2, 3] && vd != vs2 && (ok != 0 || vd != src)
  | .vslide1down ok _ _ src _ => okIn ok src [0, 1, 2, 3]
  | .vrgather ok _ vs2 src vd => okIn ok src [0, 1, 2] && vd != vs2 && (ok != 0 || vd != src)
  | .vcompress km vs1 vd => km != 0 && vd != vs1
  | .vexpand km vs1 vd => km != 0 && vd != vs1
  | .vredsum ok _ _ src _ => okIn ok src [0, 1]
  | .vredmax ok _ _ src _ => okIn ok src [0, 1]
  | .vredmin ok _ _ src _ => okIn ok src [0, 1]
  | .vredmaxu ok _ _ src _ => okIn ok src [0, 1]
  | .vredminu ok _ _ src _ => okIn ok src [0, 1]
  | .vfredsum ok _ _ src _ => okIn ok src [0, 1]
  | .vfredmax ok _ _ src _ => okIn ok src [0, 1]
  | .vfredmin ok _ _ src _ => okIn ok src [0, 1]
  | .vsegsum _ vs2 _ vd => vd != vs2
  | .vsegmax _ vs2 _ vd => vd != vs2
  | .vle ok _ _ _ => ok != 2 && ok != 3
  | .vlse ok _ _ _ _ => ok != 2 && ok != 3
  | .vlxe ok _ vs2 _ vd => ok != 3 && (ok != 2 || decide (vs2.toNat < 16)) && (ok == 2 || vd != vs2)
  | .vlxb ok _ vs2 rs1 vd => ok != 3 && (ok != 2 || decide (vs2.toNat < 16)) && (ok == 2 || vd != vs2) && rs1 != 0 && rs1.toNat % 2 == 0
  | .vleff ok _ _ _ => ok != 2 && ok != 3
  | .vse ok _ _ vd => ok != 3 && (ok != 2 || decide (vd.toNat < 16))
  | .vsse ok _ _ _ vd => ok != 3 && (ok != 2 || decide (vd.toNat < 16))
  | .vsxe ok _ vs2 _ _ => ok != 3 && (ok != 2 || decide (vs2.toNat < 16))
  | .vscadd ok _ vs2 _ _ => ok != 3 && (ok != 2 || decide (vs2.toNat < 16))
  | .vhacc ok _ vs2 _ _ => (ok == 0 || ok == 2) && (ok != 2 || decide (vs2.toNat < 16))
  | .mlds _ fmt => decide (fmt.toNat ≤ 4)
  | .mstrm _ _ _ rows fmt => decide (fmt.toNat ≤ 4) && decide (rows.toNat ≤ 8)
  | .mdrain _ _ rows fmt epi vb => decide (fmt.toNat ≤ 6) && decide (rows.toNat ≤ 8) && (epi != 0 || vb == 0) && (epi != 3 || vb != 31)
  | .mstrmExecute core => decide (core < 64)
  | .mdrainExecute core => decide (core < 64)
  | .mzeroExecute core => decide (core < 64)
  | .mswapExecute core => decide (core < 64)
  | .mcfgSetExecute core => decide (core < 64)
  | .leaseGrant core => decide (core < 64)
  | .hartStallEnd hart => decide (hart < 512)
  | .tagRetire hart _ => decide (hart < 512)
  | .timerInterrupt hart => decide (hart < 512)
  | .mailboxInterrupt hart => decide (hart < 512)
  | .preemptionTrap hart => decide (hart < 512)
  | .endOfBody hart => decide (hart < 512)
  | .qcfgWrite hart _ => decide (hart < 512)
  | .sstatusLeave hart => decide (hart < 512)
  | .viologWrite hart _ => decide (hart < 512)
  | .registerWrite (.csr hart _) _ => decide (hart < 512)
  | .registerWrite (.timer hart) _ => decide (hart < 512)
  | .registerWrite (.ideStatus stream) _ => decide (stream < 16)
  | .registerWrite (.window src _ _ _ _ ctx) _ => decide (src < 255) && decide (ctx < 65536)
  | .registerWrite .mailbox _ => true
  | .copyUnit core => decide (core < 64)
  | .copyComplete core hart _ => decide (core < 64) && decide (hart < 512)
  | .trainAck core hart _ _ _ => decide (core < 64) && decide (hart < 512)
  | .sluiceFetch die => decide (die < 8)
  | .sluiceDelivery die _ => decide (die < 8)
  | .stageReclaim die => decide (die < 8)
  | .sluiceRefetch die => decide (die < 8)
  | .lateJoinerService die => decide (die < 8)
  | .partialMerge die _ mq => decide (die < 8) && decide (mq < 256)
  | .queueNotify die queue stream _ => decide (die < 8) && decide (queue < 64) && decide (stream < 16)
  | .queueServiceStep die queue => decide (die < 8) && decide (queue < 64)
  | .queueMap die queue => decide (die < 8) && decide (queue < 64)
  | .queueUnmap die queue => decide (die < 8) && decide (queue < 64)
  | .placementDispatch _ die => decide (die < 8)
  | .temporalRedispatch crew => decide (crew < 256)
  | .crewEnd crew => decide (crew < 256)
  | .launchAbandon crew => decide (crew < 256)
  | .sliceExpiry die _ => decide (die < 8)
  | .preemptionRequest die _ => decide (die < 8)
  | .switchOut crew => decide (crew < 256)
  | .contextLive ctx => decide (ctx < 65536)
  | .contextQuiesce ctx => decide (ctx < 65536)
  | .contextTeardown ctx => decide (ctx < 65536)
  | .teardownComplete ctx => decide (ctx < 65536)
  | .contextRelease ctx => decide (ctx < 65536)
  | .channelRetire ch => decide (ch < 256)
  | .rebuildRow group => decide (group < 16)
  | .coreSpare core _ => decide (core < 64)
  | .linkTrainingDone port _ _ => decide (port < 32)
  | .laneFailure port _ => decide (port < 32)
  | .lossOfSignal port => decide (port < 32)
  | .flitReceive port _ => decide (port < 32)
  | .flitReplay port => decide (port < 32)
  | .tdispRequest world _ => decide (world < 16)
  | .ideKm stream _ => decide (stream < 16)
  | .getMeasurements world _ => decide (world < 16)
  | .telemetryRead _ stream _ => decide (stream < 16)
  | .qbind die queue ctx _ => decide (die < 8) && decide (queue < 64) && decide (ctx < 65536)
  | .qunbind die queue => decide (die < 8) && decide (queue < 64)
  | .clkset part _ => decide (part < 2)
  | .linkEnable port => decide (port < 32)
  | .linkDisable port => decide (port < 32)
  | .linkRetire port => decide (port < 32)
  | .chretire ch => decide (ch < 256)
  | .revoke core => decide (core < 64)
  | .apmap page ctx _ _ _ => decide (page < 4096) && decide (ctx < 65536)
  | .apmapUnmap page => decide (page < 4096)
  | .timer hart _ => decide (hart < 512)
  | .wopen world => decide (world < 16)
  | .wadmit world ctx => decide (world < 16) && decide (ctx < 65536)
  | .lgtag core world _ => decide (core < 64) && decide (world < 16)
  | .ftag world _ => decide (world < 16)
  | .tlset world _ _ => decide (world < 16)
  | .werase world => decide (world < 16)
  | .attest world _ => decide (world < 16)
  | .wexport world _ _ _ => decide (world < 16)
  | .wimport world _ => decide (world < 16)
  | .mrext world _ => decide (world < 16)
  | .throttleStep part => decide (part < 2)
  | .cLd _ _ _ => true
  | .cSd _ _ _ => true
  | .cJ _ => true
  | .cBeqz _ _ => true
  | .cBnez _ _ => true
  | .cQget _ _ => true
  | .cNop => true
  | .addi _ _ _ => true
  | .slti _ _ _ => true
  | .sltiu _ _ _ => true
  | .andi _ _ _ => true
  | .ori _ _ _ => true
  | .xori _ _ _ => true
  | .slli _ _ _ => true
  | .srli _ _ _ => true
  | .srai _ _ _ => true
  | .add _ _ _ => true
  | .sub _ _ _ => true
  | .and _ _ _ => true
  | .or _ _ _ => true
  | .xor _ _ _ => true
  | .sll _ _ _ => true
  | .srl _ _ _ => true
  | .sra _ _ _ => true
  | .slt _ _ _ => true
  | .sltu _ _ _ => true
  | .min _ _ _ => true
  | .max _ _ _ => true
  | .minu _ _ _ => true
  | .maxu _ _ _ => true
  | .mul _ _ _ => true
  | .mulh _ _ _ => true
  | .mulhu _ _ _ => true
  | .div _ _ _ => true
  | .divu _ _ _ => true
  | .rem _ _ _ => true
  | .remu _ _ _ => true
  | .clz _ _ => true
  | .ctz _ _ => true
  | .cpop _ _ => true
  | .lui _ _ => true
  | .auipc _ _ => true
  | .jal _ _ => true
  | .jalr _ _ _ => true
  | .beq _ _ _ => true
  | .bne _ _ _ => true
  | .blt _ _ _ => true
  | .bge _ _ _ => true
  | .bltu _ _ _ => true
  | .bgeu _ _ _ => true
  | .ld _ _ _ => true
  | .lw _ _ _ => true
  | .lh _ _ _ => true
  | .lb _ _ _ => true
  | .lwu _ _ _ => true
  | .lhu _ _ _ => true
  | .lbu _ _ _ => true
  | .sd _ _ _ => true
  | .sw _ _ _ => true
  | .sh _ _ _ => true
  | .sb _ _ _ => true
  | .yield => true
  | .wfi => true
  | .ecall => true
  | .ebreak => true
  | .eret => true
  | .tlbinv _ => true
  | .csrrw _ _ _ => true
  | .csrrwi _ _ _ => true
  | .csrrs _ _ _ => true
  | .csrrsi _ _ _ => true
  | .csrrc _ _ _ => true
  | .csrrci _ _ _ => true
  | .qput _ _ => true
  | .qget _ _ => true
  | .qbr _ _ => true
  | .qstat _ _ => true
  | .cpy _ _ _ _ => true
  | .cpy2d _ _ _ _ => true
  | .gathr _ _ _ _ => true
  | .scatr _ _ _ _ => true
  | .cpwait _ _ => true
  | .binit _ _ _ => true
  | .barr _ _ => true
  | .barrx _ _ _ => true
  | .barrm _ _ _ => true
  | .bwait _ _ _ => true
  | .btest _ _ _ => true
  | .bshape _ _ _ => true
  | .sqadm _ _ _ => true
  | .sqret _ _ _ => true
  | .pgalloc _ _ => true
  | .pgref _ _ _ => true
  | .pgrel _ _ _ => true
  | .pgxfer _ _ _ => true
  | .ixinit _ _ _ => true
  | .ixcur _ _ _ => true
  | .ixatt _ _ _ => true
  | .ixdet _ _ => true
  | .ixext _ _ _ => true
  | .ixmatch _ _ _ => true
  | .ixstat _ _ _ => true
  | .pgsub _ _ _ => true
  | .pgopen _ _ => true
  | .mbset _ _ _ => true
  | .vsetvl _ _ _ => true
  | .vsetvli _ _ _ => true
  | .vid _ _ => true
  | .kand _ _ _ => true
  | .kor _ _ _ => true
  | .kxor _ _ _ => true
  | .kandn _ _ _ => true
  | .knot _ _ => true
  | .kfromv _ _ _ => true
  | .vfromk _ _ _ => true
  | .kpop _ _ => true
  | .kfirst _ _ => true
  | .viota _ _ _ => true
  | .vmvxs _ _ => true
  | .vmvsx _ _ => true
  | .vlcb _ _ _ _ => true
  | .vscb _ _ _ => true
  | .vcapp _ _ _ _ => true
  | .qputv _ _ _ => true
  | .qgetv _ _ _ => true
  | .vascore _ _ => true
  | .vaexp => true
  | .vaacc _ => true
  | .vafin _ _ => true
  | .ixprop _ _ _ => true
  | .ixacc _ _ _ => true
  | .ixextv _ _ _ _ => true
  | .vstop _ _ _ _ => true
  | .mcfgAcq => true
  | .mcfgRel => true
  | .mcfgSet _ => true
  | .mswap => true
  | .mzero _ => true
  | .mwait => true
  | .viewAdvance _ _ => true
  | .tlbEviction _ _ => true
  | .barrierNotice _ => true
  | .poolValidate _ => true
  | .launchReady _ => true
  | .crewResume _ => true
  | .patrolScrub place _ => scrubOk place
  | .rowRemap place _ _ => rowOk place
  | .checkpointWrite => true
  | .moduleReset _ => true
  | .requestTimeout _ => true
  | .atsInvalidation _ _ _ => true
  | .invalidationCompletion => true
  | .hostBar2Access _ => true
  | .mailboxDoorbell _ => true
  | .partset _ => true
  | .pwrlim _ => true
  | .slice _ => true
  | .ckpt => true
  | .logread _ _ => true
  | .cert => true
  | .powerSample _ _ => true
  | .reservedEncoding => true
  | .fetchFault _ _ => true
  | .hostCompletion _ _ => true

end Sys2Proof
end

