-- ==== Sys2Proof/Decode.lean ====
section
/-! DEFINITION. The decoder and the encoder (04_encoding R81 to R102).

The decoder is total: bits that are no instruction are refused under a name. A 32-bit word is first cut into the atomic
fields that every format of R84, R88, R92 and R98 is made of; each format's own fields are put together from them. The
encoder is written from the same rows of the spec, after the decoder. -/

namespace Sys2Proof

/-- Why bits are no instruction (R102). -/
inductive DecodeErr where
  /-- Fewer bytes than the class of the first parcel asks for (R81). -/
  | tooShort
  /-- A reserved op or major. -/
  | reservedMajor
  /-- A reserved function code. -/
  | reservedFunction
  /-- A non-zero bit in a field that must be zero, or a reserved field value or operand kind. -/
  | reservedField
  deriving DecidableEq, Repr

/-- The atomic fields of a 32-bit word: a [12:8], b [17:13], c [22:18], d [25:23], e [27:26], f [31:28], major [7:2]. -/
structure Fields where
  f : BitVec 4
  e : BitVec 2
  d : BitVec 3
  c : BitVec 5
  b : BitVec 5
  a : BitVec 5
  major : BitVec 6
  deriving DecidableEq, Repr

/-- Cut a word into its fields. -/
def Fields.unpack (w : Nat) : Fields where
  f := BitVec.ofNat 4 (w / 268435456)
  e := BitVec.ofNat 2 (w / 67108864)
  d := BitVec.ofNat 3 (w / 8388608)
  c := BitVec.ofNat 5 (w / 262144)
  b := BitVec.ofNat 5 (w / 8192)
  a := BitVec.ofNat 5 (w / 256)
  major := BitVec.ofNat 6 (w / 4)

/-- Put the fields of a word together, with its class in bits [1:0]. -/
def Fields.pack (cls : Nat) (x : Fields) : Nat :=
  cls + 4 * x.major.toNat + 256 * x.a.toNat + 8192 * x.b.toNat + 262144 * x.c.toNat + 8388608 * x.d.toNat
    + 67108864 * x.e.toNat + 268435456 * x.f.toNat

/-- fn9 of the R form (R84). -/
def Fields.fn9 (x : Fields) : Nat := 32 * x.f.toNat + 8 * x.e.toNat + x.d.toNat
/-- imm11 of the I form (R85). -/
def Fields.immI (x : Fields) : BitVec 11 :=
  BitVec.ofNat 11 (128 * x.f.toNat + 32 * x.e.toNat + 4 * x.d.toNat + x.c.toNat / 8)
/-- fn3 of the I form. -/
def Fields.fn3 (x : Fields) : Nat := x.c.toNat % 8
/-- The immediate of the S and B forms (R85). -/
def Fields.immS (x : Fields) : BitVec 11 := BitVec.ofNat 11 (128 * x.f.toNat + 32 * x.e.toNat + x.a.toNat)
/-- imm19 of the U and J forms (R85). -/
def Fields.immU (x : Fields) : BitVec 19 :=
  BitVec.ofNat 19 (32768 * x.f.toNat + 8192 * x.e.toNat + 1024 * x.d.toNat + 32 * x.c.toNat + x.b.toNat)
/-- rs3 of the Q form (R84). -/
def Fields.rs3 (x : Fields) : BitVec 5 := BitVec.ofNat 5 (8 * x.e.toNat + x.d.toNat)
/-- Bits [31:29], [28:26] and [22:21] of the FENCE major (R89). -/
def Fields.scope (x : Fields) : BitVec 3 := BitVec.ofNat 3 (x.f.toNat / 2)
def Fields.mid (x : Fields) : BitVec 3 := BitVec.ofNat 3 (4 * (x.f.toNat % 2) + x.e.toNat)
def Fields.low2 (x : Fields) : BitVec 2 := BitVec.ofNat 2 (x.c.toNat / 8)

/-- Accept a candidate when its fixed fields hold and its operands are well formed. -/
def accept (fixed : Bool) (i : Instr) : Except DecodeErr Instr :=
  if fixed && wellFormed i then .ok i else .error .reservedField

/-- The second word of a tile instruction (R98); `rest` is bits [63:53] and [47:44]. -/
structure Tile where
  rest : BitVec 15
  vb : BitVec 5
  epi : BitVec 3
  fmt : BitVec 3
  rows : BitVec 4
  tile : BitVec 2
  deriving DecidableEq, Repr

/-- Cut the second word of a tile instruction into its fields. -/
def Tile.unpack (w : Nat) : Tile where
  rest := BitVec.ofNat 15 (16 * (w / 2097152) + w / 4096 % 16)
  vb := BitVec.ofNat 5 (w / 65536)
  epi := BitVec.ofNat 3 (w / 512)
  fmt := BitVec.ofNat 3 (w / 64)
  rows := BitVec.ofNat 4 (w / 4)
  tile := BitVec.ofNat 2 w

/-- Put the second word of a tile instruction together. -/
def Tile.pack (y : Tile) : Nat :=
  y.tile.toNat + 4 * y.rows.toNat + 64 * y.fmt.toNat + 512 * y.epi.toNat + 4096 * (y.rest.toNat % 16) + 65536 * y.vb.toNat
    + 2097152 * (y.rest.toNat / 16)

/-- The compressed forms (R100, R101); `p` is bits [15:6]. -/
def decodeCompressed (op p : Nat) : Except DecodeErr Instr :=
  match op with
  | 0 => accept true (.cLi (BitVec.ofNat 5 p) (BitVec.ofNat 5 (p / 32)))
  | 1 => accept true (.cAddi (BitVec.ofNat 5 p) (BitVec.ofNat 5 (p / 32)))
  | 2 => accept true (.cMv (BitVec.ofNat 5 p) (BitVec.ofNat 5 (p / 32)))
  | 3 => accept true (.cAdd (BitVec.ofNat 5 p) (BitVec.ofNat 5 (p / 32)))
  | 4 => accept true (.cLd (BitVec.ofNat 3 p) (BitVec.ofNat 3 (p / 8)) (BitVec.ofNat 4 (p / 64)))
  | 5 => accept true (.cSd (BitVec.ofNat 3 p) (BitVec.ofNat 3 (p / 8)) (BitVec.ofNat 4 (p / 64)))
  | 6 => accept true (.cJ (BitVec.ofNat 10 p))
  | 7 => accept true (.cBeqz (BitVec.ofNat 3 p) (BitVec.ofNat 7 (p / 8)))
  | 8 => accept true (.cBnez (BitVec.ofNat 3 p) (BitVec.ofNat 7 (p / 8)))
  | 9 => accept (decide (p / 32 = 0)) (.cJr (BitVec.ofNat 5 p))
  | 10 => accept (decide (p / 512 = 0)) (.cQget (BitVec.ofNat 5 p) (BitVec.ofNat 4 (p / 32)))
  | 11 => accept (decide (p = 0)) .cNop
  | _ => .error .reservedMajor

/-- Major 0x00 (R86). -/
def decodeOpImm (x : Fields) : Except DecodeErr Instr :=
  match x.fn3 with
  | 0 => accept true (.addi x.a x.b x.immI)
  | 1 => accept true (.slti x.a x.b x.immI)
  | 2 => accept true (.sltiu x.a x.b x.immI)
  | 3 => accept true (.andi x.a x.b x.immI)
  | 4 => accept true (.ori x.a x.b x.immI)
  | 5 => accept true (.xori x.a x.b x.immI)
  | 6 => accept (decide (x.immI.toNat / 64 = 0)) (.slli x.a x.b (x.immI.setWidth 6))
  | 7 =>
    if x.immI.toNat / 64 = 0 then accept true (.srli x.a x.b (x.immI.setWidth 6))
    else accept (decide (x.immI.toNat / 64 = 16)) (.srai x.a x.b (x.immI.setWidth 6))
  | _ => .error .reservedFunction

/-- Major 0x01 (R86). -/
def decodeOp (x : Fields) : Except DecodeErr Instr :=
  match x.fn9 with
  | 0 => accept true (.add x.a x.b x.c)
  | 1 => accept true (.sub x.a x.b x.c)
  | 2 => accept true (.and x.a x.b x.c)
  | 3 => accept true (.or x.a x.b x.c)
  | 4 => accept true (.xor x.a x.b x.c)
  | 5 => accept true (.sll x.a x.b x.c)
  | 6 => accept true (.srl x.a x.b x.c)
  | 7 => accept true (.sra x.a x.b x.c)
  | 8 => accept true (.slt x.a x.b x.c)
  | 9 => accept true (.sltu x.a x.b x.c)
  | 10 => accept true (.min x.a x.b x.c)
  | 11 => accept true (.max x.a x.b x.c)
  | 12 => accept true (.minu x.a x.b x.c)
  | 13 => accept true (.maxu x.a x.b x.c)
  | 14 => accept true (.mul x.a x.b x.c)
  | 15 => accept true (.mulh x.a x.b x.c)
  | 16 => accept true (.mulhu x.a x.b x.c)
  | 17 => accept true (.div x.a x.b x.c)
  | 18 => accept true (.divu x.a x.b x.c)
  | 19 => accept true (.rem x.a x.b x.c)
  | 20 => accept true (.remu x.a x.b x.c)
  | 21 => accept (x.c == 0) (.clz x.a x.b)
  | 22 => accept (x.c == 0) (.ctz x.a x.b)
  | 23 => accept (x.c == 0) (.cpop x.a x.b)
  | _ => .error .reservedFunction

/-- Major 0x05 (R86). -/
def decodeJalr (x : Fields) : Except DecodeErr Instr :=
  match x.fn3 with
  | 0 => accept true (.jalr x.a x.b x.immI)
  | _ => .error .reservedFunction

/-- Major 0x06 (R86). -/
def decodeBranch (x : Fields) : Except DecodeErr Instr :=
  match x.d.toNat with
  | 0 => accept true (.beq x.b x.c x.immS)
  | 1 => accept true (.bne x.b x.c x.immS)
  | 2 => accept true (.blt x.b x.c x.immS)
  | 3 => accept true (.bge x.b x.c x.immS)
  | 4 => accept true (.bltu x.b x.c x.immS)
  | 5 => accept true (.bgeu x.b x.c x.immS)
  | _ => .error .reservedFunction

/-- Major 0x07 (R86). -/
def decodeLoad (x : Fields) : Except DecodeErr Instr :=
  match x.fn3 with
  | 0 => accept true (.ld x.a x.b x.immI)
  | 1 => accept true (.lw x.a x.b x.immI)
  | 2 => accept true (.lh x.a x.b x.immI)
  | 3 => accept true (.lb x.a x.b x.immI)
  | 5 => accept true (.lwu x.a x.b x.immI)
  | 6 => accept true (.lhu x.a x.b x.immI)
  | 7 => accept true (.lbu x.a x.b x.immI)
  | _ => .error .reservedFunction

/-- Major 0x08 (R86). -/
def decodeStore (x : Fields) : Except DecodeErr Instr :=
  match x.d.toNat with
  | 0 => accept true (.sd x.b x.c x.immS)
  | 1 => accept true (.sw x.b x.c x.immS)
  | 2 => accept true (.sh x.b x.c x.immS)
  | 3 => accept true (.sb x.b x.c x.immS)
  | _ => .error .reservedFunction

/-- Major 0x09 (R86). -/
def decodeAmoD (x : Fields) : Except DecodeErr Instr :=
  match x.f.toNat with
  | 0 => accept true (.amoswapD x.e x.d x.c x.b x.a)
  | 1 => accept true (.amoaddD x.e x.d x.c x.b x.a)
  | 2 => accept true (.amoandD x.e x.d x.c x.b x.a)
  | 3 => accept true (.amoorD x.e x.d x.c x.b x.a)
  | 4 => accept true (.amoxorD x.e x.d x.c x.b x.a)
  | 5 => accept true (.amominD x.e x.d x.c x.b x.a)
  | 6 => accept true (.amomaxD x.e x.d x.c x.b x.a)
  | 7 => accept true (.amominuD x.e x.d x.c x.b x.a)
  | 8 => accept true (.amomaxuD x.e x.d x.c x.b x.a)
  | 9 => accept true (.amocasD x.e x.d x.c x.b x.a)
  | 10 => accept (x.e == 1 && x.c == 0) (.ldaD x.d x.b x.a)
  | 11 => accept (x.e == 2 && x.a == 0) (.stlD x.d x.c x.b)
  | _ => .error .reservedFunction

/-- Major 0x0A (R86). -/
def decodeAmoW (x : Fields) : Except DecodeErr Instr :=
  match x.f.toNat with
  | 0 => accept true (.amoswapW x.e x.d x.c x.b x.a)
  | 1 => accept true (.amoaddW x.e x.d x.c x.b x.a)
  | 2 => accept true (.amoandW x.e x.d x.c x.b x.a)
  | 3 => accept true (.amoorW x.e x.d x.c x.b x.a)
  | 4 => accept true (.amoxorW x.e x.d x.c x.b x.a)
  | 5 => accept true (.amominW x.e x.d x.c x.b x.a)
  | 6 => accept true (.amomaxW x.e x.d x.c x.b x.a)
  | 7 => accept true (.amominuW x.e x.d x.c x.b x.a)
  | 8 => accept true (.amomaxuW x.e x.d x.c x.b x.a)
  | 9 => accept true (.amocasW x.e x.d x.c x.b x.a)
  | 10 => accept (x.e == 1 && x.c == 0) (.ldaW x.d x.b x.a)
  | 11 => accept (x.e == 2 && x.a == 0) (.stlW x.d x.c x.b)
  | _ => .error .reservedFunction

/-- Major 0x0B (R86). -/
def decodeFence (x : Fields) : Except DecodeErr Instr :=
  match x.fn3 with
  | 0 => accept (x.mid == 0 && decide (x.d.toNat < 4) && x.b == 0 && x.a == 0) (.fence x.scope (x.d.setWidth 2) x.low2)
  | 1 => accept (x.low2 == 0 && x.b == 0 && x.a == 0) (.fenceX x.scope x.mid x.d)
  | 2 => accept (decide (x.mid.toNat % 4 = 0) && decide (x.d.toNat < 4) && x.b == 0 && x.a == 0) (.fenceT x.scope (BitVec.ofNat 1 (x.mid.toNat / 4)) (x.d.setWidth 2) x.low2)
  | 3 => accept (x.scope == 0 && x.mid == 0 && x.d == 0 && x.b == 0) (.tclr x.low2 x.a)
  | 4 => accept (x.scope == 0 && x.mid == 0 && decide (x.d.toNat < 4)) (.tjoin (x.d.setWidth 2) x.low2 x.b x.a)
  | _ => .error .reservedFunction

/-- Major 0x0C (R86). -/
def decodeSystem (x : Fields) : Except DecodeErr Instr :=
  match x.fn3 with
  | 0 =>
    match x.immI.toNat with
    | 0 => accept (x.a == 0 && x.b == 0) .yield
    | 1 => accept (x.a == 0 && x.b == 0) .wfi
    | 2 => accept (x.a == 0 && x.b == 0) .ecall
    | 3 => accept (x.a == 0 && x.b == 0) .ebreak
    | 4 => accept (x.a == 0 && x.b == 0) .eret
    | 5 => accept (x.a == 0) (.tlbinv x.b)
    | _ => .error .reservedFunction
  | 1 => accept true (.csrrw x.a x.b x.immI)
  | 2 => accept true (.csrrwi x.a x.b x.immI)
  | 3 => accept true (.csrrs x.a x.b x.immI)
  | 4 => accept true (.csrrsi x.a x.b x.immI)
  | 5 => accept true (.csrrc x.a x.b x.immI)
  | 6 => accept true (.csrrci x.a x.b x.immI)
  | _ => .error .reservedFunction

/-- Major 0x0D (R86). -/
def decodeChute (x : Fields) : Except DecodeErr Instr :=
  match x.d.toNat with
  | 0 => accept (decide (x.b.toNat < 16) && x.immS == 0) (.qput (x.b.setWidth 4) x.c)
  | 1 => accept (decide (x.b.toNat < 16) && x.f == 0 && x.e == 0 && x.c == 0) (.qget x.a (x.b.setWidth 4))
  | 2 => accept (decide (x.b.toNat < 16) && x.c == 0) (.qbr (x.b.setWidth 4) x.immS)
  | 3 => accept (decide (x.b.toNat < 16) && x.f == 0 && x.e == 0 && x.c == 0) (.qstat x.a (x.b.setWidth 4))
  | _ => .error .reservedFunction

/-- Major 0x0E (R86). -/
def decodeCopy (x : Fields) : Except DecodeErr Instr :=
  match x.f.toNat with
  | 0 => accept true (.cpy x.a x.b x.c x.rs3)
  | 1 => accept true (.cpy2d x.a x.b x.c x.rs3)
  | 2 => accept true (.gathr x.a x.b x.c x.rs3)
  | 3 => accept true (.scatr x.a x.b x.c x.rs3)
  | 4 => accept (x.e == 0 && x.d == 0 && x.c == 0) (.cpwait x.a x.b)
  | _ => .error .reservedFunction

/-- Major 0x0F (R86). -/
def decodeBarrier (x : Fields) : Except DecodeErr Instr :=
  match x.fn9 with
  | 0 => accept true (.binit x.a x.b x.c)
  | 1 => accept (x.c == 0) (.barr x.a x.b)
  | 2 => accept true (.barrx x.a x.b x.c)
  | 3 => accept true (.barrm x.a x.b x.c)
  | 4 => accept true (.bwait x.a x.b x.c)
  | 5 => accept true (.btest x.a x.b x.c)
  | _ => .error .reservedFunction

/-- Major 0x10 (R86). -/
def decodeSeq (x : Fields) : Except DecodeErr Instr :=
  match x.fn9 with
  | 0 => accept true (.bshape x.a x.b x.c)
  | 1 => accept true (.sqadm x.a x.b x.c)
  | 2 => accept true (.sqret x.a x.b x.c)
  | 3 => accept (x.c == 0) (.pgalloc x.a x.b)
  | 4 => accept true (.pgref x.a x.b x.c)
  | 5 => accept true (.pgrel x.a x.b x.c)
  | 6 => accept true (.pgxfer x.a x.b x.c)
  | _ => .error .reservedFunction

/-- Major 0x11 (R86). -/
def decodeIndex (x : Fields) : Except DecodeErr Instr :=
  match x.fn9 with
  | 0 => accept true (.ixinit x.a x.b x.c)
  | 1 => accept true (.ixcur x.a x.b x.c)
  | 2 => accept true (.ixatt x.a x.b x.c)
  | 3 => accept (x.c == 0) (.ixdet x.a x.b)
  | 4 => accept true (.ixext x.a x.b x.c)
  | 5 => accept true (.ixmatch x.a x.b x.c)
  | 6 => accept true (.ixstat x.a x.b x.c)
  | _ => .error .reservedFunction

/-- Major 0x12 (R86). -/
def decodeSluice (x : Fields) : Except DecodeErr Instr :=
  match x.fn9 with
  | 0 => accept true (.pgsub x.a x.b x.c)
  | 1 => accept (x.c == 0) (.pgopen x.a x.b)
  | 2 => accept true (.mbset x.a x.b x.c)
  | _ => .error .reservedFunction

/-- The scalar majors (R86). -/
def decodeScalar (x : Fields) : Except DecodeErr Instr :=
  match x.major.toNat with
  | 0 => decodeOpImm x
  | 1 => decodeOp x
  | 2 => accept true (.lui x.a x.immU)
  | 3 => accept true (.auipc x.a x.immU)
  | 4 => accept true (.jal x.a x.immU)
  | 5 => decodeJalr x
  | 6 => decodeBranch x
  | 7 => decodeLoad x
  | 8 => decodeStore x
  | 9 => decodeAmoD x
  | 10 => decodeAmoW x
  | 11 => decodeFence x
  | 12 => decodeSystem x
  | 13 => decodeChute x
  | 14 => decodeCopy x
  | 15 => decodeBarrier x
  | 16 => decodeSeq x
  | 17 => decodeIndex x
  | 18 => decodeSluice x
  | _ => .error .reservedMajor

/-- Vector major 0x01 (R97). -/
def decodeValu (x : Fields) : Except DecodeErr Instr :=
  match x.f.toNat with
  | 0 => accept true (.vadd x.e x.d x.c x.b x.a)
  | 1 => accept true (.vsub x.e x.d x.c x.b x.a)
  | 2 => accept true (.vrsub x.e x.d x.c x.b x.a)
  | 3 => accept true (.vmin x.e x.d x.c x.b x.a)
  | 4 => accept true (.vmax x.e x.d x.c x.b x.a)
  | 5 => accept true (.vminu x.e x.d x.c x.b x.a)
  | 6 => accept true (.vmaxu x.e x.d x.c x.b x.a)
  | 7 => accept true (.vand x.e x.d x.c x.b x.a)
  | 8 => accept true (.vor x.e x.d x.c x.b x.a)
  | 9 => accept true (.vxor x.e x.d x.c x.b x.a)
  | 10 => accept true (.vsll x.e x.d x.c x.b x.a)
  | 11 => accept true (.vsrl x.e x.d x.c x.b x.a)
  | 12 => accept true (.vsra x.e x.d x.c x.b x.a)
  | 13 => accept true (.vsadd x.e x.d x.c x.b x.a)
  | 14 => accept true (.vssub x.e x.d x.c x.b x.a)
  | 15 => accept true (.vmerge x.e x.d x.c x.b x.a)
  | _ => .error .reservedFunction

/-- Vector major 0x02 (R97). -/
def decodeVmuldiv (x : Fields) : Except DecodeErr Instr :=
  match x.f.toNat with
  | 0 => accept true (.vmul x.e x.d x.c x.b x.a)
  | 1 => accept true (.vmulh x.e x.d x.c x.b x.a)
  | 2 => accept true (.vmulhu x.e x.d x.c x.b x.a)
  | 3 => accept true (.vdiv x.e x.d x.c x.b x.a)
  | 4 => accept true (.vdivu x.e x.d x.c x.b x.a)
  | 5 => accept true (.vrem x.e x.d x.c x.b x.a)
  | 6 => accept true (.vremu x.e x.d x.c x.b x.a)
  | 7 => accept true (.vmacc x.e x.d x.c x.b x.a)
  | 8 => accept (x.c == 0) (.vmv x.e x.d x.b x.a)
  | 9 => accept (x.e == 0 && x.c == 0 && x.b == 0) (.vid x.d x.a)
  | _ => .error .reservedFunction

/-- Vector major 0x03 (R97). -/
def decodeVcmp (x : Fields) : Except DecodeErr Instr :=
  match x.f.toNat with
  | 0 => accept (decide (x.a.toNat < 8)) (.vmseq x.e x.d x.c x.b (x.a.setWidth 3))
  | 1 => accept (decide (x.a.toNat < 8)) (.vmsne x.e x.d x.c x.b (x.a.setWidth 3))
  | 2 => accept (decide (x.a.toNat < 8)) (.vmslt x.e x.d x.c x.b (x.a.setWidth 3))
  | 3 => accept (decide (x.a.toNat < 8)) (.vmsltu x.e x.d x.c x.b (x.a.setWidth 3))
  | 4 => accept (decide (x.a.toNat < 8)) (.vmsle x.e x.d x.c x.b (x.a.setWidth 3))
  | 5 => accept (decide (x.a.toNat < 8)) (.vmsleu x.e x.d x.c x.b (x.a.setWidth 3))
  | 6 => accept (decide (x.a.toNat < 8)) (.vmsgt x.e x.d x.c x.b (x.a.setWidth 3))
  | 7 => accept (decide (x.a.toNat < 8)) (.vmsgtu x.e x.d x.c x.b (x.a.setWidth 3))
  | 8 => accept (decide (x.a.toNat < 8)) (.vmfeq x.e x.d x.c x.b (x.a.setWidth 3))
  | 9 => accept (decide (x.a.toNat < 8)) (.vmfne x.e x.d x.c x.b (x.a.setWidth 3))
  | 10 => accept (decide (x.a.toNat < 8)) (.vmflt x.e x.d x.c x.b (x.a.setWidth 3))
  | 11 => accept (decide (x.a.toNat < 8)) (.vmfle x.e x.d x.c x.b (x.a.setWidth 3))
  | _ => .error .reservedFunction

/-- Vector major 0x04 (R97). -/
def decodeVfp (x : Fields) : Except DecodeErr Instr :=
  match x.f.toNat with
  | 0 => accept true (.vfadd x.e x.d x.c x.b x.a)
  | 1 => accept true (.vfsub x.e x.d x.c x.b x.a)
  | 2 => accept true (.vfmul x.e x.d x.c x.b x.a)
  | 3 => accept true (.vfdiv x.e x.d x.c x.b x.a)
  | 4 => accept true (.vfmin x.e x.d x.c x.b x.a)
  | 5 => accept true (.vfmax x.e x.d x.c x.b x.a)
  | 6 => accept true (.vfsgnj x.e x.d x.c x.b x.a)
  | 7 => accept true (.vfsgnjn x.e x.d x.c x.b x.a)
  | 8 => accept true (.vfsgnjx x.e x.d x.c x.b x.a)
  | 9 => accept true (.vfmacc x.e x.d x.c x.b x.a)
  | 10 => accept true (.vfnmacc x.e x.d x.c x.b x.a)
  | 11 => accept true (.vfmsac x.e x.d x.c x.b x.a)
  | 12 => accept (x.c == 0) (.vfsqrt x.e x.d x.b x.a)
  | 13 => accept (x.c == 0) (.vfrcp x.e x.d x.b x.a)
  | 14 => accept (x.c == 0) (.vfexp2 x.e x.d x.b x.a)
  | 15 => accept (x.c == 0) (.vfclass x.e x.d x.b x.a)
  | _ => .error .reservedFunction

/-- Vector major 0x05 (R97). -/
def decodeVcvt (x : Fields) : Except DecodeErr Instr :=
  match x.f.toNat with
  | 0 => accept (x.c == 0) (.vfcvtFX x.e x.d x.b x.a)
  | 1 => accept (x.c == 0) (.vfcvtXF x.e x.d x.b x.a)
  | 2 => accept true (.vfwcvt x.e x.d x.c x.b x.a)
  | 3 => accept true (.vfncvt x.e x.d x.c x.b x.a)
  | 4 => accept true (.vqnt x.e x.d x.c x.b x.a)
  | 5 => accept true (.vdeq x.e x.d x.c x.b x.a)
  | _ => .error .reservedFunction

/-- Vector major 0x06 (R97). -/
def decodeVmask (x : Fields) : Except DecodeErr Instr :=
  match x.f.toNat with
  | 0 => accept (x.e == 0 && x.d == 0 && decide (x.c.toNat < 8) && decide (x.b.toNat < 8) && decide (x.a.toNat < 8)) (.kand (x.c.setWidth 3) (x.b.setWidth 3) (x.a.setWidth 3))
  | 1 => accept (x.e == 0 && x.d == 0 && decide (x.c.toNat < 8) && decide (x.b.toNat < 8) && decide (x.a.toNat < 8)) (.kor (x.c.setWidth 3) (x.b.setWidth 3) (x.a.setWidth 3))
  | 2 => accept (x.e == 0 && x.d == 0 && decide (x.c.toNat < 8) && decide (x.b.toNat < 8) && decide (x.a.toNat < 8)) (.kxor (x.c.setWidth 3) (x.b.setWidth 3) (x.a.setWidth 3))
  | 3 => accept (x.e == 0 && x.d == 0 && decide (x.c.toNat < 8) && decide (x.b.toNat < 8) && decide (x.a.toNat < 8)) (.kandn (x.c.setWidth 3) (x.b.setWidth 3) (x.a.setWidth 3))
  | 4 => accept (x.e == 0 && x.d == 0 && x.c == 0 && decide (x.b.toNat < 8) && decide (x.a.toNat < 8)) (.knot (x.b.setWidth 3) (x.a.setWidth 3))
  | 5 => accept (x.e == 0 && x.c == 0 && decide (x.a.toNat < 8)) (.kfromv x.d x.b (x.a.setWidth 3))
  | 6 => accept (x.e == 0 && x.c == 0 && decide (x.b.toNat < 8)) (.vfromk x.d (x.b.setWidth 3) x.a)
  | 7 => accept (x.e == 0 && x.d == 0 && x.c == 0 && decide (x.b.toNat < 8)) (.kpop (x.b.setWidth 3) x.a)
  | 8 => accept (x.e == 0 && x.d == 0 && x.c == 0 && decide (x.b.toNat < 8)) (.kfirst (x.b.setWidth 3) x.a)
  | _ => .error .reservedFunction

/-- Vector major 0x07 (R97). -/
def decodeVperm (x : Fields) : Except DecodeErr Instr :=
  match x.f.toNat with
  | 0 => accept true (.vslideup x.e x.d x.c x.b x.a)
  | 1 => accept true (.vslidedown x.e x.d x.c x.b x.a)
  | 2 => accept true (.vslide1up x.e x.d x.c x.b x.a)
  | 3 => accept true (.vslide1down x.e x.d x.c x.b x.a)
  | 4 => accept true (.vrgather x.e x.d x.c x.b x.a)
  | 5 => accept (x.e == 0 && x.c == 0) (.vcompress x.d x.b x.a)
  | 6 => accept (x.e == 0 && x.c == 0) (.vexpand x.d x.b x.a)
  | 7 => accept (x.e == 0 && x.c == 0 && decide (x.b.toNat < 8)) (.viota x.d (x.b.setWidth 3) x.a)
  | 8 => accept (x.e == 0 && x.d == 0 && x.b == 0) (.vmvxs x.c x.a)
  | 9 => accept (x.e == 1 && x.d == 0 && x.c == 0) (.vmvsx x.b x.a)
  | _ => .error .reservedFunction

/-- Vector major 0x08 (R97). -/
def decodeVred (x : Fields) : Except DecodeErr Instr :=
  match x.f.toNat with
  | 0 => accept true (.vredsum x.e x.d x.c x.b x.a)
  | 1 => accept true (.vredmax x.e x.d x.c x.b x.a)
  | 2 => accept true (.vredmin x.e x.d x.c x.b x.a)
  | 3 => accept true (.vredmaxu x.e x.d x.c x.b x.a)
  | 4 => accept true (.vredminu x.e x.d x.c x.b x.a)
  | 5 => accept true (.vfredsum x.e x.d x.c x.b x.a)
  | 6 => accept true (.vfredmax x.e x.d x.c x.b x.a)
  | 7 => accept true (.vfredmin x.e x.d x.c x.b x.a)
  | 8 => accept (x.e == 0 && decide (x.b.toNat < 8)) (.vsegsum x.d x.c (x.b.setWidth 3) x.a)
  | 9 => accept (x.e == 0 && decide (x.b.toNat < 8)) (.vsegmax x.d x.c (x.b.setWidth 3) x.a)
  | _ => .error .reservedFunction

/-- Vector major 0x09 (R97). -/
def decodeVload (x : Fields) : Except DecodeErr Instr :=
  match x.f.toNat with
  | 0 => accept (x.c == 0) (.vle x.e x.d x.b x.a)
  | 1 => accept true (.vlse x.e x.d x.c x.b x.a)
  | 2 => accept true (.vlxe x.e x.d x.c x.b x.a)
  | 3 => accept true (.vlxb x.e x.d x.c x.b x.a)
  | 4 => accept (x.c == 0) (.vleff x.e x.d x.b x.a)
  | 5 => accept (x.e == 0) (.vlcb x.d x.c x.b x.a)
  | _ => .error .reservedFunction

/-- Vector major 0x0A (R97). -/
def decodeVstore (x : Fields) : Except DecodeErr Instr :=
  match x.f.toNat with
  | 0 => accept (x.c == 0) (.vse x.e x.d x.b x.a)
  | 1 => accept true (.vsse x.e x.d x.c x.b x.a)
  | 2 => accept true (.vsxe x.e x.d x.c x.b x.a)
  | 3 => accept true (.vscadd x.e x.d x.c x.b x.a)
  | 4 => accept (x.e == 0 && x.d == 0) (.vscb x.c x.b x.a)
  | 5 => accept (x.e == 0) (.vcapp x.d x.c x.b x.a)
  | 6 => accept true (.vhacc x.e x.d x.c x.b x.a)
  | _ => .error .reservedFunction

/-- Vector major 0x0B (R97). -/
noncomputable def decodeVchute (x : Fields) : Except DecodeErr Instr :=
  match x.f.toNat with
  | 0 => accept (x.e == 0 && x.c == 0 && decide (x.a.toNat < 16)) (.qputv x.d x.b (x.a.setWidth 4))
  | 1 => accept (x.e == 0 && x.c == 0 && decide (x.b.toNat < 16)) (.qgetv x.d (x.b.setWidth 4) x.a)
  | _ => .error .reservedFunction

/-- Vector major 0x0C (R97). -/
noncomputable def decodeVattn (x : Fields) : Except DecodeErr Instr :=
  match x.f.toNat with
  | 0 => accept (x.e == 3 && x.d == 0 && decide (x.b.toNat < 16) && x.a == 0) (.vascore x.c (x.b.setWidth 4))
  | 1 => accept (x.e == 0 && x.d == 0 && x.c == 0 && x.b == 0 && x.a == 0) (.vaexp)
  | 2 => accept (x.e == 3 && x.d == 0 && x.c == 0 && decide (x.b.toNat < 16) && x.a == 0) (.vaacc (x.b.setWidth 4))
  | 3 => accept (x.e == 1 && x.d == 0 && x.c == 0) (.vafin x.b x.a)
  | _ => .error .reservedFunction

/-- Vector major 0x0D (R97). -/
noncomputable def decodeVindex (x : Fields) : Except DecodeErr Instr :=
  match x.f.toNat with
  | 0 => accept (x.e == 1 && x.d == 0) (.ixprop x.c x.b x.a)
  | 1 => accept (x.e == 0 && x.d == 0) (.ixacc x.c x.b x.a)
  | 2 => accept (x.e == 1) (.ixextv x.d x.c x.b x.a)
  | _ => .error .reservedFunction

/-- Vector major 0x0E (R97). -/
noncomputable def decodeVseq (x : Fields) : Except DecodeErr Instr :=
  match x.f.toNat with
  | 0 => accept (x.e == 1 && decide (x.a.toNat < 8)) (.vstop x.d x.c x.b (x.a.setWidth 3))
  | _ => .error .reservedFunction

/-- The vector majors (R97). -/
noncomputable def decodeVector (x : Fields) : Except DecodeErr Instr :=
  match x.major.toNat with
  | 0 =>
    if x.f.toNat < 8 then accept (x.f == 0 && x.e == 0 && x.d == 0) (.vsetvl x.a x.b x.c)
    else accept (decide (x.c.toNat % 4 = 0)) (.vsetvli x.a x.b (BitVec.ofNat 11 (256 * x.f.toNat + 64 * x.e.toNat + 8 * x.d.toNat + x.c.toNat / 4)))
  | 1 => decodeValu x
  | 2 => decodeVmuldiv x
  | 3 => decodeVcmp x
  | 4 => decodeVfp x
  | 5 => decodeVcvt x
  | 6 => decodeVmask x
  | 7 => decodeVperm x
  | 8 => decodeVred x
  | 9 => decodeVload x
  | 10 => decodeVstore x
  | 11 => decodeVchute x
  | 12 => decodeVattn x
  | 13 => decodeVindex x
  | 14 => decodeVseq x
  | _ => .error .reservedMajor

/-- The tile majors (R99). -/
noncomputable def decodeTile (x : Fields) (y : Tile) : Except DecodeErr Instr :=
  match x.major.toNat with
  | 0 =>
    match x.f.toNat with
    | 0 => accept (x.c == 0 && x.b == 0 && x.a == 0 && x.e == 0 && x.d == 0 && y.tile == 0 && y.rows == 0 && y.fmt == 0 && y.epi == 0 && y.vb == 0 && y.rest == 0) (.mcfgAcq)
    | 1 => accept (x.c == 0 && x.b == 0 && x.a == 0 && x.e == 0 && x.d == 0 && y.tile == 0 && y.rows == 0 && y.fmt == 0 && y.epi == 0 && y.vb == 0 && y.rest == 0) (.mcfgRel)
    | 2 => accept (x.c == 0 && x.a == 0 && x.e == 0 && x.d == 0 && y.tile == 0 && y.rows == 0 && y.fmt == 0 && y.epi == 0 && y.vb == 0 && y.rest == 0) (.mcfgSet x.b)
    | _ => .error .reservedFunction
  | 1 => accept (x.f == 0 && x.c == 0 && decide (x.b.toNat < 16) && x.a == 0 && x.e == 0 && x.d == 0 && y.tile == 0 && y.rows == 0 && y.epi == 0 && y.vb == 0 && y.rest == 0) (.mlds (x.b.setWidth 4) y.fmt)
  | 2 => accept (x.f == 0 && x.c == 0 && x.b == 0 && x.a == 0 && x.e == 0 && x.d == 0 && y.tile == 0 && y.rows == 0 && y.fmt == 0 && y.epi == 0 && y.vb == 0 && y.rest == 0) (.mswap)
  | 3 => accept (x.f == 0 && x.b == 0 && x.e == 0 && x.d == 0 && y.epi == 0 && y.vb == 0 && y.rest == 0) (.mstrm x.a x.c y.tile y.rows y.fmt)
  | 4 => accept (x.f == 0 && x.c == 0 && x.b == 0 && x.e == 0 && x.d == 0 && decide (y.epi.toNat < 4) && y.rest == 0) (.mdrain x.a y.tile y.rows y.fmt (y.epi.setWidth 2) y.vb)
  | 5 => accept (x.f == 0 && x.c == 0 && x.b == 0 && x.a == 0 && x.e == 0 && x.d == 0 && y.rows == 0 && y.fmt == 0 && y.epi == 0 && y.vb == 0 && y.rest == 0) (.mzero y.tile)
  | 6 => accept (x.f == 0 && x.c == 0 && x.b == 0 && x.a == 0 && x.e == 0 && x.d == 0 && y.tile == 0 && y.rows == 0 && y.fmt == 0 && y.epi == 0 && y.vb == 0 && y.rest == 0) (.mwait)
  | _ => .error .reservedMajor

/-- The length in bytes that the class of a first parcel gives (R81). -/
def classLength (parcel : Nat) : Nat :=
  match parcel % 4 with
  | 0 => 2
  | 3 => 8
  | _ => 4

/-- The instruction whose bits are `w`, bit 0 the least significant bit of the first parcel (R81). -/
noncomputable def decodeBits (w : Nat) : Except DecodeErr Instr :=
  match w % 4 with
  | 0 => decodeCompressed (w / 4 % 16) (w / 64 % 1024)
  | 1 => decodeScalar (Fields.unpack (w % 4294967296))
  | 2 => decodeVector (Fields.unpack (w % 4294967296))
  | _ => decodeTile (Fields.unpack (w % 4294967296)) (Tile.unpack (w / 4294967296 % 4294967296))

/-- The little-endian number that bytes hold (R4). -/
def leNat : List (BitVec 8) → Nat
  | [] => 0
  | b :: bs => b.toNat + 256 * leNat bs

/-- The `n` little-endian bytes of a number (R4). -/
def leBytes : Nat → Nat → List (BitVec 8)
  | 0, _ => []
  | n + 1, v => BitVec.ofNat 8 v :: leBytes n (v / 256)

/-- Decode an instruction from the front of a list of bytes, and give the bytes that follow it. -/
noncomputable def decode (bs : List (BitVec 8)) : Except DecodeErr (Instr × List (BitVec 8)) :=
  let n := classLength (leNat (bs.take 1))
  if bs.length < n then .error .tooShort
  else
    match decodeBits (leNat (bs.take n)) with
    | .ok i => .ok (i, bs.drop n)
    | .error e => .error e

/-- The instruction that the decoder reads from a table word of `nbits` bits (bits above them zero). -/
noncomputable def decodeTableWord (nbits w : Nat) : Option Instr :=
  match decode (leBytes 8 (w % 2 ^ nbits)) with
  | .ok (i, _) => some i
  | .error _ => none

/-- The I form (R84, R85). -/
def encI (major fn3 : Nat) (rd rs1 : BitVec 5) (imm : BitVec 11) : Nat :=
  Fields.pack 1 { f := BitVec.ofNat 4 (imm.toNat / 128), e := BitVec.ofNat 2 (imm.toNat / 32), d := BitVec.ofNat 3 (imm.toNat / 4), c := BitVec.ofNat 5 (8 * (imm.toNat % 4) + fn3), b := rs1, a := rd, major := BitVec.ofNat 6 major }
/-- The R form (R84). -/
def encR (major fn9 : Nat) (rd rs1 rs2 : BitVec 5) : Nat :=
  Fields.pack 1 { f := BitVec.ofNat 4 (fn9 / 32), e := BitVec.ofNat 2 (fn9 / 8), d := BitVec.ofNat 3 fn9, c := rs2, b := rs1, a := rd, major := BitVec.ofNat 6 major }
/-- The S and B forms (R84, R85). -/
def encS (major fn3 : Nat) (rs1 rs2 : BitVec 5) (imm : BitVec 11) : Nat :=
  Fields.pack 1 { f := BitVec.ofNat 4 (imm.toNat / 128), e := BitVec.ofNat 2 (imm.toNat / 32), d := BitVec.ofNat 3 fn3, c := rs2, b := rs1, a := BitVec.ofNat 5 imm.toNat, major := BitVec.ofNat 6 major }
/-- The U and J forms (R84, R85). -/
def encU (major : Nat) (rd : BitVec 5) (imm : BitVec 19) : Nat :=
  Fields.pack 1 { f := BitVec.ofNat 4 (imm.toNat / 32768), e := BitVec.ofNat 2 (imm.toNat / 8192), d := BitVec.ofNat 3 (imm.toNat / 1024), c := BitVec.ofNat 5 (imm.toNat / 32), b := BitVec.ofNat 5 imm.toNat, a := rd, major := BitVec.ofNat 6 major }
/-- The FENCE major (R89). -/
def encF (fn3 : Nat) (scope mid d : BitVec 3) (low : BitVec 2) (b a : BitVec 5) : Nat :=
  Fields.pack 1 { f := BitVec.ofNat 4 (2 * scope.toNat + mid.toNat / 4), e := BitVec.ofNat 2 mid.toNat, d := d, c := BitVec.ofNat 5 (8 * low.toNat + fn3), b := b, a := a, major := 11 }

/-- The length in bits and the bits of a well-formed instruction; none for a step without an encoding. -/
def encode : Instr → Option (Nat × Nat)
  | .cLi rd imm => some (16, 0 + 64 * (32 * imm.toNat + rd.toNat))
  | .cAddi rd imm => some (16, 4 + 64 * (32 * imm.toNat + rd.toNat))
  | .cMv rd rs => some (16, 8 + 64 * (32 * rs.toNat + rd.toNat))
  | .cAdd rd rs => some (16, 12 + 64 * (32 * rs.toNat + rd.toNat))
  | .cLd rd rs1 off => some (16, 16 + 64 * (64 * off.toNat + 8 * rs1.toNat + rd.toNat))
  | .cSd rs2 rs1 off => some (16, 20 + 64 * (64 * off.toNat + 8 * rs1.toNat + rs2.toNat))
  | .cJ off => some (16, 24 + 64 * (off.toNat))
  | .cBeqz rs1 off => some (16, 28 + 64 * (8 * off.toNat + rs1.toNat))
  | .cBnez rs1 off => some (16, 32 + 64 * (8 * off.toNat + rs1.toNat))
  | .cJr rs1 => some (16, 36 + 64 * (rs1.toNat))
  | .cQget rd q => some (16, 40 + 64 * (32 * q.toNat + rd.toNat))
  | .cNop => some (16, 44 + 64 * (0))
  | .addi rd rs1 imm => some (32, encI 0 0 rd rs1 imm)
  | .slti rd rs1 imm => some (32, encI 0 1 rd rs1 imm)
  | .sltiu rd rs1 imm => some (32, encI 0 2 rd rs1 imm)
  | .andi rd rs1 imm => some (32, encI 0 3 rd rs1 imm)
  | .ori rd rs1 imm => some (32, encI 0 4 rd rs1 imm)
  | .xori rd rs1 imm => some (32, encI 0 5 rd rs1 imm)
  | .slli rd rs1 sh => some (32, encI 0 6 rd rs1 (BitVec.ofNat 11 (0 + sh.toNat)))
  | .srli rd rs1 sh => some (32, encI 0 7 rd rs1 (BitVec.ofNat 11 (0 + sh.toNat)))
  | .srai rd rs1 sh => some (32, encI 0 7 rd rs1 (BitVec.ofNat 11 (1024 + sh.toNat)))
  | .add rd rs1 rs2 => some (32, encR 1 0 rd rs1 rs2)
  | .sub rd rs1 rs2 => some (32, encR 1 1 rd rs1 rs2)
  | .and rd rs1 rs2 => some (32, encR 1 2 rd rs1 rs2)
  | .or rd rs1 rs2 => some (32, encR 1 3 rd rs1 rs2)
  | .xor rd rs1 rs2 => some (32, encR 1 4 rd rs1 rs2)
  | .sll rd rs1 rs2 => some (32, encR 1 5 rd rs1 rs2)
  | .srl rd rs1 rs2 => some (32, encR 1 6 rd rs1 rs2)
  | .sra rd rs1 rs2 => some (32, encR 1 7 rd rs1 rs2)
  | .slt rd rs1 rs2 => some (32, encR 1 8 rd rs1 rs2)
  | .sltu rd rs1 rs2 => some (32, encR 1 9 rd rs1 rs2)
  | .min rd rs1 rs2 => some (32, encR 1 10 rd rs1 rs2)
  | .max rd rs1 rs2 => some (32, encR 1 11 rd rs1 rs2)
  | .minu rd rs1 rs2 => some (32, encR 1 12 rd rs1 rs2)
  | .maxu rd rs1 rs2 => some (32, encR 1 13 rd rs1 rs2)
  | .mul rd rs1 rs2 => some (32, encR 1 14 rd rs1 rs2)
  | .mulh rd rs1 rs2 => some (32, encR 1 15 rd rs1 rs2)
  | .mulhu rd rs1 rs2 => some (32, encR 1 16 rd rs1 rs2)
  | .div rd rs1 rs2 => some (32, encR 1 17 rd rs1 rs2)
  | .divu rd rs1 rs2 => some (32, encR 1 18 rd rs1 rs2)
  | .rem rd rs1 rs2 => some (32, encR 1 19 rd rs1 rs2)
  | .remu rd rs1 rs2 => some (32, encR 1 20 rd rs1 rs2)
  | .clz rd rs1 => some (32, encR 1 21 rd rs1 0)
  | .ctz rd rs1 => some (32, encR 1 22 rd rs1 0)
  | .cpop rd rs1 => some (32, encR 1 23 rd rs1 0)
  | .lui rd imm => some (32, encU 2 rd imm)
  | .auipc rd imm => some (32, encU 3 rd imm)
  | .jal rd imm => some (32, encU 4 rd imm)
  | .jalr rd rs1 imm => some (32, encI 5 0 rd rs1 imm)
  | .beq rs1 rs2 imm => some (32, encS 6 0 rs1 rs2 imm)
  | .bne rs1 rs2 imm => some (32, encS 6 1 rs1 rs2 imm)
  | .blt rs1 rs2 imm => some (32, encS 6 2 rs1 rs2 imm)
  | .bge rs1 rs2 imm => some (32, encS 6 3 rs1 rs2 imm)
  | .bltu rs1 rs2 imm => some (32, encS 6 4 rs1 rs2 imm)
  | .bgeu rs1 rs2 imm => some (32, encS 6 5 rs1 rs2 imm)
  | .ld rd rs1 imm => some (32, encI 7 0 rd rs1 imm)
  | .lw rd rs1 imm => some (32, encI 7 1 rd rs1 imm)
  | .lh rd rs1 imm => some (32, encI 7 2 rd rs1 imm)
  | .lb rd rs1 imm => some (32, encI 7 3 rd rs1 imm)
  | .lwu rd rs1 imm => some (32, encI 7 5 rd rs1 imm)
  | .lhu rd rs1 imm => some (32, encI 7 6 rd rs1 imm)
  | .lbu rd rs1 imm => some (32, encI 7 7 rd rs1 imm)
  | .sd rs1 rs2 imm => some (32, encS 8 0 rs1 rs2 imm)
  | .sw rs1 rs2 imm => some (32, encS 8 1 rs1 rs2 imm)
  | .sh rs1 rs2 imm => some (32, encS 8 2 rs1 rs2 imm)
  | .sb rs1 rs2 imm => some (32, encS 8 3 rs1 rs2 imm)
  | .amoswapD ord scope rs2 rs1 rd => some (32, Fields.pack 1 { f := 0, e := ord, d := scope, c := rs2, b := rs1, a := rd, major := 9 })
  | .amoaddD ord scope rs2 rs1 rd => some (32, Fields.pack 1 { f := 1, e := ord, d := scope, c := rs2, b := rs1, a := rd, major := 9 })
  | .amoandD ord scope rs2 rs1 rd => some (32, Fields.pack 1 { f := 2, e := ord, d := scope, c := rs2, b := rs1, a := rd, major := 9 })
  | .amoorD ord scope rs2 rs1 rd => some (32, Fields.pack 1 { f := 3, e := ord, d := scope, c := rs2, b := rs1, a := rd, major := 9 })
  | .amoxorD ord scope rs2 rs1 rd => some (32, Fields.pack 1 { f := 4, e := ord, d := scope, c := rs2, b := rs1, a := rd, major := 9 })
  | .amominD ord scope rs2 rs1 rd => some (32, Fields.pack 1 { f := 5, e := ord, d := scope, c := rs2, b := rs1, a := rd, major := 9 })
  | .amomaxD ord scope rs2 rs1 rd => some (32, Fields.pack 1 { f := 6, e := ord, d := scope, c := rs2, b := rs1, a := rd, major := 9 })
  | .amominuD ord scope rs2 rs1 rd => some (32, Fields.pack 1 { f := 7, e := ord, d := scope, c := rs2, b := rs1, a := rd, major := 9 })
  | .amomaxuD ord scope rs2 rs1 rd => some (32, Fields.pack 1 { f := 8, e := ord, d := scope, c := rs2, b := rs1, a := rd, major := 9 })
  | .amocasD ord scope rs2 rs1 rd => some (32, Fields.pack 1 { f := 9, e := ord, d := scope, c := rs2, b := rs1, a := rd, major := 9 })
  | .ldaD scope rs1 rd => some (32, Fields.pack 1 { f := 10, e := 1, d := scope, c := 0, b := rs1, a := rd, major := 9 })
  | .stlD scope rs2 rs1 => some (32, Fields.pack 1 { f := 11, e := 2, d := scope, c := rs2, b := rs1, a := 0, major := 9 })
  | .amoswapW ord scope rs2 rs1 rd => some (32, Fields.pack 1 { f := 0, e := ord, d := scope, c := rs2, b := rs1, a := rd, major := 10 })
  | .amoaddW ord scope rs2 rs1 rd => some (32, Fields.pack 1 { f := 1, e := ord, d := scope, c := rs2, b := rs1, a := rd, major := 10 })
  | .amoandW ord scope rs2 rs1 rd => some (32, Fields.pack 1 { f := 2, e := ord, d := scope, c := rs2, b := rs1, a := rd, major := 10 })
  | .amoorW ord scope rs2 rs1 rd => some (32, Fields.pack 1 { f := 3, e := ord, d := scope, c := rs2, b := rs1, a := rd, major := 10 })
  | .amoxorW ord scope rs2 rs1 rd => some (32, Fields.pack 1 { f := 4, e := ord, d := scope, c := rs2, b := rs1, a := rd, major := 10 })
  | .amominW ord scope rs2 rs1 rd => some (32, Fields.pack 1 { f := 5, e := ord, d := scope, c := rs2, b := rs1, a := rd, major := 10 })
  | .amomaxW ord scope rs2 rs1 rd => some (32, Fields.pack 1 { f := 6, e := ord, d := scope, c := rs2, b := rs1, a := rd, major := 10 })
  | .amominuW ord scope rs2 rs1 rd => some (32, Fields.pack 1 { f := 7, e := ord, d := scope, c := rs2, b := rs1, a := rd, major := 10 })
  | .amomaxuW ord scope rs2 rs1 rd => some (32, Fields.pack 1 { f := 8, e := ord, d := scope, c := rs2, b := rs1, a := rd, major := 10 })
  | .amocasW ord scope rs2 rs1 rd => some (32, Fields.pack 1 { f := 9, e := ord, d := scope, c := rs2, b := rs1, a := rd, major := 10 })
  | .ldaW scope rs1 rd => some (32, Fields.pack 1 { f := 10, e := 1, d := scope, c := 0, b := rs1, a := rd, major := 10 })
  | .stlW scope rs2 rs1 => some (32, Fields.pack 1 { f := 11, e := 2, d := scope, c := rs2, b := rs1, a := 0, major := 10 })
  | .fence scope pred succ => some (32, encF 0 scope 0 (pred.setWidth 3) succ 0 0)
  | .fenceX scope src dst => some (32, encF 1 scope src dst 0 0 0)
  | .fenceT scope dir pred succ => some (32, encF 2 scope (BitVec.ofNat 3 (4 * dir.toNat)) (pred.setWidth 3) succ 0 0)
  | .tclr file reg => some (32, encF 3 0 0 0 file 0 reg)
  | .tjoin fs fd rs1 rd => some (32, encF 4 0 0 (fs.setWidth 3) fd rs1 rd)
  | .yield => some (32, encI 12 0 0 0 0)
  | .wfi => some (32, encI 12 0 0 0 1)
  | .ecall => some (32, encI 12 0 0 0 2)
  | .ebreak => some (32, encI 12 0 0 0 3)
  | .eret => some (32, encI 12 0 0 0 4)
  | .tlbinv rs1 => some (32, encI 12 0 0 rs1 5)
  | .csrrw rd rs1 csr => some (32, encI 12 1 rd rs1 csr)
  | .csrrwi rd uimm csr => some (32, encI 12 2 rd uimm csr)
  | .csrrs rd rs1 csr => some (32, encI 12 3 rd rs1 csr)
  | .csrrsi rd uimm csr => some (32, encI 12 4 rd uimm csr)
  | .csrrc rd rs1 csr => some (32, encI 12 5 rd rs1 csr)
  | .csrrci rd uimm csr => some (32, encI 12 6 rd uimm csr)
  | .qput q rs2 => some (32, encS 13 0 (q.setWidth 5) rs2 0)
  | .qget rd q => some (32, Fields.pack 1 { f := 0, e := 0, d := 1, c := 0, b := q.setWidth 5, a := rd, major := 13 })
  | .qbr q off => some (32, encS 13 2 (q.setWidth 5) 0 off)
  | .qstat rd q => some (32, Fields.pack 1 { f := 0, e := 0, d := 3, c := 0, b := q.setWidth 5, a := rd, major := 13 })
  | .cpy rd rs1 rs2 rs3 => some (32, Fields.pack 1 { f := 0, e := BitVec.ofNat 2 (rs3.toNat / 8), d := BitVec.ofNat 3 rs3.toNat, c := rs2, b := rs1, a := rd, major := 14 })
  | .cpy2d rd rs1 rs2 rs3 => some (32, Fields.pack 1 { f := 1, e := BitVec.ofNat 2 (rs3.toNat / 8), d := BitVec.ofNat 3 rs3.toNat, c := rs2, b := rs1, a := rd, major := 14 })
  | .gathr rd rs1 rs2 rs3 => some (32, Fields.pack 1 { f := 2, e := BitVec.ofNat 2 (rs3.toNat / 8), d := BitVec.ofNat 3 rs3.toNat, c := rs2, b := rs1, a := rd, major := 14 })
  | .scatr rd rs1 rs2 rs3 => some (32, Fields.pack 1 { f := 3, e := BitVec.ofNat 2 (rs3.toNat / 8), d := BitVec.ofNat 3 rs3.toNat, c := rs2, b := rs1, a := rd, major := 14 })
  | .cpwait rd rs1 => some (32, Fields.pack 1 { f := 4, e := 0, d := 0, c := 0, b := rs1, a := rd, major := 14 })
  | .binit rd rs1 rs2 => some (32, encR 15 0 rd rs1 rs2)
  | .barr rd rs1 => some (32, encR 15 1 rd rs1 0)
  | .barrx rd rs1 rs2 => some (32, encR 15 2 rd rs1 rs2)
  | .barrm rd rs1 rs2 => some (32, encR 15 3 rd rs1 rs2)
  | .bwait rd rs1 rs2 => some (32, encR 15 4 rd rs1 rs2)
  | .btest rd rs1 rs2 => some (32, encR 15 5 rd rs1 rs2)
  | .bshape rd rs1 rs2 => some (32, encR 16 0 rd rs1 rs2)
  | .sqadm rd rs1 rs2 => some (32, encR 16 1 rd rs1 rs2)
  | .sqret rd rs1 rs2 => some (32, encR 16 2 rd rs1 rs2)
  | .pgalloc rd rs1 => some (32, encR 16 3 rd rs1 0)
  | .pgref rd rs1 rs2 => some (32, encR 16 4 rd rs1 rs2)
  | .pgrel rd rs1 rs2 => some (32, encR 16 5 rd rs1 rs2)
  | .pgxfer rd rs1 rs2 => some (32, encR 16 6 rd rs1 rs2)
  | .ixinit rd rs1 rs2 => some (32, encR 17 0 rd rs1 rs2)
  | .ixcur rd rs1 rs2 => some (32, encR 17 1 rd rs1 rs2)
  | .ixatt rd rs1 rs2 => some (32, encR 17 2 rd rs1 rs2)
  | .ixdet rd rs1 => some (32, encR 17 3 rd rs1 0)
  | .ixext rd rs1 rs2 => some (32, encR 17 4 rd rs1 rs2)
  | .ixmatch rd rs1 rs2 => some (32, encR 17 5 rd rs1 rs2)
  | .ixstat rd rs1 rs2 => some (32, encR 17 6 rd rs1 rs2)
  | .pgsub rd rs1 rs2 => some (32, encR 18 0 rd rs1 rs2)
  | .pgopen rd rs1 => some (32, encR 18 1 rd rs1 0)
  | .mbset rd rs1 rs2 => some (32, encR 18 2 rd rs1 rs2)
  | .vsetvl rd rs1 rs2 => some (32, Fields.pack 2 { f := 0, e := 0, d := 0, c := rs2, b := rs1, a := rd, major := 0 })
  | .vsetvli rd rs1 vt => some (32, Fields.pack 2 { f := BitVec.ofNat 4 (8 + vt.toNat / 256), e := BitVec.ofNat 2 (vt.toNat / 64), d := BitVec.ofNat 3 (vt.toNat / 8), c := BitVec.ofNat 5 (4 * (vt.toNat % 8)), b := rs1, a := rd, major := 0 })
  | .vadd ok km vs2 src vd => some (32, Fields.pack 2 { f := 0, e := ok, d := km, c := vs2, b := src, a := vd, major := 1 })
  | .vsub ok km vs2 src vd => some (32, Fields.pack 2 { f := 1, e := ok, d := km, c := vs2, b := src, a := vd, major := 1 })
  | .vrsub ok km vs2 src vd => some (32, Fields.pack 2 { f := 2, e := ok, d := km, c := vs2, b := src, a := vd, major := 1 })
  | .vmin ok km vs2 src vd => some (32, Fields.pack 2 { f := 3, e := ok, d := km, c := vs2, b := src, a := vd, major := 1 })
  | .vmax ok km vs2 src vd => some (32, Fields.pack 2 { f := 4, e := ok, d := km, c := vs2, b := src, a := vd, major := 1 })
  | .vminu ok km vs2 src vd => some (32, Fields.pack 2 { f := 5, e := ok, d := km, c := vs2, b := src, a := vd, major := 1 })
  | .vmaxu ok km vs2 src vd => some (32, Fields.pack 2 { f := 6, e := ok, d := km, c := vs2, b := src, a := vd, major := 1 })
  | .vand ok km vs2 src vd => some (32, Fields.pack 2 { f := 7, e := ok, d := km, c := vs2, b := src, a := vd, major := 1 })
  | .vor ok km vs2 src vd => some (32, Fields.pack 2 { f := 8, e := ok, d := km, c := vs2, b := src, a := vd, major := 1 })
  | .vxor ok km vs2 src vd => some (32, Fields.pack 2 { f := 9, e := ok, d := km, c := vs2, b := src, a := vd, major := 1 })
  | .vsll ok km vs2 src vd => some (32, Fields.pack 2 { f := 10, e := ok, d := km, c := vs2, b := src, a := vd, major := 1 })
  | .vsrl ok km vs2 src vd => some (32, Fields.pack 2 { f := 11, e := ok, d := km, c := vs2, b := src, a := vd, major := 1 })
  | .vsra ok km vs2 src vd => some (32, Fields.pack 2 { f := 12, e := ok, d := km, c := vs2, b := src, a := vd, major := 1 })
  | .vsadd ok km vs2 src vd => some (32, Fields.pack 2 { f := 13, e := ok, d := km, c := vs2, b := src, a := vd, major := 1 })
  | .vssub ok km vs2 src vd => some (32, Fields.pack 2 { f := 14, e := ok, d := km, c := vs2, b := src, a := vd, major := 1 })
  | .vmerge ok km vs2 src vd => some (32, Fields.pack 2 { f := 15, e := ok, d := km, c := vs2, b := src, a := vd, major := 1 })
  | .vmul ok km vs2 src vd => some (32, Fields.pack 2 { f := 0, e := ok, d := km, c := vs2, b := src, a := vd, major := 2 })
  | .vmulh ok km vs2 src vd => some (32, Fields.pack 2 { f := 1, e := ok, d := km, c := vs2, b := src, a := vd, major := 2 })
  | .vmulhu ok km vs2 src vd => some (32, Fields.pack 2 { f := 2, e := ok, d := km, c := vs2, b := src, a := vd, major := 2 })
  | .vdiv ok km vs2 src vd => some (32, Fields.pack 2 { f := 3, e := ok, d := km, c := vs2, b := src, a := vd, major := 2 })
  | .vdivu ok km vs2 src vd => some (32, Fields.pack 2 { f := 4, e := ok, d := km, c := vs2, b := src, a := vd, major := 2 })
  | .vrem ok km vs2 src vd => some (32, Fields.pack 2 { f := 5, e := ok, d := km, c := vs2, b := src, a := vd, major := 2 })
  | .vremu ok km vs2 src vd => some (32, Fields.pack 2 { f := 6, e := ok, d := km, c := vs2, b := src, a := vd, major := 2 })
  | .vmacc ok km vs2 src vd => some (32, Fields.pack 2 { f := 7, e := ok, d := km, c := vs2, b := src, a := vd, major := 2 })
  | .vmv ok km src vd => some (32, Fields.pack 2 { f := 8, e := ok, d := km, c := 0, b := src, a := vd, major := 2 })
  | .vid km vd => some (32, Fields.pack 2 { f := 9, e := 0, d := km, c := 0, b := 0, a := vd, major := 2 })
  | .vmseq ok km vs2 src kd => some (32, Fields.pack 2 { f := 0, e := ok, d := km, c := vs2, b := src, a := kd.setWidth 5, major := 3 })
  | .vmsne ok km vs2 src kd => some (32, Fields.pack 2 { f := 1, e := ok, d := km, c := vs2, b := src, a := kd.setWidth 5, major := 3 })
  | .vmslt ok km vs2 src kd => some (32, Fields.pack 2 { f := 2, e := ok, d := km, c := vs2, b := src, a := kd.setWidth 5, major := 3 })
  | .vmsltu ok km vs2 src kd => some (32, Fields.pack 2 { f := 3, e := ok, d := km, c := vs2, b := src, a := kd.setWidth 5, major := 3 })
  | .vmsle ok km vs2 src kd => some (32, Fields.pack 2 { f := 4, e := ok, d := km, c := vs2, b := src, a := kd.setWidth 5, major := 3 })
  | .vmsleu ok km vs2 src kd => some (32, Fields.pack 2 { f := 5, e := ok, d := km, c := vs2, b := src, a := kd.setWidth 5, major := 3 })
  | .vmsgt ok km vs2 src kd => some (32, Fields.pack 2 { f := 6, e := ok, d := km, c := vs2, b := src, a := kd.setWidth 5, major := 3 })
  | .vmsgtu ok km vs2 src kd => some (32, Fields.pack 2 { f := 7, e := ok, d := km, c := vs2, b := src, a := kd.setWidth 5, major := 3 })
  | .vmfeq ok km vs2 src kd => some (32, Fields.pack 2 { f := 8, e := ok, d := km, c := vs2, b := src, a := kd.setWidth 5, major := 3 })
  | .vmfne ok km vs2 src kd => some (32, Fields.pack 2 { f := 9, e := ok, d := km, c := vs2, b := src, a := kd.setWidth 5, major := 3 })
  | .vmflt ok km vs2 src kd => some (32, Fields.pack 2 { f := 10, e := ok, d := km, c := vs2, b := src, a := kd.setWidth 5, major := 3 })
  | .vmfle ok km vs2 src kd => some (32, Fields.pack 2 { f := 11, e := ok, d := km, c := vs2, b := src, a := kd.setWidth 5, major := 3 })
  | .vfadd ok km vs2 src vd => some (32, Fields.pack 2 { f := 0, e := ok, d := km, c := vs2, b := src, a := vd, major := 4 })
  | .vfsub ok km vs2 src vd => some (32, Fields.pack 2 { f := 1, e := ok, d := km, c := vs2, b := src, a := vd, major := 4 })
  | .vfmul ok km vs2 src vd => some (32, Fields.pack 2 { f := 2, e := ok, d := km, c := vs2, b := src, a := vd, major := 4 })
  | .vfdiv ok km vs2 src vd => some (32, Fields.pack 2 { f := 3, e := ok, d := km, c := vs2, b := src, a := vd, major := 4 })
  | .vfmin ok km vs2 src vd => some (32, Fields.pack 2 { f := 4, e := ok, d := km, c := vs2, b := src, a := vd, major := 4 })
  | .vfmax ok km vs2 src vd => some (32, Fields.pack 2 { f := 5, e := ok, d := km, c := vs2, b := src, a := vd, major := 4 })
  | .vfsgnj ok km vs2 src vd => some (32, Fields.pack 2 { f := 6, e := ok, d := km, c := vs2, b := src, a := vd, major := 4 })
  | .vfsgnjn ok km vs2 src vd => some (32, Fields.pack 2 { f := 7, e := ok, d := km, c := vs2, b := src, a := vd, major := 4 })
  | .vfsgnjx ok km vs2 src vd => some (32, Fields.pack 2 { f := 8, e := ok, d := km, c := vs2, b := src, a := vd, major := 4 })
  | .vfmacc ok km vs2 src vd => some (32, Fields.pack 2 { f := 9, e := ok, d := km, c := vs2, b := src, a := vd, major := 4 })
  | .vfnmacc ok km vs2 src vd => some (32, Fields.pack 2 { f := 10, e := ok, d := km, c := vs2, b := src, a := vd, major := 4 })
  | .vfmsac ok km vs2 src vd => some (32, Fields.pack 2 { f := 11, e := ok, d := km, c := vs2, b := src, a := vd, major := 4 })
  | .vfsqrt ok km src vd => some (32, Fields.pack 2 { f := 12, e := ok, d := km, c := 0, b := src, a := vd, major := 4 })
  | .vfrcp ok km src vd => some (32, Fields.pack 2 { f := 13, e := ok, d := km, c := 0, b := src, a := vd, major := 4 })
  | .vfexp2 ok km src vd => some (32, Fields.pack 2 { f := 14, e := ok, d := km, c := 0, b := src, a := vd, major := 4 })
  | .vfclass ok km src vd => some (32, Fields.pack 2 { f := 15, e := ok, d := km, c := 0, b := src, a := vd, major := 4 })
  | .vfcvtFX ok km src vd => some (32, Fields.pack 2 { f := 0, e := ok, d := km, c := 0, b := src, a := vd, major := 5 })
  | .vfcvtXF ok km src vd => some (32, Fields.pack 2 { f := 1, e := ok, d := km, c := 0, b := src, a := vd, major := 5 })
  | .vfwcvt ok km fmt src vd => some (32, Fields.pack 2 { f := 2, e := ok, d := km, c := fmt, b := src, a := vd, major := 5 })
  | .vfncvt ok km fmt src vd => some (32, Fields.pack 2 { f := 3, e := ok, d := km, c := fmt, b := src, a := vd, major := 5 })
  | .vqnt ok km vsc src vd => some (32, Fields.pack 2 { f := 4, e := ok, d := km, c := vsc, b := src, a := vd, major := 5 })
  | .vdeq ok km vsc src vd => some (32, Fields.pack 2 { f := 5, e := ok, d := km, c := vsc, b := src, a := vd, major := 5 })
  | .kand ks2 ks1 kd => some (32, Fields.pack 2 { f := 0, e := 0, d := 0, c := ks2.setWidth 5, b := ks1.setWidth 5, a := kd.setWidth 5, major := 6 })
  | .kor ks2 ks1 kd => some (32, Fields.pack 2 { f := 1, e := 0, d := 0, c := ks2.setWidth 5, b := ks1.setWidth 5, a := kd.setWidth 5, major := 6 })
  | .kxor ks2 ks1 kd => some (32, Fields.pack 2 { f := 2, e := 0, d := 0, c := ks2.setWidth 5, b := ks1.setWidth 5, a := kd.setWidth 5, major := 6 })
  | .kandn ks2 ks1 kd => some (32, Fields.pack 2 { f := 3, e := 0, d := 0, c := ks2.setWidth 5, b := ks1.setWidth 5, a := kd.setWidth 5, major := 6 })
  | .knot ks1 kd => some (32, Fields.pack 2 { f := 4, e := 0, d := 0, c := 0, b := ks1.setWidth 5, a := kd.setWidth 5, major := 6 })
  | .kfromv km vs1 kd => some (32, Fields.pack 2 { f := 5, e := 0, d := km, c := 0, b := vs1, a := kd.setWidth 5, major := 6 })
  | .vfromk km ks1 vd => some (32, Fields.pack 2 { f := 6, e := 0, d := km, c := 0, b := ks1.setWidth 5, a := vd, major := 6 })
  | .kpop ks1 rd => some (32, Fields.pack 2 { f := 7, e := 0, d := 0, c := 0, b := ks1.setWidth 5, a := rd, major := 6 })
  | .kfirst ks1 rd => some (32, Fields.pack 2 { f := 8, e := 0, d := 0, c := 0, b := ks1.setWidth 5, a := rd, major := 6 })
  | .vslideup ok km vs2 src vd => some (32, Fields.pack 2 { f := 0, e := ok, d := km, c := vs2, b := src, a := vd, major := 7 })
  | .vslidedown ok km vs2 src vd => some (32, Fields.pack 2 { f := 1, e := ok, d := km, c := vs2, b := src, a := vd, major := 7 })
  | .vslide1up ok km vs2 src vd => some (32, Fields.pack 2 { f := 2, e := ok, d := km, c := vs2, b := src, a := vd, major := 7 })
  | .vslide1down ok km vs2 src vd => some (32, Fields.pack 2 { f := 3, e := ok, d := km, c := vs2, b := src, a := vd, major := 7 })
  | .vrgather ok km vs2 src vd => some (32, Fields.pack 2 { f := 4, e := ok, d := km, c := vs2, b := src, a := vd, major := 7 })
  | .vcompress km vs1 vd => some (32, Fields.pack 2 { f := 5, e := 0, d := km, c := 0, b := vs1, a := vd, major := 7 })
  | .vexpand km vs1 vd => some (32, Fields.pack 2 { f := 6, e := 0, d := km, c := 0, b := vs1, a := vd, major := 7 })
  | .viota km ks1 vd => some (32, Fields.pack 2 { f := 7, e := 0, d := km, c := 0, b := ks1.setWidth 5, a := vd, major := 7 })
  | .vmvxs vs2 rd => some (32, Fields.pack 2 { f := 8, e := 0, d := 0, c := vs2, b := 0, a := rd, major := 7 })
  | .vmvsx rs1 vd => some (32, Fields.pack 2 { f := 9, e := 1, d := 0, c := 0, b := rs1, a := vd, major := 7 })
  | .vredsum ok km vs2 src vd => some (32, Fields.pack 2 { f := 0, e := ok, d := km, c := vs2, b := src, a := vd, major := 8 })
  | .vredmax ok km vs2 src vd => some (32, Fields.pack 2 { f := 1, e := ok, d := km, c := vs2, b := src, a := vd, major := 8 })
  | .vredmin ok km vs2 src vd => some (32, Fields.pack 2 { f := 2, e := ok, d := km, c := vs2, b := src, a := vd, major := 8 })
  | .vredmaxu ok km vs2 src vd => some (32, Fields.pack 2 { f := 3, e := ok, d := km, c := vs2, b := src, a := vd, major := 8 })
  | .vredminu ok km vs2 src vd => some (32, Fields.pack 2 { f := 4, e := ok, d := km, c := vs2, b := src, a := vd, major := 8 })
  | .vfredsum ok km vs2 src vd => some (32, Fields.pack 2 { f := 5, e := ok, d := km, c := vs2, b := src, a := vd, major := 8 })
  | .vfredmax ok km vs2 src vd => some (32, Fields.pack 2 { f := 6, e := ok, d := km, c := vs2, b := src, a := vd, major := 8 })
  | .vfredmin ok km vs2 src vd => some (32, Fields.pack 2 { f := 7, e := ok, d := km, c := vs2, b := src, a := vd, major := 8 })
  | .vsegsum km vs2 ks1 vd => some (32, Fields.pack 2 { f := 8, e := 0, d := km, c := vs2, b := ks1.setWidth 5, a := vd, major := 8 })
  | .vsegmax km vs2 ks1 vd => some (32, Fields.pack 2 { f := 9, e := 0, d := km, c := vs2, b := ks1.setWidth 5, a := vd, major := 8 })
  | .vle ok km rs1 vd => some (32, Fields.pack 2 { f := 0, e := ok, d := km, c := 0, b := rs1, a := vd, major := 9 })
  | .vlse ok km rs2 rs1 vd => some (32, Fields.pack 2 { f := 1, e := ok, d := km, c := rs2, b := rs1, a := vd, major := 9 })
  | .vlxe ok km vs2 rs1 vd => some (32, Fields.pack 2 { f := 2, e := ok, d := km, c := vs2, b := rs1, a := vd, major := 9 })
  | .vlxb ok km vs2 rs1 vd => some (32, Fields.pack 2 { f := 3, e := ok, d := km, c := vs2, b := rs1, a := vd, major := 9 })
  | .vleff ok km rs1 vd => some (32, Fields.pack 2 { f := 4, e := ok, d := km, c := 0, b := rs1, a := vd, major := 9 })
  | .vlcb km rs2 rs1 vd => some (32, Fields.pack 2 { f := 5, e := 0, d := km, c := rs2, b := rs1, a := vd, major := 9 })
  | .vse ok km rs1 vd => some (32, Fields.pack 2 { f := 0, e := ok, d := km, c := 0, b := rs1, a := vd, major := 10 })
  | .vsse ok km rs2 rs1 vd => some (32, Fields.pack 2 { f := 1, e := ok, d := km, c := rs2, b := rs1, a := vd, major := 10 })
  | .vsxe ok km vs2 rs1 vd => some (32, Fields.pack 2 { f := 2, e := ok, d := km, c := vs2, b := rs1, a := vd, major := 10 })
  | .vscadd ok km vs2 rs1 vd => some (32, Fields.pack 2 { f := 3, e := ok, d := km, c := vs2, b := rs1, a := vd, major := 10 })
  | .vscb rs2 rs1 vd => some (32, Fields.pack 2 { f := 4, e := 0, d := 0, c := rs2, b := rs1, a := vd, major := 10 })
  | .vcapp km rd rs1 vd => some (32, Fields.pack 2 { f := 5, e := 0, d := km, c := rd, b := rs1, a := vd, major := 10 })
  | .vhacc ok km vs2 rs1 vd => some (32, Fields.pack 2 { f := 6, e := ok, d := km, c := vs2, b := rs1, a := vd, major := 10 })
  | .qputv km vs1 q => some (32, Fields.pack 2 { f := 0, e := 0, d := km, c := 0, b := vs1, a := q.setWidth 5, major := 11 })
  | .qgetv km q vd => some (32, Fields.pack 2 { f := 1, e := 0, d := km, c := 0, b := q.setWidth 5, a := vd, major := 11 })
  | .vascore vs2 q => some (32, Fields.pack 2 { f := 0, e := 3, d := 0, c := vs2, b := q.setWidth 5, a := 0, major := 12 })
  | .vaexp => some (32, Fields.pack 2 { f := 1, e := 0, d := 0, c := 0, b := 0, a := 0, major := 12 })
  | .vaacc q => some (32, Fields.pack 2 { f := 2, e := 3, d := 0, c := 0, b := q.setWidth 5, a := 0, major := 12 })
  | .vafin rs1 vd => some (32, Fields.pack 2 { f := 3, e := 1, d := 0, c := 0, b := rs1, a := vd, major := 12 })
  | .ixprop rd rs1 vd => some (32, Fields.pack 2 { f := 0, e := 1, d := 0, c := rd, b := rs1, a := vd, major := 13 })
  | .ixacc vs2 vs1 rd => some (32, Fields.pack 2 { f := 1, e := 0, d := 0, c := vs2, b := vs1, a := rd, major := 13 })
  | .ixextv km vs2 rs1 rd => some (32, Fields.pack 2 { f := 2, e := 1, d := km, c := vs2, b := rs1, a := rd, major := 13 })
  | .vstop km vs2 rs1 kd => some (32, Fields.pack 2 { f := 0, e := 1, d := km, c := vs2, b := rs1, a := kd.setWidth 5, major := 14 })
  | .mcfgAcq => some (64, Fields.pack 3 { f := 0, e := 0, d := 0, c := 0, b := 0, a := 0, major := 0 } + 4294967296 * Tile.pack { rest := 0, vb := 0, epi := 0, fmt := 0, rows := 0, tile := 0 })
  | .mcfgRel => some (64, Fields.pack 3 { f := 1, e := 0, d := 0, c := 0, b := 0, a := 0, major := 0 } + 4294967296 * Tile.pack { rest := 0, vb := 0, epi := 0, fmt := 0, rows := 0, tile := 0 })
  | .mcfgSet rs1 => some (64, Fields.pack 3 { f := 2, e := 0, d := 0, c := 0, b := rs1, a := 0, major := 0 } + 4294967296 * Tile.pack { rest := 0, vb := 0, epi := 0, fmt := 0, rows := 0, tile := 0 })
  | .mlds q fmt => some (64, Fields.pack 3 { f := 0, e := 0, d := 0, c := 0, b := q.setWidth 5, a := 0, major := 1 } + 4294967296 * Tile.pack { rest := 0, vb := 0, epi := 0, fmt := fmt, rows := 0, tile := 0 })
  | .mswap => some (64, Fields.pack 3 { f := 0, e := 0, d := 0, c := 0, b := 0, a := 0, major := 2 } + 4294967296 * Tile.pack { rest := 0, vb := 0, epi := 0, fmt := 0, rows := 0, tile := 0 })
  | .mstrm va vsc tile rows fmt => some (64, Fields.pack 3 { f := 0, e := 0, d := 0, c := vsc, b := 0, a := va, major := 3 } + 4294967296 * Tile.pack { rest := 0, vb := 0, epi := 0, fmt := fmt, rows := rows, tile := tile })
  | .mdrain vd tile rows fmt epi vb => some (64, Fields.pack 3 { f := 0, e := 0, d := 0, c := 0, b := 0, a := vd, major := 4 } + 4294967296 * Tile.pack { rest := 0, vb := vb, epi := epi.setWidth 3, fmt := fmt, rows := rows, tile := tile })
  | .mzero tile => some (64, Fields.pack 3 { f := 0, e := 0, d := 0, c := 0, b := 0, a := 0, major := 5 } + 4294967296 * Tile.pack { rest := 0, vb := 0, epi := 0, fmt := 0, rows := 0, tile := tile })
  | .mwait => some (64, Fields.pack 3 { f := 0, e := 0, d := 0, c := 0, b := 0, a := 0, major := 6 } + 4294967296 * Tile.pack { rest := 0, vb := 0, epi := 0, fmt := 0, rows := 0, tile := 0 })
  | .mstrmExecute _ => none
  | .mdrainExecute _ => none
  | .mzeroExecute _ => none
  | .mswapExecute _ => none
  | .mcfgSetExecute _ => none
  | .leaseGrant _ => none
  | .hartStallEnd _ => none
  | .tagRetire _ _ => none
  | .viewAdvance _ _ => none
  | .tlbEviction _ _ => none
  | .timerInterrupt _ => none
  | .mailboxInterrupt _ => none
  | .preemptionTrap _ => none
  | .endOfBody _ => none
  | .qcfgWrite _ _ => none
  | .sstatusLeave _ => none
  | .viologWrite _ _ => none
  | .registerWrite _ _ => none
  | .copyUnit _ => none
  | .copyComplete _ _ _ => none
  | .trainAck _ _ _ _ _ => none
  | .barrierNotice _ => none
  | .poolValidate _ => none
  | .sluiceFetch _ => none
  | .sluiceDelivery _ _ => none
  | .stageReclaim _ => none
  | .sluiceRefetch _ => none
  | .lateJoinerService _ => none
  | .partialMerge _ _ _ => none
  | .queueNotify _ _ _ _ => none
  | .queueServiceStep _ _ => none
  | .queueMap _ _ => none
  | .queueUnmap _ _ => none
  | .launchReady _ => none
  | .placementDispatch _ _ => none
  | .temporalRedispatch _ => none
  | .crewEnd _ => none
  | .launchAbandon _ => none
  | .sliceExpiry _ _ => none
  | .preemptionRequest _ _ => none
  | .switchOut _ => none
  | .crewResume _ => none
  | .contextLive _ => none
  | .contextQuiesce _ => none
  | .contextTeardown _ => none
  | .teardownComplete _ => none
  | .contextRelease _ => none
  | .patrolScrub _ _ => none
  | .channelRetire _ => none
  | .rebuildRow _ => none
  | .coreSpare _ _ => none
  | .rowRemap _ _ _ => none
  | .checkpointWrite => none
  | .moduleReset _ => none
  | .linkTrainingDone _ _ _ => none
  | .laneFailure _ _ => none
  | .lossOfSignal _ => none
  | .flitReceive _ _ => none
  | .flitReplay _ => none
  | .requestTimeout _ => none
  | .atsInvalidation _ _ _ => none
  | .invalidationCompletion => none
  | .hostBar2Access _ => none
  | .tdispRequest _ _ => none
  | .ideKm _ _ => none
  | .getMeasurements _ _ => none
  | .telemetryRead _ _ _ => none
  | .mailboxDoorbell _ => none
  | .qbind _ _ _ _ => none
  | .qunbind _ _ => none
  | .partset _ => none
  | .clkset _ _ => none
  | .pwrlim _ => none
  | .slice _ => none
  | .linkEnable _ => none
  | .linkDisable _ => none
  | .linkRetire _ => none
  | .chretire _ => none
  | .revoke _ => none
  | .ckpt => none
  | .apmap _ _ _ _ _ => none
  | .apmapUnmap _ => none
  | .logread _ _ => none
  | .timer _ _ => none
  | .wopen _ => none
  | .wadmit _ _ => none
  | .lgtag _ _ _ => none
  | .ftag _ _ => none
  | .tlset _ _ _ => none
  | .werase _ => none
  | .attest _ _ => none
  | .wexport _ _ _ _ => none
  | .wimport _ _ => none
  | .mrext _ _ => none
  | .cert => none
  | .powerSample _ _ => none
  | .throttleStep _ => none
  | .reservedEncoding => none
  | .fetchFault _ _ => none
  | .hostCompletion _ _ => none

end Sys2Proof
end

