-- ==== Sys2Proof/Config.lean ====
section
/-! DEFINITION. What firmware or an implementation fixes, and the free values: opaque functions of plain data, so that no
proof can know a value of theirs. -/

namespace Sys2Proof.Config

/-- The place of the context table in pool.0; R331 leaves it to firmware (log 13). -/
def ctxTab : Nat := 0x200_6F00_0000
/-- The place of the module error log header in pool.0; R429 leaves it to firmware (log 13). -/
def errLog : Nat := 0x200_6F80_0000
/-- The place of the corrected-error counters, one 32-bit word per unit (R429, log 13). -/
def errCounters : Nat := 0x200_6F90_0000
/-- The checkpoint region in LP6, where the image begins (R21, R427). -/
def ckptBase : Nat := 0x19C_0000_0000
/-- Free: stvec that the Lemfel runtime installs for a context (R369, log 2). -/
opaque trapEntry : Nat → BitVec 64
/-- Free: sscratch that the runtime installs for a hart of a context (R369, log 2). -/
opaque trapScratch : Nat → Nat → BitVec 64
/-- Free: the top of the stack that the runtime reserves for a hart of a placement: launch, die, placement, role (R369, log 2). -/
opaque stackTop : Nat → Nat → Nat → Nat → BitVec 64
/-- Free: the crew save area that the runtime reserves at dispatch: launch, die, placement (R369, R406, log 2). -/
opaque saveArea : Nat → Nat → Nat → BitVec 64
/-- Free: the n-th choice between two outcomes that the spec leaves open (R178, R221, R226; log 2). -/
opaque freeBit : Nat → Bool
/-- Free: the n-th draw of a data key and a MAC key from the security controller's DRBG, 64 bytes (R446, log 2). -/
opaque freeKey : Nat → BitVec 512
/-- Free: the n-th 64-bit value that the spec leaves open (log 2). -/
opaque freeWord : Nat → BitVec 64

/-- Free: the SHA-256 digest of a boot stage: 0 first stage, 1 memory training, 2 runtime image, 3 its configuration (R459, log 2). -/
opaque bootDigest : Nat → BitVec 256
/-- Free: the two primes of the device's RSA-3072 attestation key (R457, log 2). -/
opaque rsaP : Nat
opaque rsaQ : Nat
/-- The modulus of that key. -/
def rsaModulus : Nat := rsaP * rsaQ
/-- Its private exponent: the inverse of 65,537 (R462) modulo the product of the primes less 1 each. -/
def rsaPrivate : Nat := (Nat.gcdA 65537 ((rsaP - 1) * (rsaQ - 1)) % (((rsaP - 1) * (rsaQ - 1) : Nat) : Int)).toNat
/-- Free: the n-th salt or seed of 32 bytes that the security controller draws for a signature or an encryption (R457, R458, log 2). -/
opaque freeSeed : Nat → BitVec 256
/-- Free: whether a certificate chain leads from a modulus to the Narcia root (R462, log 2). -/
opaque chainValid : List (BitVec 8) → List (BitVec 8) → Bool
/-- Free: the device's DER certificate chain (R461, log 2). -/
opaque certChain : List (BitVec 8)

end Sys2Proof.Config
end

