-- ==== Sys2Proof/Machine/Float.lean ====
section
/-! DEFINITION. Exact values of the number formats and one rounding of them (02_numbers R28 to R47, R52).

An element is held as a Nat of its bits; a float is decoded into an exact dyadic value, operated on exactly, and rounded once. -/

namespace Sys2Proof.Machine

/-- The exact value of a float code: NaN (signalling or quiet), an infinity, or (-1)^neg * m * 2^e (R30, R32). -/
inductive FVal where
  | nan (sig : Bool)
  | inf (neg : Bool)
  | fin (neg : Bool) (m : Nat) (e : Int)
  deriving DecidableEq, Repr

/-- A float format by its exponent width, fraction width and bias (R30). -/
structure FFmt where
  eb : Nat
  fb : Nat
  bias : Nat
  deriving DecidableEq, Repr

def fp32 : FFmt := ⟨8, 23, 127⟩
def fp16 : FFmt := ⟨5, 10, 15⟩
def bf16 : FFmt := ⟨8, 7, 127⟩
/-- E5M2 as to its fields (R30). -/
def e5m2 : FFmt := ⟨5, 2, 15⟩

/-- The width of a format in bits. -/
def FFmt.width (f : FFmt) : Nat := 1 + f.eb + f.fb

/-- The flags of fcsr[8:4]: INX, UNF, OVF, DBZ, IVO from bit 4 down (R33). -/
abbrev FFlags := BitVec 5

def flIVO : FFlags := 1
def flDBZ : FFlags := 2
def flOVF : FFlags := 4
def flUNF : FFlags := 8
def flINX : FFlags := 16

/-- The rounding modes (R34); a reserved code never reaches an operation. -/
inductive Rnd where
  | rne | rna | rtz | rtp | rtn
  deriving DecidableEq, Repr

/-- frm as a mode, none when reserved (R34). -/
def rndOf (frm : Nat) : Option Rnd :=
  match frm with
  | 0 => some .rne
  | 1 => some .rna
  | 2 => some .rtz
  | 3 => some .rtp
  | 4 => some .rtn
  | _ => none

/-- The canonical NaN: all exponent bits and the top fraction bit (R30). -/
def FFmt.canon (f : FFmt) : Nat := (2 ^ f.eb - 1) * 2 ^ f.fb + 2 ^ (f.fb - 1)

/-- Infinity of a format. -/
def FFmt.infBits (f : FFmt) (neg : Bool) : Nat :=
  (if neg then 2 ^ (f.eb + f.fb) else 0) + (2 ^ f.eb - 1) * 2 ^ f.fb

/-- The largest finite code of a format. -/
def FFmt.maxBits (f : FFmt) (neg : Bool) : Nat :=
  (if neg then 2 ^ (f.eb + f.fb) else 0) + (2 ^ f.eb - 1) * 2 ^ f.fb - 1

/-- Decoding FP32, FP16, BF16 and, without signalling NaNs, E5M2 (R30, R32). -/
def decodeIeee (f : FFmt) (sigs : Bool) (b : Nat) : FVal :=
  let neg := b.testBit (f.eb + f.fb)
  let ex := b / 2 ^ f.fb % 2 ^ f.eb
  let fr := b % 2 ^ f.fb
  if ex = 2 ^ f.eb - 1 then
    if fr = 0 then .inf neg else .nan (sigs && !fr.testBit (f.fb - 1))
  else if ex = 0 then .fin neg fr (1 - (f.bias : Int) - f.fb)
  else .fin neg (2 ^ f.fb + fr) ((ex : Int) - f.bias - f.fb)

/-- Decoding E4M3: S.1111.111 is NaN and every other code is finite (R30). -/
def decodeE4M3 (b : Nat) : FVal :=
  let neg := b.testBit 7
  let ex := b / 8 % 16
  let fr := b % 8
  if ex = 15 && fr = 7 then .nan false
  else if ex = 0 then .fin neg fr (-9)
  else .fin neg (8 + fr) ((ex : Int) - 10)

/-- The length of the run of bits equal to `b` from bit `i` of `fld` downward, over `fuel` bits (R41). -/
def tapRun (fld : Nat) (b : Bool) : Nat → Nat
  | 0 => 0
  | fuel + 1 => if fld.testBit fuel = b then 1 + tapRun fld b fuel else 0

/-- The magnitude of a non-zero TAP field of n-1 bits as m * 2^e (R41). -/
def tapMag (fld n : Nat) : Nat × Int :=
  let b := fld.testBit (n - 2)
  let m := tapRun fld b (n - 1)
  let k : Int := if b then (m : Int) - 1 else - (m : Int)
  let i1 := n - 1 - m            -- bits left after the run
  let i2 := i1 - 1               -- the terminating bit skipped
  let e : Nat := if i2 > 0 then (if fld.testBit (i2 - 1) then 1 else 0) else 0
  let w := i2 - 1
  (2 ^ w + fld % 2 ^ w, 2 * k + e - w)

/-- tap_decode (R41). -/
def decodeTap (n code : Nat) : FVal :=
  let s := code.testBit (n - 1)
  let fld := code % 2 ^ (n - 1)
  if fld = 0 then (if s then .nan false else .fin false 0 0)
  else let (m, e) := tapMag fld n; .fin s m e

/-- The E8M0 scale code c: 2^(c-127), or NaN for 0xFF (R39). -/
def decodeE8M0 (c : Nat) : FVal := if c = 255 then .nan false else .fin false 1 ((c : Int) - 127)

/-- The order of m1 * 2^e1 and m2 * 2^e2. -/
def cmpMag (m1 : Nat) (e1 : Int) (m2 : Nat) (e2 : Int) : Ordering :=
  if e1 ≤ e2 then compare m1 (m2 * 2 ^ (e2 - e1).toNat)
  else compare (m1 * 2 ^ (e1 - e2).toNat) m2

/-- The significand m * 2^-sh rounded in a mode, and whether it was inexact (R34). -/
def roundSig (mode : Rnd) (neg : Bool) (m : Nat) (sh : Int) : Nat × Bool :=
  if sh ≤ 0 then (m * 2 ^ (-sh).toNat, false)
  else
    let k := sh.toNat
    let q := m / 2 ^ k
    let r := m % 2 ^ k
    let half := 2 ^ (k - 1)
    let up : Bool :=
      match mode with
      | .rne => r > half || (r == half && q % 2 == 1)
      | .rna => r ≥ half
      | .rtz => false
      | .rtp => r != 0 && !neg
      | .rtn => r != 0 && neg
    (if up then q + 1 else q, r != 0)

/-- One rounding of (-1)^neg * m * 2^e, m not zero, to a format with infinities: bits and flags (R34, R35). Tininess is
detected after rounding. -/
def roundPack (f : FFmt) (mode : Rnd) (neg : Bool) (m : Nat) (e : Int) : Nat × FFlags :=
  let p : Int := f.fb + 1
  let emin : Int := 1 - f.bias
  let top : Int := e + Nat.log2 m
  let q : Int := max (top - p + 1) (emin - p + 1)
  let (sig, inx) := roundSig mode neg m (q - e)
  let (sigU, _) := roundSig mode neg m (top - p + 1 - e)
  let tiny : Bool := top < emin && !(top + 1 = emin && sigU = 2 ^ (f.fb + 1))
  let (sig, q) := if sig = 2 ^ (f.fb + 1) then (2 ^ f.fb, q + 1) else (sig, q)
  let sb := if neg then 2 ^ (f.eb + f.fb) else 0
  let fx : FFlags := (if inx then flINX else 0) ||| (if tiny && inx then flUNF else 0)
  if sig < 2 ^ f.fb then (sb + sig, fx)
  else
    let ex : Int := q + f.fb + f.bias
    if ex ≥ 2 ^ f.eb - 1 then
      let toInf : Bool :=
        match mode with
        | .rne => true
        | .rna => true
        | .rtz => false
        | .rtp => !neg
        | .rtn => neg
      (if toInf then f.infBits neg else f.maxBits neg, flOVF ||| flINX)
    else (sb + ex.toNat * 2 ^ f.fb + (sig - 2 ^ f.fb), fx)

/-- A value rounded once to a format (R32, R34); the flags of reading a NaN are the operation's. -/
def packVal (f : FFmt) (mode : Rnd) : FVal → Nat × FFlags
  | .nan _ => (f.canon, 0)
  | .inf neg => (f.infBits neg, 0)
  | .fin neg 0 _ => (if neg then 2 ^ (f.eb + f.fb) else 0, 0)
  | .fin neg m e => roundPack f mode neg m e

def FVal.isNan : FVal → Bool
  | .nan _ => true
  | _ => false

def FVal.isSig : FVal → Bool
  | .nan s => s
  | _ => false

def FVal.isInf : FVal → Bool
  | .inf _ => true
  | _ => false

def FVal.isZero : FVal → Bool
  | .fin _ 0 _ => true
  | _ => false

/-- The sign bit of a value; a NaN's is 0 (R163). -/
def FVal.sign : FVal → Bool
  | .nan _ => false
  | .inf n => n
  | .fin n _ _ => n

def FVal.neg : FVal → FVal
  | .nan s => .nan s
  | .inf n => .inf (!n)
  | .fin n m e => .fin (!n) m e

/-- The signed mantissa of a finite value. -/
def signedMant (neg : Bool) (m : Nat) : Int := if neg then - (m : Int) else (m : Int)

/-- IVO when a signalling NaN was read (R32). -/
def sigFlag (a : FVal) : FFlags := if a.isSig then flIVO else 0

/-- The exact sum; an exact zero of unlike signs is +0, or −0 toward −∞ (R36, IEEE 754 by R34). -/
def addVal (mode : Rnd) (a b : FVal) : FVal × FFlags :=
  match a, b with
  | .nan _, _ => (.nan false, sigFlag a ||| sigFlag b)
  | _, .nan _ => (.nan false, sigFlag b)
  | .inf x, .inf y => if x = y then (.inf x, 0) else (.nan false, flIVO)
  | .inf x, .fin _ _ _ => (.inf x, 0)
  | .fin _ _ _, .inf y => (.inf y, 0)
  | .fin n1 m1 e1, .fin n2 m2 e2 =>
    let e := min e1 e2
    let t : Int := signedMant n1 m1 * 2 ^ (e1 - e).toNat + signedMant n2 m2 * 2 ^ (e2 - e).toNat
    if t = 0 then
      let z := if m1 = 0 && m2 = 0 && n1 = n2 then n1 else decide (mode = .rtn)
      (.fin z 0 0, 0)
    else (.fin (decide (t < 0)) t.natAbs e, 0)

/-- The exact product (R36). -/
def mulVal (a b : FVal) : FVal × FFlags :=
  match a, b with
  | .nan _, _ => (.nan false, sigFlag a ||| sigFlag b)
  | _, .nan _ => (.nan false, sigFlag b)
  | .inf x, .inf y => (.inf (x != y), 0)
  | .inf x, .fin n m _ => if m = 0 then (.nan false, flIVO) else (.inf (x != n), 0)
  | .fin n m _, .inf y => if m = 0 then (.nan false, flIVO) else (.inf (n != y), 0)
  | .fin n1 m1 e1, .fin n2 m2 e2 => (.fin (n1 != n2) (m1 * m2) (e1 + e2), 0)

/-- The fused a × b + d, exact (R36, R162). A signalling addend is read as well. -/
def fmaVal (mode : Rnd) (a b d : FVal) : FVal × FFlags :=
  let (p, f1) := mulVal a b
  let (r, f2) := addVal mode p d
  (r, f1 ||| f2)

/-- A quotient with enough bits that one rounding of it is the rounding of the exact quotient: the lowest bit is sticky. -/
def divMant (m1 m2 : Nat) : Nat × Int :=
  let k := 64 + Nat.log2 m2
  let q := m1 * 2 ^ k / m2
  let r := m1 * 2 ^ k % m2
  (q * 2 + (if r = 0 then 0 else 1), - (k : Int) - 1)

/-- The quotient (R36); exact, or with a sticky lowest bit. -/
def divVal (a b : FVal) : FVal × FFlags :=
  match a, b with
  | .nan _, _ => (.nan false, sigFlag a ||| sigFlag b)
  | _, .nan _ => (.nan false, sigFlag b)
  | .inf _, .inf _ => (.nan false, flIVO)
  | .inf x, .fin n _ _ => (.inf (x != n), 0)
  | .fin n _ _, .inf y => (.fin (n != y) 0 0, 0)
  | .fin n1 m1 e1, .fin n2 m2 e2 =>
    if m2 = 0 then
      if m1 = 0 then (.nan false, flIVO) else (.inf (n1 != n2), flDBZ)
    else if m1 = 0 then (.fin (n1 != n2) 0 0, 0)
    else let (q, k) := divMant m1 m2; (.fin (n1 != n2) q (e1 - e2 + k), 0)

/-- The integer square root by bits, from bit `fuel` - 1 down. -/
def isqrtGo (n : Nat) : Nat → Nat → Nat
  | 0, r => r
  | fuel + 1, r =>
    let c := r + 2 ^ fuel
    if c * c ≤ n then isqrtGo n fuel c else isqrtGo n fuel r

def isqrt (n : Nat) : Nat := isqrtGo n (Nat.log2 n / 2 + 1) 0

/-- The square root (R36); exact, or with a sticky lowest bit. -/
def sqrtVal (a : FVal) : FVal × FFlags :=
  match a with
  | .nan _ => (.nan false, sigFlag a)
  | .inf false => (.inf false, 0)
  | .inf true => (.nan false, flIVO)
  | .fin n m e =>
    if m = 0 then (.fin n 0 0, 0)
    else if n then (.nan false, flIVO)
    else
      let (m, e) := if e % 2 = 0 then (m, e) else (m * 2, e - 1)
      let v := m * 2 ^ 128
      let r := isqrt v
      (.fin false (r * 2 + (if r * r = v then 0 else 1)) (e / 2 - 65), 0)

/-- ln 2 × 2^320, truncated: the constant of the 2^x series. -/
def ln2Fix : Nat := 1480553391661173448385607439722553250922680800745876974795605978609098082859138712941075737848984

/-- 2^320 × the exponential series in y / 2^320, `k` terms from term number `j` on, each truncated. -/
def expSeries (y : Nat) : Nat → Nat → Nat → Nat → Nat
  | 0, _, _, acc => acc
  | k + 1, j, t, acc => let t' := t * y / 2 ^ 320 / j; expSeries y k (j + 1) t' (acc + t')

/-- 2^(fr / 2^w) × 2^320 for fr < 2^w, below the exact value by less than 2^9. -/
def exp2Frac (fr w : Nat) : Nat :=
  let y := fr * ln2Fix / 2 ^ w
  expSeries y 80 1 (2 ^ 320) (2 ^ 320)

/-- 2^x before its one rounding (R36). The series is exact to 2^-311, far below the distance of any 2^x, x of the three
float formats and not an integer, from a rounding boundary; the lowest bit is sticky. -/
def exp2Val (a : FVal) : FVal × FFlags :=
  match a with
  | .nan _ => (.nan false, sigFlag a)
  | .inf false => (.inf false, 0)
  | .inf true => (.fin false 0 0, 0)
  | .fin n m e =>
    if m = 0 then (.fin false 1 0, 0)
    else if e + Nat.log2 m > 12 then (.fin false 3 (if n then -1000 else 1000), 0)
    else if e ≥ 0 then
      let i : Int := (m * 2 ^ e.toNat : Nat)
      (.fin false 1 (if n then -i else i), 0)
    else
      let w := (-e).toNat
      let t : Int := signedMant n m
      let i := t / 2 ^ w
      let fr := (t % 2 ^ w).toNat
      if fr = 0 then (.fin false 1 i, 0)
      else (.fin false ((exp2Frac fr w + 2 ^ 8) / 2 ^ 10 * 2 + 1) (i - 311), 0)

/-- Order of two values that are not NaN; −0 equals +0 (R161). -/
def cmpVal (a b : FVal) : Ordering :=
  match a, b with
  | .inf x, .inf y => if x = y then .eq else if x then .lt else .gt
  | .inf x, _ => if x then .lt else .gt
  | _, .inf y => if y then .gt else .lt
  | .fin n1 m1 e1, .fin n2 m2 e2 =>
    if m1 = 0 && m2 = 0 then .eq
    else if m1 = 0 then (if n2 then .gt else .lt)
    else if m2 = 0 then (if n1 then .lt else .gt)
    else if n1 != n2 then (if n1 then .lt else .gt)
    else if n1 then cmpMag m2 e2 m1 e1 else cmpMag m1 e1 m2 e2
  | _, _ => .eq

/-- Minimum or maximum of R37, choosing bits: −0 below +0, a single NaN gives the other operand. -/
def minMaxBits (f : FFmt) (isMax : Bool) (a b : Nat) : Nat × FFlags :=
  let va := decodeIeee f true a
  let vb := decodeIeee f true b
  let fl := sigFlag va ||| sigFlag vb
  if va.isNan && vb.isNan then (f.canon, fl)
  else if va.isNan then (b, fl)
  else if vb.isNan then (a, fl)
  else
    let aLess : Bool :=
      match cmpVal va vb with
      | .lt => true
      | .gt => false
      | .eq => va.sign && !vb.sign
    (if aLess != isMax then a else b, fl)

/-- The narrow formats of vtype.NF (R30, R149). -/
inductive NFmt where
  | e4m3 | e5m2 | tap8 | tap6
  deriving DecidableEq, Repr

def nfOf (nf : Nat) : NFmt :=
  match nf with
  | 0 => .e4m3
  | 1 => .e5m2
  | 2 => .tap8
  | _ => .tap6

/-- The width of a narrow code. -/
def NFmt.width : NFmt → Nat
  | .tap6 => 6
  | _ => 8

/-- narrow_decode (R40, R41, R44). -/
def decodeNarrow (f : NFmt) (b : Nat) : FVal :=
  match f with
  | .e4m3 => decodeE4M3 b
  | .e5m2 => decodeIeee Machine.e5m2 false b
  | .tap8 => decodeTap 8 b
  | .tap6 => decodeTap 6 b

/-- The NaN code of a narrow format (R30, R41). -/
def NFmt.nanCode : NFmt → Nat
  | .e4m3 => 0x7F
  | .e5m2 => 0x7E
  | .tap8 => 0x80
  | .tap6 => 0x20

/-- The largest finite value of a narrow format as m × 2^e (R40). -/
def NFmt.maxMag : NFmt → Nat × Int
  | .e4m3 => (448, 0)
  | .e5m2 => (57344, 0)
  | .tap8 => (4096, 0)
  | .tap6 => (256, 0)

/-- The largest field whose magnitude is at most m × 2^e (R45); field 0 stands for +0. -/
def tapFloor (n m : Nat) (e : Int) : Nat :=
  (List.range (2 ^ (n - 1))).foldl
    (fun acc fld => if fld = 0 then acc else
      let (m2, e2) := tapMag fld n
      if cmpMag m2 e2 m e != .gt then fld else acc) 0

/-- tap_encode with the flags of R47 (R45). -/
def encodeTap (n : Nat) (v : FVal) : Nat × FFlags :=
  match v with
  | .nan s => (2 ^ (n - 1), if s then flIVO else 0)
  | .inf neg => ((if neg then 2 ^ (n - 1) else 0) + (2 ^ (n - 1) - 1), flOVF ||| flINX)
  | .fin neg m e =>
    if m = 0 then (0, 0)
    else
      let top := 2 ^ (n - 1) - 1
      let (mt, et) := tapMag top n
      let c := cmpMag m e mt et
      if c != .lt then
        ((if neg then 2 ^ (n - 1) else 0) + top, if c = .gt then flOVF ||| flINX else 0)
      else
        let lo := tapFloor n m e
        let (ml, el) := if lo = 0 then (0, 0) else tapMag lo n
        let (mh, eh) := tapMag (lo + 1) n
        let q := min el eh
        let mid := ml * 2 ^ (el - q).toNat + mh * 2 ^ (eh - q).toNat    -- twice the midpoint, × 2^-q
        let exact := lo != 0 && cmpMag m e ml el = .eq
        let fld :=
          match cmpMag m (e + 1) mid q with
          | .lt => lo
          | .gt => lo + 1
          | .eq => if lo % 2 = 0 then lo else lo + 1
        if fld = 0 then (0, flUNF ||| flINX)
        else ((if neg then 2 ^ (n - 1) else 0) + fld, if exact then 0 else flINX)

/-- Encoding into E4M3 or E5M2 with the flags of R47 (R46): RNE at the target's precision, then saturation. -/
def encodeSmall (isE4 : Bool) (v : FVal) : Nat × FFlags :=
  let fb : Nat := if isE4 then 3 else 2
  let emin : Int := if isE4 then -6 else -14
  let bias : Int := if isE4 then 7 else 15
  let maxB : Nat := if isE4 then 0x7E else 0x7B
  let sb (neg : Bool) : Nat := if neg then 0x80 else 0
  match v with
  | .nan s => (if isE4 then 0x7F else 0x7E, if s then flIVO else 0)
  | .inf neg => if isE4 then (sb neg + maxB, flOVF ||| flINX) else (sb neg + 0x7C, 0)
  | .fin neg m e =>
    if m = 0 then (sb neg, 0)
    else
      let top : Int := e + Nat.log2 m
      let q : Int := max (top - fb) (emin - fb)
      let (sig, inx) := roundSig .rne neg m (q - e)
      let (sig, q) := if sig = 2 ^ (fb + 1) then (2 ^ fb, q + 1) else (sig, q)
      if sig = 0 then (sb neg, flUNF ||| flINX)
      else if sig < 2 ^ fb then (sb neg + sig, if inx then flINX else 0)
      else
        let ex : Int := q + fb + bias
        let code : Int := ex * 2 ^ fb + (sig : Int) - 2 ^ fb
        if code > maxB then (sb neg + maxB, flOVF ||| flINX)
        else (sb neg + code.toNat, if inx then flINX else 0)

/-- narrow_encode with flags (R40, R45 to R47). -/
def encodeNarrow (f : NFmt) (v : FVal) : Nat × FFlags :=
  match f with
  | .e4m3 => encodeSmall true v
  | .e5m2 => encodeSmall false v
  | .tap8 => encodeTap 8 v
  | .tap6 => encodeTap 6 v

/-- A value times 2^k. -/
def FVal.scale : FVal → Int → FVal
  | .fin n m e, k => .fin n m (e + k)
  | v, _ => v

/-- block_scale (R40). -/
def blockScale (vals : List FVal) (f : NFmt) : Nat :=
  if vals.any FVal.isNan then 0xFF
  else if vals.any FVal.isInf then 254
  else
    let big := vals.foldl (fun (acc : Nat × Int) v =>
      match v with
      | .fin _ m e => if cmpMag m e acc.1 acc.2 = .gt then (m, e) else acc
      | _ => acc) (0, 0)
    if big.1 = 0 then 127
    else
      let (mm, me) := f.maxMag
      match (List.range 255).find? (fun (c : Nat) => cmpMag big.1 big.2 mm (me + (c : Int) - 127) != .gt) with
      | some c => c
      | none => 254

/-- quantise with flags (R40, R47). -/
def quantiseVal (v : FVal) (c : Nat) (f : NFmt) : Nat × FFlags :=
  if c = 0xFF then (f.nanCode, sigFlag v)
  else encodeNarrow f (v.scale (127 - (c : Int)))

/-- dequantise with flags, RNE (R40). -/
def dequantiseVal (q c : Nat) (f : NFmt) (dst : FFmt) : Nat × FFlags :=
  if c = 0xFF then (dst.canon, 0)
  else packVal dst .rne ((decodeNarrow f q).scale ((c : Int) - 127))

/-- Float to a signed integer of s bits, by R38: bits and flags. -/
def toIntBits (mode : Rnd) (s : Nat) (v : FVal) : Nat × FFlags :=
  let hi : Int := 2 ^ (s - 1) - 1
  let lo : Int := - 2 ^ (s - 1)
  let enc (i : Int) : Nat := (i % 2 ^ s).toNat
  match v with
  | .nan _ => (enc hi, flIVO)
  | .inf n => (enc (if n then lo else hi), flIVO)
  | .fin n m e =>
    let (q, inx) := roundSig mode n m (-e)
    let i := signedMant n q
    if i > hi then (enc hi, flIVO)
    else if i < lo then (enc lo, flIVO)
    else (enc i, if inx then flINX else 0)

/-- The class code of R163. -/
def classCode (f : FFmt) (b : Nat) : Nat :=
  match decodeIeee f true b with
  | .nan s => if s then 5 else 4
  | .inf n => (if n then 8 else 0) + 3
  | .fin n m _ =>
    16 + (if n then 8 else 0) + (if m = 0 then 0 else if b / 2 ^ f.fb % 2 ^ f.eb = 0 then 1 else 2)

/-- The BF16 image of a stored TAP8 byte (R52). -/
def tolImage (c : Nat) : Nat := (packVal bf16 .rne (decodeTap 8 c)).1

/-- The TAP8 byte stored for a half-word written to a tolerant page (R52). -/
def tolStore (h : Nat) : Nat := (encodeTap 8 (decodeIeee bf16 true h)).1

end Sys2Proof.Machine
end

