-- ==== Sys2Proof/Machine/SMap.lean ====
section
/-! DEFINITION. Sparse data by a Nat key, in one canonical form: keys strictly rising, and no entry equal to what an
unlisted key reads as. -/

namespace Sys2Proof.Machine

/-- Sparse data: (key, value) pairs. -/
abbrev SMap (α : Type) := List (Nat × α)

/-- The value at a key; `d` is what an unlisted key reads as. -/
def SMap.get {α : Type} (d : α) : SMap α → Nat → α
  | [], _ => d
  | (k, v) :: r, i => if k = i then v else if i < k then d else SMap.get d r i

/-- The pairs with key `i` set to `v`; setting the value an unlisted key reads as removes the entry. -/
def SMap.set {α : Type} [DecidableEq α] (d : α) : SMap α → Nat → α → SMap α
  | [], i, v => if v = d then [] else [(i, v)]
  | (k, w) :: r, i, v =>
    if i < k then (if v = d then (k, w) :: r else (i, v) :: (k, w) :: r)
    else if k = i then (if v = d then r else (i, v) :: r)
    else (k, w) :: SMap.set d r i v

/-- The canonical form above a bound: keys at least `lo` and strictly rising, no value equal to `d`. -/
def SMap.wfFrom {α : Type} [DecidableEq α] (d : α) : Nat → SMap α → Bool
  | _, [] => true
  | lo, (k, v) :: r => decide (lo ≤ k) && decide (v ≠ d) && SMap.wfFrom d (k + 1) r

/-- The canonical form. -/
def SMap.wf {α : Type} [DecidableEq α] (d : α) (m : SMap α) : Bool := SMap.wfFrom d 0 m

/-- The values of `n` keys from `i` upward. -/
def SMap.getRange {α : Type} (d : α) (m : SMap α) (i n : Nat) : List α :=
  (List.range n).map fun j => SMap.get d m (i + j)

/-- Consecutive keys from `i` upward set to the values of a list. -/
def SMap.setRange {α : Type} [DecidableEq α] (d : α) (m : SMap α) (i : Nat) : List α → SMap α
  | [] => m
  | v :: r => SMap.setRange d (SMap.set d m i v) (i + 1) r

/-- The entries of a range of keys replaced by those that another map has there. -/
def SMap.splice {α : Type} (lo hi : Nat) (m part : SMap α) : SMap α :=
  m.filter (fun e => decide (e.1 < lo)) ++ (part.filter (fun e => decide (lo ≤ e.1) && decide (e.1 < hi)) ++ m.filter fun e => decide (lo ≤ e.1) && decide (hi ≤ e.1))
/-- The entries of `n` keys from `src` on, moved to `dst`. -/
def SMap.move {α : Type} (src n dst : Nat) (m : SMap α) : SMap α :=
  (m.filter fun e => decide (src ≤ e.1) && decide (e.1 < src + n)).map fun e => (dst + (e.1 - src), e.2)

/-- The bytes of a list as one little-endian number (R4). -/
def leValue : List Byte → Nat
  | [] => 0
  | b :: r => b.toNat + 256 * leValue r

/-- `n` little-endian bytes of a number (R4). -/
def leBytesOf : Nat → Nat → List Byte
  | 0, _ => []
  | n + 1, v => BitVec.ofNat 8 v :: leBytesOf n (v / 256)

/-- Bits [hi:lo] of a number (R3). -/
def bits (v hi lo : Nat) : Nat := v / 2 ^ lo % 2 ^ (hi + 1 - lo)

/-- A number with bits [lo+w-1:lo] replaced by the low w bits of `f`. -/
def putBits (v lo w f : Nat) : Nat :=
  v % 2 ^ lo + f % 2 ^ w * 2 ^ lo + v / 2 ^ (lo + w) * 2 ^ (lo + w)

/-- Field [lo+w-1:lo] of a bit vector. -/
def getField {n : Nat} (r : BitVec n) (lo w : Nat) : Nat := r.toNat / 2 ^ lo % 2 ^ w

/-- A bit vector with field [lo+w-1:lo] replaced. -/
def setField {n : Nat} (r : BitVec n) (lo w f : Nat) : BitVec n := BitVec.ofNat n (putBits r.toNat lo w f)

/-- The signed reading of the low s bits of a number (R28). -/
def toSigned (s v : Nat) : Int :=
  let u := v % 2 ^ s
  if u < 2 ^ (s - 1) then (u : Int) else (u : Int) - 2 ^ s

/-- An integer as s bits, wrapping (R29). -/
def ofSigned (s : Nat) (i : Int) : Nat := (i % 2 ^ s).toNat

/-- The low `w` bits of an immediate or a register sign-extended to 64 bits. -/
def sext64 {n : Nat} (v : BitVec n) : Word := v.signExtend 64

end Sys2Proof.Machine
end

