-- ==== Sys2Proof/Machine/State.lean ====
section
/-! DEFINITION. The state of the module as plain data, and the state after reset. -/

namespace Sys2Proof.Machine

/-- The paths of R212. -/
inductive Path where
  | A | E | C | X | S
  deriving DecidableEq, Repr

/-- Who made a write: a hart (its vector accesses apart, R134), an engine working on one command
of a hart (R205), or another agent. -/
inductive Writer where
  | hart (h : Nat) (vec : Bool)
  | engine (h : Nat) (p : Path) (cmd : Nat)
  | home
  | host
  | peer (dev : Nat)
  deriving DecidableEq, Repr

/-- A write whose place in the coherence order is fixed and that has not yet entered every view (R205, R206, R208).
`old` is what the bytes held before it; `scope` is the widest scope at which it is performed, 0 none, 1 core, 2 die,
3 module, 4 system. -/
structure WriteRec where
  id : Nat
  who : Writer
  pa : Nat
  old : List Byte
  scope : Nat
  views : List View
  deriving DecidableEq, Repr

/-- An outstanding load tag (R214): its place in issue order and the writes its reader's view must still hold (R207). -/
structure Tag where
  id : Nat
  issue : Nat
  needs : List Nat
  deriving DecidableEq, Repr

/-- A taint set: at most eight tags, or saturated at a point of the issue order (R215). -/
inductive Taint where
  | tags (l : List Nat)
  | sat (point : Nat)
  deriving DecidableEq, Repr

/-- Why a hart waits on another agent (R79, R80). -/
inductive StallWhy where
  | chute (q : Nat)
  | barrier
  | lease
  | homeHeld
  | cpwait
  | vafin
  | copySlots
  | engineFence
  | wfi
  | remote
  deriving DecidableEq, Repr

/-- An access of this module to a peer device or the host, and its answer (27_link R435 to R437, R439); `ticket` 0 is the
hart's own access, else the engine command's number; `lost` tells a failed link from a refusal by the device (R245); device 256 is a
home of this module that has applied a command it held (15_page R275). -/
structure RemoteReq where
  rid : Nat
  ticket : Nat
  dev : Nat
  body : FlitBody
  ans : Option (Bool × List Byte)
  lost : Bool
  deriving DecidableEq, Repr

/-- The instruction that a hart has begun and waits in: its encoding, the element it began at, the one load tag it has taken, and the one
further tag of its pops (10_memory_model R214, 07_vector_compute R156, 08_vector_data R173), and the pages that SQRET has released in it (21_queue
R362). MODEL field: it tells a wait inside an instruction from a new issue (log 103). -/
structure Run where
  ir : Word
  first : Nat
  tag : Option Nat
  pops : Option Nat
  pages : Nat
  deriving DecidableEq, Repr

/-- A page command that a home holds until the page leaves handed-over (15_page R275), in the order of arrival: the hart, the pool,
the command, its page and the partition of its hart. -/
structure PageWait where
  hart : Nat
  pool : Nat
  fn : Nat
  id : Nat
  part : Nat
  deriving DecidableEq, Repr

/-- Who translates: the context, its world and root, the mode, the core whose TLB serves, and whether the scratchpad
window is its own (R26). -/
structure Req where
  ctx : Nat
  world : Nat
  root : Nat
  sup : Bool
  core : Nat
  scratch : Bool
  deriving DecidableEq, Repr

/-- The course of a SCATR train (R221, R233). -/
inductive TrainSt where
  | unsent
  | sent
  | acked
  | failed (code : Nat)
  deriving DecidableEq, Repr

/-- A train of a SCATR: its device (256 the module itself), its lowest element, the elements with their list addresses,
and its course (R221, R233). -/
structure Train where
  dev : Nat
  low : Nat
  elems : List (Nat × Nat)
  st : TrainSt
  deriving DecidableEq, Repr

/-- A copy command outstanding (R227 to R240): its number and ticket, its operands, cpbar and translation as captured at
issue, its chute and token chute, the record it is attached to (device 256 the module itself), the units passed and the
unit it stops at, the destination bytes performed, bytes read but not yet delivered (of an entry or an element, of an address list or a
train), the source of the GATHR element under way, its code, and its trains. -/
structure CopyCmd where
  seq : Nat
  ticket : Nat
  fn : Nat
  a1 : Nat
  a2 : Nat
  p0 : Nat
  p1 : Nat
  rq : Req
  pc : Nat
  q : Option Nat
  cq : Option Nat
  attach : Option (Nat × Nat)
  done : Nat
  stopAt : Nat
  bytes : Nat
  part : List (Byte × Bool)
  elem : Option Nat
  code : Nat
  formed : Bool
  trains : List Train
  deriving DecidableEq, Repr

/-- The attention chain of an execute hart (16_attention R295): its state (0 empty, 1 scoring, 2 scored, 3 weighted,
4 accumulating), slot cursor, header entries, buffer of 64 slots of 16 FP32 values, m1, l1 and o1. -/
structure Chain where
  phase : Nat
  cursor : Nat
  hdr0 : Word
  hdr1 : Word
  buf : BitVec 32768
  m1 : Vector (BitVec 32) 16
  l1 : Vector (BitVec 32) 16
  o1 : Vector (BitVec 16384) 16
  deriving DecidableEq, Repr

/-- A hart (03_crews R57). x0 is held 0. sstatus holds its stored bits (TMRE, MBXE, PREG, PMODE, PIEN, IEN). -/
structure Hart where
  x : Vector Word 32
  pc : Word
  sup : Bool
  fcsr : Word
  vstart : BitVec 12
  vl : BitVec 12
  vtype : BitVec 11
  lanes : List Nat
  lgquota : BitVec 5
  vdirty : BitVec 32
  kdirty : BitVec 8
  vstate : BitVec 2
  attncfg : Word
  cpbar : Word
  sstatus : Word
  stvec : Word
  sepc : Word
  scause : Word
  stval : Word
  sscratch : Word
  sxlat : Word
  violog : Word
  cycleBase : Nat
  cycleKept : Nat
  instret : Word
  v : Vector (BitVec 16384) 32
  vpoison : Vector (BitVec 2048) 32
  k : Vector (BitVec 4096) 8
  taintX : Vector Taint 32
  taintV : Vector Taint 32
  taintK : Vector Taint 8
  taintVl : Taint
  taintP : Vector Taint 2
  taintA : Vector Taint 4
  tags : List Tag
  issued : Nat
  seen : List Nat
  chain : Chain
  copySeq : Nat
  copies : List CopyCmd
  doneWords : List (Nat × Word)
  keptFail : Option (Nat × Word)
  keptLast : Option (Nat × Word)
  ended : Bool
  left : Bool
  window : Bool
  stalled : Option StallWhy
  run : Option Run
  remote : List RemoteReq
  timecmp : Word
  bellMuted : Option Nat
  deriving DecidableEq, Repr

/-- Where a chute entry came from: a put, a completion token, a copy with its byte offset, or a Sluice delivery with its page
and entry index (R225, R236, R239). -/
inductive ChSrc where
  | put
  | token (ticket : Nat)
  | copy (ticket : Nat) (off : Nat)
  | sluice (sub j page idx : Nat)
  deriving DecidableEq, Repr

/-- A chute entry (R61, R144). -/
structure ChEntry where
  bits : Word
  poison : Bool
  src : ChSrc
  deriving DecidableEq, Repr

/-- A chute (R61, R177, R222 to R237): its kind, its entries oldest first, its head offset, the commands with a token entry
reserved, the data entries reserved, and the feeder that holds it. -/
structure Chute where
  copyFed : Bool
  entries : List ChEntry
  head : Nat
  tokens : List Nat
  resv : Nat
  feeder : Option ChSrc
  deriving DecidableEq, Repr

/-- A slot of a cursor: empty, or naming an object by its region's address and binding generation, with a match length; it is
void once that binding has ended (18_index R309, R310). -/
inductive Slot where
  | empty
  | attached (obj gen m : Nat)
  deriving DecidableEq, Repr

/-- A match cursor (18_index R309). `own` is the own index as (address, generation). -/
structure Cursor where
  own : Option (Nat × Nat)
  hlen : Nat
  window : List Nat
  slots : Vector Slot 4
  accN : Nat
  accT : Nat
  propT : Nat
  deriving DecidableEq, Repr

/-- An entry of the matrix queue (14_matrix R257, R258): its registers are read when the array executes it; the row count,
the block length, the operand of MCFG.SET and the point of the issue order (10_memory_model R215) are taken at issue. -/
inductive MxEntry where
  | set (v : Word)
  | swap
  | strm (va vsc : BitVec 5) (tile nr fmt bl pt : Nat)
  | drain (vd vb : BitVec 5) (tile nr fmt epi pt : Nat)
  | zero (tile : Nat)
  deriving DecidableEq, Repr

/-- The lease of a crew (14_matrix R253, R269): none, held, or a restore pending at the grant. -/
inductive Lease where
  | none
  | held
  | restore
  deriving DecidableEq, Repr

/-- What a crew is running (22_kernel R371, 23_group R379): the launch, its placement index, and the iteration. -/
structure Resident where
  ctx : Nat
  lid : Nat
  place : Nat
  iter : Nat
  deriving DecidableEq, Repr

/-- A crew (03_crews R57 to R62); `since` is the clock of its dispatch or resume, and `world` the world whose events its telemetry
counters hold (28_worlds R456). -/
structure Crew where
  resident : Option Resident
  launchid : Word
  groupid : Word
  spidx : Word
  tidx : Word
  msave : Word
  chutes : Vector Chute 16
  cursors : Vector Cursor 8
  lease : Lease
  leaseWait : Bool
  revoked : Bool
  mqueue : List MxEntry
  preempt : Bool
  preemptBy : Option (WaitItem × Nat)
  ending : Bool
  abandoned : Bool
  since : Nat
  world : Nat
  deriving DecidableEq, Repr

/-- A lane group of the lane allocation table (03_crews R64): its owner among the core's four execute harts. -/
structure LaneGroup where
  owner : Option Nat
  world : Nat
  deriving DecidableEq, Repr

/-- A plane of stationary weights: the two sections of R260 as streams (14_matrix R255, R256). -/
structure Plane where
  fmt : Nat
  weights : BitVec 393216
  scales : BitVec 12288
  poison : Bool
  deriving DecidableEq, Repr

/-- The matrix array of a core (14_matrix R255, R256): the planes, the tiles of 64 rows of 192 FP32 values, row poison, the
stream and drain cursors; `loadBad` says that the MLDS in progress took a poisoned entry. -/
structure MxArray where
  act : Plane
  shd : Plane
  tiles : Vector (BitVec 393216) 4
  rowPoison : Vector (BitVec 64) 4
  scur : Vector Nat 4
  dcur : Vector Nat 4
  loadBad : Bool
  deriving DecidableEq, Repr

/-- A cached leaf (20_context R340), tagged by context. -/
structure TlbEntry where
  ctx : Nat
  va : Nat
  size : Nat
  leaf : Nat
  deriving DecidableEq, Repr

/-- A cached table entry of a level (20_context R340). -/
structure WalkEntry where
  ctx : Nat
  level : Nat
  va : Nat
  entry : Nat
  deriving DecidableEq, Repr

/-- A core (01_module R15). -/
structure Core where
  lanes : Vector LaneGroup 16
  leaseQueue : List Nat
  array : MxArray
  tlb : List TlbEntry
  accessPtr : Nat
  executePtr : Nat
  copyPtr : Nat
  scratchOwner : Option Nat
  inService : Bool
  deriving DecidableEq, Repr

/-- Why a page is delivered to a subscription: in the main pass, to a late joiner, again after a miss, or the remainder of
a delivery that pre-emption cut (16_attention R289 to R292, R302). -/
inductive PairKind where
  | main | late | refetch | resume
  deriving DecidableEq, Repr

/-- A subscription and a logical page to be delivered to it: the physical page (pool descriptor, page ID), the first entry
still to be appended, and whether DELIV has counted the delivery already (R289, R302). -/
structure Pair where
  sub : Nat
  j : Nat
  pool : Nat
  page : Nat
  kind : PairKind
  start : Nat
  counted : Bool
  deriving DecidableEq, Repr

/-- A subscription of a query to a layer's pages (R287): the Sluice's number for it, its group, the crew's launch and
placement, the fields of its record, and whether it joined late (R292). -/
structure Sub where
  id : Nat
  gseq : Nat
  lid : Nat
  place : Nat
  hart : Nat
  rq : Req
  pc : Nat
  pool : Nat
  bt : Nat
  layer : Nat
  first : Nat
  count : Nat
  nkv : Nat
  kvb : Nat
  q : Nat
  pos : Nat
  mq : Nat
  late : Bool
  deriving DecidableEq, Repr

/-- A fetched page (R289, R291): the stage that holds it (none once reclaimed), the deliveries not begun, how many are not
complete, and the clock of the fetch. -/
structure Fetch where
  id : Nat
  stage : Option Nat
  pool : Nat
  page : Nat
  data : List Byte
  pairs : List Pair
  left : Nat
  clock : Nat
  deriving DecidableEq, Repr

/-- A delivery under way: its fetch, its pair, the next entry to be appended, and the number of its entries (R290). -/
structure Deliv where
  fetch : Nat
  pair : Pair
  pos : Nat
  last : Nat
  deriving DecidableEq, Repr

/-- A pass of a domain: its layer, the pages of the main pass in schedule order, the pairs to be fetched after them, and the
late joiners not yet served (R289, R291, R292). -/
structure Pass where
  layer : Nat
  todo : List (List Pair)
  extra : List Pair
  late : List Nat
  deriving DecidableEq, Repr

/-- A partial on its way to a query (R294, R299). -/
structure Partial where
  mq : Nat
  j : Nat
  hart : Nat
  m1 : List Nat
  l1 : List Nat
  o1 : List (List Nat)
  deriving DecidableEq, Repr

/-- The merge buffer of a group (R284, R286): its base, the frames of the 64 KiB pages it touches, its shape, the merge
slots that hold a partial and the pages merged as empty ahead of the frontier, both as (query, page). -/
structure MBind where
  base : Nat
  frames : List Nat
  nq : Nat
  slots : Nat
  hn : Nat
  d : Nat
  full : List (Nat × Nat)
  empty : List (Nat × Nat)
  deriving DecidableEq, Repr

/-- A group and its Sluice domain (R288, 23_group R381, R382). -/
structure Group where
  gseq : Nat
  die : Nat
  lid : Nat
  ctx : Nat
  bind : Option MBind
  serving : Option Nat
  collecting : Option Nat
  csubs : List Nat
  passes : List Pass
  inbox : List Partial
  deriving DecidableEq, Repr

/-- The states of a launch that is not retired (22_kernel R375). -/
inductive LaunchSt where
  | pending | ready | running | ending
  deriving DecidableEq, Repr

/-- What a launch waits for (R374): nothing, earlier launches, a barrier's phase at its place, or a dependence that failed
when the word was read. -/
inductive Dep where
  | now
  | launches (lids : List Nat)
  | phase (va : Nat) (pa : Nat) (p : Nat)
  | remote (dev pa : Nat) (p : Option Nat)
  | failed
  deriving DecidableEq, Repr

/-- A level of a loop table (R366): its kind and its trip count. -/
structure Level where
  kind : Nat
  trip : Nat
  deriving DecidableEq, Repr

/-- A launch (22_kernel R365 to R375, 21_queue R350): where it came from, its record, its descriptor once read, its
placements per die as (die, next, count), those ended normally, its final code, when it became ready and the clocks of
each die then, and whether its scratchpad bytes were zeroed on a core. -/
structure Launch where
  lid : Nat
  die : Nat
  queue : Nat
  seq : Nat
  ctx : Nat
  prio : Nat
  desc : Nat
  dep : Dep
  args : List Word
  statusVa : Nat
  st : LaunchSt
  aentry : Word
  eentry : Word
  qcfg : Nat
  lanes : Nat
  scratch : Nat
  levels : List Level
  places : List (Nat × Nat × Nat)
  done : Nat
  code : Nat
  cause : Nat
  crew : Nat
  readyAt : Nat
  readyClk : Vector Nat 8
  answer : Option (Bool × List Byte)
  deriving DecidableEq, Repr

/-- A bound user queue (21_queue R349, R353): its descriptor, whether it is mapped, whether a wake or the end of a launch of
it asks for a service step, the clock since which it has been empty, and the first launch number after it was bound. -/
structure UserQueue where
  die : Nat
  num : Nat
  ctx : Nat
  pa : Nat
  mapped : Bool
  due : Bool
  emptyAt : Nat
  born : Nat
  deriving DecidableEq, Repr

/-- A crew that has been switched out (24_traps R403, 23_group R383): what it was running, where it left, when, and what
hardware keeps for it beside the bytes of the save area: its identity, the trains of its copy commands, the feeders that hold its
chutes, and the origin and poison of the chute entries saved (log 34). -/
structure Parked where
  pid : Nat
  resident : Resident
  die : Nat
  core : Nat
  at' : Nat
  clk : Nat
  crew : Nat
  launchid : Word
  groupid : Word
  spidx : Word
  tidx : Word
  msave : Word
  revoked : Bool
  copies : List CopyCmd
  feeders : List (Nat × ChSrc)
  srcs : List (Nat × List (ChSrc × Bool))
  deriving DecidableEq, Repr

/-- A die (01_module R14). `hold` stops dispatch on it for a change of its partition or clock (R463). -/
structure Die where
  decode : Bool
  hold : Bool
  tlb : List TlbEntry
  walk : List WalkEntry
  clocks : Nat
  fetches : List Fetch
  delivs : List Deliv
  resume : List Pair
  turn : Nat
  nextFetch : Nat
  spareUsed : Bool
  spareRows : Nat
  deriving DecidableEq, Repr

/-- The kinds of memory that a home holds (R241, R271, R284, R306, R332). -/
inductive HeldKind where
  | barrier | pool | merge | index | contexts
  deriving DecidableEq, Repr

/-- A pool in service (15_page R271): its descriptor's place, its context and page count, and the frames its record table
was found in, one for each 64 KiB page that the table touches, with the table's offset in the first. -/
structure PoolRec where
  pa : Nat
  ctx : Nat
  npages : Nat
  recOff : Nat
  frames : List Nat
  deriving DecidableEq, Repr

/-- A bound index object (18_index R305, R306): the place of its region, its binding generation, the context that bound it,
and the frames of the 64 KiB pages that the region touches, with its offset in the first. -/
structure IxObj where
  pa : Nat
  gen : Nat
  ctx : Nat
  off : Nat
  frames : List Nat
  deriving DecidableEq, Repr

/-- A held range of physical memory and the context it is held for. -/
structure Held where
  kind : HeldKind
  pa : Nat
  len : Nat
  ctx : Nat
  aux : Nat
  deriving DecidableEq, Repr

/-- The key slot and records of a world (28_worlds R446, R455, R457; 27_link R445): `keyGen` numbers the keys in the slot, 0 none, the same
keys always by the same number (`keyRing`);
`tdi` is 0 CONFIG_UNLOCKED, 1 CONFIG_LOCKED, 2 RUN, 3 ERROR. -/
structure World where
  isOpen : Bool
  keyGen : Nat
  key : List Byte
  gen : Nat
  admitted : List Nat
  allow : SMap Bool
  mr : List Byte
  tdi : Nat
  deriving DecidableEq, Repr

/-- What a request at another device is, as to how its answer is used and whether it must drain: a read or write that something waits for, an
AMO, a posted write with its virtual address and pc, or a train (R221, R346, R437, R442). -/
inductive ReqKind where
  | access
  | amo
  | posted (va pc : Nat)
  | train
  deriving DecidableEq, Repr

/-- A request outstanding at another device: the hart it is for, the copy ticket (0 for the hart's own access), the device and
address, the port it left by (R436), whether it asks for a translation (R439), its context, the time of its first send (R435), the bytes that it
reaches as (address, length) (R436), and its kind. -/
structure OutReq where
  rid : Nat
  hart : Nat
  ticket : Nat
  dev : Nat
  pa : Nat
  port : Nat
  xlat : Bool
  ctx : Nat
  sent : Nat
  spans : List (Nat × Nat)
  kind : ReqKind
  deriving DecidableEq, Repr

/-- A train being received: its source and tag, the bytes reserved for it, and whether an element was refused (R434). -/
structure OpenTrain where
  src : Nat
  tag : Nat
  bytes : Nat
  bad : Bool
  deriving DecidableEq, Repr

/-- The states of a link port (R431). -/
inductive PortState where
  | down | training | up | degraded | failed | retired
  deriving DecidableEq, Repr

/-- A flit sent (R432): its sequence number, tag and destination, the module's own request that it belongs to, what it carries, and the
acknowledgement of the reverse direction that it carries along. -/
structure SentFlit where
  seq : Nat
  tag : Nat
  dst : Nat
  rid : Option Nat
  body : FlitBody
  ack : Option Nat
  nack : Option Nat
  deriving DecidableEq, Repr

/-- A link port (R431 to R435): its lanes in service, failed attempts at training, the next sequence number each way, the flits
sent and not acknowledged, the consecutive NACKs received, the failures of the flit awaited, the flits that it has NACKed as (class, sequence
number), the trains that it receives, the acknowledgement and the NACK that the next flit sent carries, and all that was sent, newest first
(MODEL outbox). -/
structure Port where
  st : PortState
  lanes : BitVec 4
  attempts : Nat
  txSeq : Nat
  rxSeq : Nat
  unacked : List SentFlit
  nacks : Nat
  fails : Nat
  held : List (Nat × Nat)
  trains : List OpenTrain
  ackDue : Option Nat
  nackDue : Option Nat
  out : List SentFlit
  deriving DecidableEq, Repr

/-- A window of the fabric admission table (R438). -/
structure Window where
  src : Nat
  base : Nat
  limit : Nat
  read : Bool
  write : Bool
  ctx : Nat
  deriving DecidableEq, Repr

/-- A translation of the address translation cache (R439): PASID, 4 KiB IOVA page, rights. -/
structure AtcEntry where
  pasid : Nat
  page : Nat
  read : Bool
  write : Bool
  deriving DecidableEq, Repr

/-- An ATS invalidation not yet completed: the requests issued under a translation that it dropped (R442). -/
structure Inval where
  id : Nat
  waits : List Nat
  deriving DecidableEq, Repr

/-- What was sent to the host (R439, R440, R442, R445): the request's number (0 a completion), the PASID, what it carries, its IDE stream and
its T bit. -/
structure HostMsg where
  num : Nat
  pasid : Nat
  body : FlitBody
  stream : Option Nat
  tbit : Bool
  deriving DecidableEq, Repr

/-- A selective IDE stream: its number, the world it carries, and its key (R444). -/
structure Stream where
  num : Nat
  world : Nat
  key : List Byte
  deriving DecidableEq, Repr

/-- A BAR2 page mapped: its physical range, context and rights (R440, R462). -/
structure Aperture where
  page : Nat
  ctx : Nat
  read : Bool
  write : Bool
  base : Nat
  len : Nat
  deriving DecidableEq, Repr

/-- A parity group of HBM channels (26_reliability R419, R420): the member retired, and the cursor of its rebuild. -/
structure Parity where
  retired : Option Nat
  cursor : Nat
  deriving DecidableEq, Repr

/-- What the machine does next, and the time that passes first: a hart issues its next instruction, or a step of the table
that has no encoding takes place. With `stop` above 0 a vector instruction that can stop on a fault is left at that element,
where what comes next finds it (R385, R397). MODEL field, not the spec's (log 1). -/
structure Act where
  ns : Nat
  what : Option Instr
  hart : Nat
  stop : Nat
  deriving DecidableEq, Repr

/-- Why a step stops the machine. -/
inductive Fault where
  /-- Raised by `step` once power has been removed (R426, R464): the spec gives the machine no step before the next reset.
  Safe: nothing is claimed of a machine without power. -/
  | powerOff
  deriving DecidableEq, Repr

/-- Why an instruction has no meaning. -/
inductive Refusal where
  /-- An arm of `exec` that has no meaning yet, by its mnemonic; raised by `exec` alone. Safe: nothing follows from it. -/
  | notModelled (mnemonic : String)
  deriving DecidableEq, Repr

/-- What a checkpoint holds and a restore brings back (26_reliability R427, R428): memory, the homes, the schedulers, the harts
and their crews, the dies, the worlds, and the maps of spares. -/
structure Module where
  mem : SMap Byte
  writes : List WriteRec
  nextWrite : Nat
  poison : SMap Bool
  held : List Held
  pools : List PoolRec
  pageWaits : List PageWait
  indexes : List IxObj
  ctxCmds : List (Nat × Nat)
  frameTag : SMap Nat
  frameMajor : SMap Nat
  lineVer : SMap Nat
  lineGen : SMap Nat
  groups : List Group
  nextGseq : Nat
  subs : List Sub
  nextSub : Nat
  launches : List Launch
  nextLid : Nat
  queues : List UserQueue
  parked : List Parked
  nextPid : Nat
  nextBind : Nat
  harts : Vector Hart 512
  crews : Vector Crew 256
  cores : Vector Core 64
  dies : Vector Die 8
  worlds : Vector World 16
  nextKey : Nat
  keyRing : List (Nat × List Byte)
  parity : Vector Parity 16
  chFails : List (Nat × Nat × Nat)
  bankRows : SMap Nat
  rowFails : List (Nat × Bool)
  deriving DecidableEq, Repr

/-- The state of the module. -/
structure State extends Module where
  image : Option Module
  ckptSeq : Nat
  ckptTime : Nat
  sliceLog : Nat
  mhz : Vector Nat 2
  clkset : Vector Nat 2
  pwrLimit : Nat
  power : Nat
  temps : Vector Nat 32
  overSince : Option Nat
  needService : Bool
  stopping : Bool
  dying : Bool
  off : Bool
  bootFailed : Bool
  mrBoot : Vector (List Byte) 4
  devnum : Nat
  requests : List OutReq
  nextReq : Nat
  ports : Vector Port 32
  admission : List Window
  atc : List AtcEntry
  invals : List Inval
  nextInval : Nat
  hostOut : List HostMsg
  streams : List Stream
  denied : BitVec 16
  apertures : List Aperture
  telemetry : SMap Nat
  doorbell : Bool
  bells : Nat
  mbxReq : List Byte
  mbxResp : List Byte
  mbxDone : Bool
  mbxErr : Bool
  doe : List Byte
  now : Nat
  freeCtr : Nat
  cur : Fin 512
  ir : Word
  agenda : List Act
  deriving DecidableEq, Repr

/-! ### Reset -/

/-- An attention chain that is empty (16_attention R295). -/
def Chain.empty : Chain := ⟨0, 0, 0, 0, 0, Vector.replicate 16 0, Vector.replicate 16 0, Vector.replicate 16 0⟩
/-- A cursor that is free (18_index R309). -/
def Cursor.free : Cursor := ⟨none, 0, [], Vector.replicate 4 .empty, 0, 0, 0⟩
/-- A chute with nothing in it. -/
def Chute.empty (copyFed : Bool) : Chute := ⟨copyFed, [], 0, [], 0, none⟩
/-- A plane of +0 weights in E4M3 with every scale 127 (14_matrix R253). -/
def Plane.zero : Plane := ⟨0, 0, BitVec.ofNat 12288 (leValue (List.replicate 1536 0x7F)), false⟩
/-- The array as it stands at a grant (14_matrix R253). -/
def MxArray.zero : MxArray :=
  ⟨Plane.zero, Plane.zero, Vector.replicate 4 0, Vector.replicate 4 0, Vector.replicate 4 0, Vector.replicate 4 0, false⟩

/-- A hart at reset: every CSR at the value its table gives; the registers the spec gives none for are 0 (log 4). No crew is
resident, so it issues nothing; its timer comparator is all ones (R465). -/
def Hart.reset : Hart :=
  { x := Vector.replicate 32 0, pc := 0, sup := false, fcsr := 0, vstart := 0, vl := 0, vtype := 0, lanes := [], lgquota := 4, vdirty := 0,
    kdirty := 0, vstate := 3, attncfg := 0, cpbar := 0, sstatus := 0, stvec := 0, sepc := 0, scause := 0, stval := 0, sscratch := 0,
    sxlat := 0, violog := 0, cycleBase := 0, cycleKept := 0, instret := 0, v := Vector.replicate 32 0, vpoison := Vector.replicate 32 0,
    k := Vector.replicate 8 0, taintX := Vector.replicate 32 (.tags []), taintV := Vector.replicate 32 (.tags []),
    taintK := Vector.replicate 8 (.tags []), taintVl := .tags [], taintP := Vector.replicate 2 (.tags []),
    taintA := Vector.replicate 4 (.tags []), tags := [], issued := 0, seen := [], chain := Chain.empty, copySeq := 0, copies := [],
    doneWords := [], keptFail := none, keptLast := none, ended := false, left := false, window := false, stalled := none, run := none, remote := [],
    timecmp := BitVec.allOnes 64, bellMuted := none }
/-- A crew at reset: none resident (03_crews R57). -/
def Crew.reset : Crew :=
  { resident := none, launchid := 0, groupid := 0, spidx := 0, tidx := 0, msave := 0, chutes := Vector.replicate 16 (Chute.empty false),
    cursors := Vector.replicate 8 Cursor.free, lease := .none, leaseWait := false, revoked := false, mqueue := [], preempt := false,
    preemptBy := none, ending := false, abandoned := false, since := 0, world := 0 }
/-- A core at reset: every lane group free and tagged with world 0 (28_worlds R448, R459), the issue pointers 3 (23_group R386). -/
def Core.reset : Core :=
  { lanes := Vector.replicate 16 ⟨none, 0⟩, leaseQueue := [], array := MxArray.zero, tlb := [], accessPtr := 3, executePtr := 3, copyPtr := 3,
    scratchOwner := none, inService := true }
/-- A die at reset: in the decode partition (29_bringup R459). -/
def Die.reset : Die :=
  { decode := true, hold := false, tlb := [], walk := [], clocks := 0, fetches := [], delivs := [], resume := [], turn := 0, nextFetch := 0,
    spareUsed := false, spareRows := 0 }
/-- A world at reset: world 0 is always open, the others closed (28_worlds R446). -/
def World.reset (isOpen : Bool) : World :=
  { isOpen := isOpen, keyGen := 0, key := [], gen := 0, admitted := [], allow := [], mr := List.replicate 32 0, tdi := 0 }
/-- A link port after boot has enabled it (29_bringup R459, 27_link R431). -/
def Port.reset : Port :=
  { st := .training, lanes := 0, attempts := 0, txSeq := 0, rxSeq := 0, unacked := [], nacks := 0, fails := 0, held := [], trains := [],
    ackDue := none, nackDue := none, out := [] }

/-- A measurement register extended (28_worlds R457). -/
def mrExtend (mr digest : List Byte) : List Byte := sha256 (mr ++ digest)
/-- MR.i after boot: zero extended with the digest of its stage (29_bringup R459). -/
def mrBoot (i : Nat) : List Byte := mrExtend (List.replicate 32 0) (leBytesOf 32 (Config.bootDigest i).toNat)

/-- Memory, harts, crews, cores, dies and worlds at reset: memory lists nothing but LOGN of the module error log, which firmware keeps at 12
(R429), and no crew is resident. -/
def Module.reset : Module :=
  { mem := [(Config.errLog + 16, 12)], writes := [], nextWrite := 0, poison := [], held := [⟨.contexts, Config.ctxTab, 0x80_0000, 0, 0⟩], pools := [], pageWaits := [], indexes := [],
    ctxCmds := [], frameTag := [], frameMajor := [], lineVer := [], lineGen := [], groups := [], nextGseq := 0, subs := [], nextSub := 0,
    launches := [], nextLid := 0, queues := [], parked := [], nextPid := 0, nextBind := 0, harts := Vector.replicate 512 Hart.reset,
    crews := Vector.replicate 256 Crew.reset, cores := Vector.replicate 64 Core.reset, dies := Vector.replicate 8 Die.reset,
    worlds := Vector.ofFn fun w => World.reset (w.val == 0), nextKey := 1, keyRing := [], parity := Vector.replicate 16 ⟨none, 0⟩, chFails := [],
    bankRows := [], rowFails := [] }

/-- The module right after reset: booted with no valid checkpoint (29_bringup R459). Every die is in the decode partition at
2.0 GHz, SLICE is 2^20, the power limit 3,400 W (the clock of the prefill partition, which no die is in, is the model's choice: log 4), the ports are enabled, and DONE is set with STATUS 0. -/
def State.reset : State :=
  { Module.reset with
    image := none, ckptSeq := 0, ckptTime := 0, sliceLog := 20, mhz := Vector.replicate 2 2000, clkset := Vector.replicate 2 2000,
    pwrLimit := 3400, power := 0, temps := Vector.replicate 32 0, overSince := none, needService := false, stopping := false, dying := false, off := false, bootFailed := false,
    mrBoot := Vector.ofFn fun i => Sys2Proof.Machine.mrBoot i.val, devnum := 255, requests := [], nextReq := 1,
    ports := Vector.replicate 32 Port.reset, admission := [], atc := [], invals := [], nextInval := 1, hostOut := [], streams := [],
    denied := 0, apertures := [], telemetry := [], doorbell := false, bells := 0, mbxReq := [], mbxResp := List.replicate 8 0, mbxDone := true,
    mbxErr := false, doe := [], now := 0, freeCtr := 0, cur := 0, ir := 0, agenda := [] }

end Sys2Proof.Machine
end

