-- ==== Sys2Proof/Machine/Mem.lean ====
section
/-! DEFINITION. Memory: the physical map, views and writes in flight, translation, and the logs (01_module R21 to R27,
10_memory_model R203 to R208, 20_context R336 to R346, 26_reliability R416, R417, R429, 28_worlds R448 to R453). -/

namespace Sys2Proof.Machine

/-! ### Parts of the state -/

/-- Hart `h` of a state. -/
def State.hartAt (s : State) (h : Nat) : Hart := s.harts[Fin.ofNat 512 h]
/-- A state with hart `h` changed by `f`. -/
def State.mapHart (s : State) (h : Nat) (f : Hart → Hart) : State :=
  { s with harts := s.harts.set (Fin.ofNat 512 h) (f s.harts[Fin.ofNat 512 h]) }
/-- Crew `n` of a state. -/
def State.crewAt (s : State) (n : Nat) : Crew := s.crews[Fin.ofNat 256 n]
def State.mapCrew (s : State) (n : Nat) (f : Crew → Crew) : State :=
  { s with crews := s.crews.set (Fin.ofNat 256 n) (f s.crews[Fin.ofNat 256 n]) }
/-- Core `c` of a state. -/
def State.coreAt (s : State) (c : Nat) : Core := s.cores[Fin.ofNat 64 c]
def State.mapCore (s : State) (c : Nat) (f : Core → Core) : State :=
  { s with cores := s.cores.set (Fin.ofNat 64 c) (f s.cores[Fin.ofNat 64 c]) }
/-- Die `d` of a state. -/
def State.dieAt (s : State) (d : Nat) : Die := s.dies[Fin.ofNat 8 d]
def State.mapDie (s : State) (d : Nat) (f : Die → Die) : State :=
  { s with dies := s.dies.set (Fin.ofNat 8 d) (f s.dies[Fin.ofNat 8 d]) }
/-- World `w` of a state. -/
def State.worldAt (s : State) (w : Nat) : World := s.worlds[Fin.ofNat 16 w]
def State.mapWorld (s : State) (w : Nat) (f : World → World) : State :=
  { s with worlds := s.worlds.set (Fin.ofNat 16 w) (f s.worlds[Fin.ofNat 16 w]) }

/-- The crew, the core and the die of a hart (R54). -/
def crewOf (h : Nat) : Nat := h / 2
def coreOf (h : Nat) : Nat := h / 8
def dieOf (h : Nat) : Nat := h / 64

/-- A draw of a free value: the counter's value, and the state with the counter advanced (log 2). -/
def State.draw (s : State) : Nat × State := (s.freeCtr, { s with freeCtr := s.freeCtr + 1 })

/-! ### Telemetry counters (28_worlds R456) -/

/-- A telemetry counter raised. -/
def State.count (s : State) (c n : Nat) : State :=
  { s with telemetry := SMap.set 0 s.telemetry c ((SMap.get 0 s.telemetry c + n) % 2 ^ 64) }
/-- The number of an item of a crew, of a die for a world, of a world, of a channel, of a link. -/
def crewItem (n i : Nat) : Nat := 1024 + 64 * n + i
def dieItem (d w i : Nat) : Nat := 17408 + 1024 * d + 64 * w + i
def worldItem (w i : Nat) : Nat := 25600 + 256 * w + i
def channelItem (ch i : Nat) : Nat := 29696 + 16 * ch + i
def linkItem (p i : Nat) : Nat := 33792 + 64 * p + i

/-! ### The physical map (R21) -/

def inHbm (pa : Nat) : Bool := pa < 0x5A_0000_0000
def inLp6 (pa : Nat) : Bool := 0x100_0000_0000 ≤ pa && pa < 0x19C_0000_0000
def inPool (pa : Nat) : Bool :=
  0x200_0000_0000 ≤ pa && pa < 0x204_0000_0000 && (pa - 0x200_0000_0000) % 0x8000_0000 < 0x7000_0000
def inScratch (pa : Nat) : Bool := 0x204_0000_0000 ≤ pa && pa < 0x204_8000_0000
/-- Memory that a translation entry or a table may name: HBM, the general LP6 range and backed pool SRAM (R24, R338). -/
def inMemory (pa : Nat) : Bool := inHbm pa || inLp6 pa || inPool pa
/-- The physical address of a byte of a core's scratchpad. -/
def scratchPa (core off : Nat) : Nat := 0x204_0000_0000 + core * 0x200_0000 + off
/-- The TIER that names the region of a frame (R338). -/
def tierOf (pa : Nat) : Option Nat :=
  if pa ≥ 2 ^ 51 then some 3 else if inHbm pa then some 0 else if inLp6 pa then some 1 else if inPool pa then some 2 else none

/-! ### Views and writes in flight (R204 to R208) -/

/-- The core from which a write travels, if a core made it. -/
def Writer.core : Writer → Option Nat
  | .hart h _ => some (coreOf h)
  | .engine h _ _ => some (coreOf h)
  | _ => none

/-- The least scope (1 core to 4 system) of a writer that contains a view (R204). -/
def scopeOfView (w : Writer) (v : View) : Nat :=
  match w.core, v with
  | some c, .core n => if c = n then 1 else if c / 8 = n / 8 then 2 else 3
  | some c, .die d => if c / 8 = d then 2 else 3
  | none, .core _ => 3
  | none, .die _ => 3
  | _, .host => 4
  | _, .peer _ => 4

/-- The scope number of a scope code; crew and core are reached together (R208). -/
def scopeNum (code : Nat) : Nat := if code ≤ 1 then 1 else if code = 2 then 2 else if code = 3 then 3 else 4

/-- A write is in a view: it entered it, or it is in every view (scope 5). -/
def WriteRec.inView (w : WriteRec) (v : View) : Bool := w.scope ≥ 5 || w.views.contains v

/-- The same path (R205, R206): a hart's own accesses, or one engine's for one command. -/
def samePath (a b : Writer) : Bool :=
  match a, b with
  | .hart h _, .hart g _ => h == g
  | .engine h p c, .engine g q d => h == g && p == q && c == d
  | _, _ => false

/-- The byte a reader finds at an address, from the newest write downward (R206). -/
def viewGo (v : View) (own : Writer) (pa : Nat) : List WriteRec → Byte → Byte
  | [], cur => cur
  | w :: r, cur =>
    if w.pa ≤ pa && pa < w.pa + w.old.length then
      if w.inView v || samePath w.who own then cur else viewGo v own pa r (w.old.getD (pa - w.pa) 0)
    else viewGo v own pa r cur

/-- The byte at an address at its home: the coherence-latest value (R205). -/
def State.homeByte (s : State) (pa : Nat) : Byte := SMap.get 0 s.mem pa
/-- `n` bytes at the home. -/
def State.homeBytes (s : State) (pa n : Nat) : List Byte := (List.range n).map fun j => s.homeByte (pa + j)
/-- A little-endian number of `n` bytes at the home. -/
def State.homeNat (s : State) (pa n : Nat) : Nat := leValue (s.homeBytes pa n)
/-- `n` bytes read through a view (R206); a scratchpad byte lies in one bank, which gives every reader the latest write that has arrived
(R203). -/
def State.viewBytes (s : State) (v : View) (own : Writer) (pa n : Nat) : List Byte :=
  (List.range n).map fun j => if inScratch (pa + j) then s.homeByte (pa + j) else viewGo v own (pa + j) s.writes (s.homeByte (pa + j))

/-- The writes of a path's range returned to a read that are not yet performed everywhere (R210). -/
def State.seenBy (s : State) (v : View) (own : Writer) (pa n : Nat) : List Nat :=
  (s.writes.filter fun w =>
    w.pa < pa + n && pa < w.pa + w.old.length && (inScratch pa || w.inView v || samePath w.who own)).map WriteRec.id

/-- The writes a read's view must still come to hold: those performed at a scope containing the reader (R207). -/
def State.needsOf (s : State) (v : View) : List Nat :=
  (s.writes.filter fun w => w.scope ≥ scopeOfView w.who v && !w.inView v && w.scope ≥ 1).map WriteRec.id

/-- Writes in every view leave the record from the oldest end (the list is newest first). -/
def dropDone : List WriteRec → List WriteRec
  | [] => []
  | w :: r =>
    match dropDone r with
    | [] => if w.scope ≥ 5 then [] else [w]
    | r' => w :: r'

/-- A write performed at a scope; at core scope it enters its core's view (R208). -/
def WriteRec.perform (w : WriteRec) (sc : Nat) : WriteRec :=
  if w.scope ≥ sc then w else
  { w with scope := sc,
           views := match w.who.core with
             | some c => if w.views.contains (.core c) then w.views else .core c :: w.views
             | none => w.views }

/-- A write entered in a view, performed at a scope that contains it (R206). -/
def WriteRec.enter (w : WriteRec) (v : View) : WriteRec :=
  let w := w.perform (scopeOfView w.who v)
  if w.views.contains v then w else { w with views := v :: w.views }

/-- The writes that satisfy `p` performed at a scope. -/
def State.performWhere (s : State) (p : WriteRec → Bool) (sc : Nat) : State :=
  { s with writes := s.writes.map fun w => if p w then w.perform sc else w }

/-- The writes with the given numbers entered in a view. -/
def State.enterAll (s : State) (ids : List Nat) (v : View) : State :=
  { s with writes := s.writes.map fun w => if ids.contains w.id then w.enter v else w }

/-! ### Lines: poison, tags, versions (R416, R448, R451) -/

def lineOf (pa : Nat) : Nat := pa / 64
def frameOf (pa : Nat) : Nat := pa / 0x1_0000

/-- The world tag of an address's frame (R448). -/
def State.tagOf (s : State) (pa : Nat) : Nat := SMap.get 0 s.frameTag (frameOf pa)
def State.poisoned (s : State) (pa : Nat) : Bool := SMap.get false s.poison (lineOf pa)
/-- A line of a protected frame that was not written under the world's keys fails its MAC (R453). -/
def State.macBad (s : State) (pa : Nat) : Bool :=
  let w := s.tagOf pa
  w != 0 && SMap.get 0 s.lineGen (lineOf pa) != (s.worldAt w).keyGen
/-- The lines that `n` bytes from an address lie in. -/
def linesOf (pa n : Nat) : List Nat :=
  if n = 0 then [] else (List.range (lineOf (pa + n - 1) - lineOf pa + 1)).map fun j => lineOf pa + j

/-- A frame of a protected world that takes no further write: `frameMajor` 2^48 stands for a MAJOR of 2^48 - 1 that a write would have carried
further (R451). -/
def State.frameShut (s : State) (pa : Nat) : Bool := s.tagOf pa != 0 && 2 ^ 48 ≤ SMap.get 0 s.frameMajor (frameOf pa)
/-- A write that the frame's MAJOR refuses: it would carry it past 2^48 - 1, or an earlier one would have (R451). -/
def State.majorSpent (s : State) (pa : Nat) : Bool :=
  s.frameShut pa || (s.tagOf pa != 0 && SMap.get 0 s.frameMajor (frameOf pa) = 2 ^ 48 - 1 && SMap.get 0 s.lineVer (lineOf pa) = 0xFFFF)

/-- Some line of a range takes no further write (R451). -/
def State.spentIn (s : State) (pa n : Nat) : Bool := (linesOf pa n).any fun l => s.majorSpent (l * 64)

/-- VER of a protected line raised, with the wrap into MAJOR and the frame re-encrypted; MAJOR never goes past 2^48 - 1 (R451). -/
def State.bumpVersion (s : State) (line : Nat) : State :=
  let pa := line * 64
  if s.tagOf pa = 0 || s.majorSpent pa then s
  else
    let v := SMap.get 0 s.lineVer line
    if v < 0xFFFF then { s with lineVer := SMap.set 0 s.lineVer line (v + 1) }
    else
      let f := frameOf pa
      ({ s with lineVer := s.lineVer.filter (fun e => frameOf (e.1 * 64) != f),
                frameMajor := SMap.set 0 s.frameMajor f (SMap.get 0 s.frameMajor f + 1) }).count (worldItem (s.tagOf pa) 6) 1

/-- The line's effects of a write of bytes pa to pa+n-1: a whole-line write clears poison and is made under the current
key; every write of a protected line raises its version (R417, R451, R453). -/
def State.lineWritten (s : State) (pa n line : Nat) : State :=
  let whole : Bool := pa ≤ line * 64 && line * 64 + 64 ≤ pa + n
  let s := s.bumpVersion line
  if whole then
    { s with poison := SMap.set false s.poison line false,
             lineGen := SMap.set 0 s.lineGen line
               (if s.tagOf (line * 64) = 0 then 0 else (s.worldAt (s.tagOf (line * 64))).keyGen) }
  else s

/-- A write at its home: it takes its place in the coherence order, and its record starts at a scope (R205, R208). -/
def State.writeBytes (s : State) (who : Writer) (pa : Nat) (bytes : List Byte) (scope : Nat) : State :=
  let old := s.homeBytes pa bytes.length
  let s := (linesOf pa bytes.length).foldl (fun s l => s.lineWritten pa bytes.length l) s
  let w : WriteRec := WriteRec.perform ⟨s.nextWrite, who, pa, old, 0, []⟩ scope
  { s with mem := SMap.setRange 0 s.mem pa bytes, writes := w :: s.writes, nextWrite := s.nextWrite + 1 }

/-- What an older write leaves to a view that has not taken it, once a home has written some of its bytes in every view. -/
def WriteRec.patch (w : WriteRec) (pa : Nat) (bytes : List Byte) : WriteRec :=
  { w with old := w.old.zipIdx.map fun e => if pa ≤ w.pa + e.2 && w.pa + e.2 < pa + bytes.length then bytes.getD (w.pa + e.2 - pa) 0 else e.1 }
/-- A home's own write into what it holds, at once in every view, with its lines' effects: loads return snapshots of it, whatever older
writes their views still lack (R241, R332, R417, R451). -/
def State.homeWrite (s : State) (pa : Nat) (bytes : List Byte) : State :=
  let s := (linesOf pa bytes.length).foldl (fun s l => s.lineWritten pa bytes.length l) s
  { s with mem := SMap.setRange 0 s.mem pa bytes, writes := s.writes.map fun w => w.patch pa bytes }
def State.homePut (s : State) (pa n v : Nat) : State := s.homeWrite pa (leBytesOf n v)

/-! ### Context records (R332) -/

def ctxPa (ctx : Nat) : Nat := Config.ctxTab + 128 * ctx
/-- Field [hi:lo] of a context's record. -/
def State.ctxField (s : State) (ctx hi lo : Nat) : Nat := bits (s.homeNat (ctxPa ctx) 128) hi lo
def State.ctxPut (s : State) (ctx hi lo v : Nat) : State :=
  s.homePut (ctxPa ctx) 128 (putBits (s.homeNat (ctxPa ctx) 128) lo (hi + 1 - lo) v)
def State.ctxState (s : State) (ctx : Nat) : Nat := s.ctxField ctx 2 0
def State.ctxWorld (s : State) (ctx : Nat) : Nat := s.ctxField ctx 11 8
def State.ctxRoot (s : State) (ctx : Nat) : Nat := s.ctxField ctx 103 64
def State.ctxLog (s : State) (ctx : Nat) : Nat := s.ctxField ctx 191 128
/-- A context whose teardown has dropped its translations: none is made through its tables any more (R334, R335). -/
def State.ctxDead (s : State) (ctx : Nat) : Bool := ctx ≠ 0 && (s.ctxState ctx = 0 || s.ctxState ctx = 5 || s.ctxState ctx = 6)

/-! ### Translation (R337 to R340) -/

/-- What an access does, as to permission (R339). -/
inductive Acc where
  | read | write | fetch
  deriving DecidableEq, Repr

/-- Where an access goes: a byte of this module's memory, a chute window, or another device; on a tolerant page with the place of the
byte in its image, even or odd (R52). -/
inductive Loc where
  | local (pa : Nat)
  | tolerant (pa : Nat) (odd : Bool)
  | chute (q : Nat)
  | remote (dev pa : Nat)
  | remoteTol (dev pa : Nat) (odd : Bool)
  deriving DecidableEq, Repr

/-- The index of a level, and the size a leaf of it maps (R337). -/
def walkIndex (va lvl : Nat) : Nat :=
  match lvl with
  | 4 => bits va 56 48
  | 3 => bits va 47 39
  | 2 => bits va 38 30
  | 1 => bits va 29 21
  | _ => bits va 20 16
def leafSize (lvl : Nat) : Nat := if lvl = 0 then 0x1_0000 else if lvl = 1 then 0x20_0000 else 0x4000_0000
/-- The span of addresses one entry of a level covers. -/
def levelSpan (lvl : Nat) : Nat :=
  match lvl with
  | 4 => 2 ^ 48
  | 3 => 2 ^ 39
  | 2 => 2 ^ 30
  | 1 => 2 ^ 21
  | _ => 2 ^ 16

def eV (e : Nat) : Bool := e.testBit 0
def eLeaf (e : Nat) : Bool := e.testBit 1
def eR (e : Nat) : Bool := e.testBit 2
def eW (e : Nat) : Bool := e.testBit 3
def eX (e : Nat) : Bool := e.testBit 4
def eU (e : Nat) : Bool := e.testBit 5
def eTol (e : Nat) : Bool := e.testBit 6
def ePa (e : Nat) : Nat := bits e 51 8 * 256
def eTier (e : Nat) : Nat := bits e 63 62

/-- The size of a leaf's frame (R338). -/
def leafBack (e lvl : Nat) : Nat := if eTol e then leafSize lvl / 2 else leafSize lvl
/-- invalid() of R338: the frame lies whole in the region that TIER names. -/
def entryInvalid (e lvl : Nat) : Bool :=
  e.testBit 7 || bits e 61 52 != 0 ||
  (if eLeaf e then
    lvl ≥ 3 || (eW e && !eR e) || (eTol e && eX e) || ePa e % leafBack e lvl != 0 ||
    tierOf (ePa e) != some (eTier e) || tierOf (ePa e + leafBack e lvl - 1) != some (eTier e)
  else
    lvl = 0 || bits e 6 2 != 0 || eTier e != 0 ||
    ePa e % (if lvl = 1 then 256 else 4096) != 0 || !inMemory (ePa e))

/-- A table entry that a walk for a world may not read: its frame is another world's, or its line fails its MAC: an error response (R448,
R450, log 122). -/
def State.walkBarred (s : State) (world pa : Nat) : Bool := s.tagOf pa != world || s.macBad pa

/-- The walk from an entry table downward: the leaf and its level with the table entries passed, or a code (R338). -/
def walkGo (s : State) (ctx world va : Nat) (cache : List WalkEntry) : Nat → Nat → List WalkEntry → Except Nat (Nat × Nat × List WalkEntry)
  | lvl, table, seen =>
    let base := va / levelSpan lvl * levelSpan lvl
    let place := table + 8 * walkIndex va lvl
    let hit := cache.find? fun w => w.ctx = ctx && w.level = lvl && w.va = base
    let e := match hit with
      | some w => w.entry
      | none => s.homeNat place 8
    if hit.isNone && s.walkBarred world place then .error 1
    else if !eV e then .error 2
    else if entryInvalid e lvl then .error 1
    else if eLeaf e then .ok (e, lvl, seen)
    else match lvl with
      | 0 => .error 1
      | l + 1 => walkGo s ctx world va cache l (ePa e) (⟨ctx, l + 1, base, e⟩ :: seen)

/-- The first entry that covers an address in a context. -/
def tlbFind (t : List TlbEntry) (ctx va : Nat) : Option TlbEntry :=
  t.find? fun e => e.ctx = ctx && e.va ≤ va && va < e.va + e.size

/-- A hart is inside an access at another device: the translations of its element stay pinned until the element completes, with the answers
that it has had (R78). -/
def Hart.pins (h : Hart) : Bool := !h.remote.all fun r => r.ticket ≠ 0
/-- Some hart of a core pins translations of a context (R78). -/
def State.pinned (s : State) (ctx core : Nat) : Bool :=
  (List.range 8).any fun i => bits (s.hartAt (8 * core + i)).sxlat.toNat 63 48 = ctx && (s.hartAt (8 * core + i)).pins
/-- Some hart of a die pins translations of a context. -/
def State.pinnedDie (s : State) (ctx die : Nat) : Bool := (List.range 8).any fun i => s.pinned ctx (8 * (die % 8) + i)
/-- An entry put into a structure of `cap` entries: a full one loses the oldest that is not pinned, and takes none where all are (R78, R340). -/
def cacheIn {α : Type} (cap : Nat) (pin : α → Bool) (l : List α) (e : α) : List α :=
  if l.length < cap then e :: l
  else match (l.reverse.findIdx? fun x => !pin x) with
    | some i => e :: l.eraseIdx (l.length - 1 - i)
    | none => l

/-- The leaf for a virtual address, filling the TLBs and the walk cache (R340). A full structure loses its oldest entry that no hart pins. -/
def State.leafFor (s : State) (rq : Req) (va : Nat) : State × Except Nat TlbEntry :=
  let fill (s : State) (e : TlbEntry) : State :=
    s.mapCore rq.core fun c => { c with tlb := cacheIn 256 (fun x => s.pinned x.ctx rq.core) c.tlb e }
  match tlbFind (s.coreAt rq.core).tlb rq.ctx va with
  | some e => (s, .ok e)
  | none =>
    let d := rq.core / 8
    match tlbFind (s.dieAt d).tlb rq.ctx va with
    | some e => (fill s e, .ok e)
    | none =>
      let va57 := va % 2 ^ 57
      if !inMemory (rq.root * 4096) then (s, .error 1)
      else match walkGo s rq.ctx rq.world va57 (s.dieAt d).walk 4 (rq.root * 4096) [] with
      | .error c => (s, .error c)
      | .ok (leaf, lvl, seen) =>
        let e : TlbEntry := ⟨rq.ctx, va / leafSize lvl * leafSize lvl, leafSize lvl, leaf⟩
        let fresh := seen.filter fun w => !(s.dieAt d).walk.contains w
        let s := s.mapDie d fun x =>
          { x with tlb := cacheIn 16384 (fun y => s.pinnedDie y.ctx d) x.tlb e,
                   walk := fresh.reverse.foldl (cacheIn 1024 fun y => s.pinnedDie y.ctx d) x.walk }
        (fill s e, .ok e)

/-- The checks of R339: code 3 when one fails. -/
def permitted (leaf : Nat) (sup : Bool) (acc : Acc) : Bool :=
  match acc with
  | .read => eR leaf && (sup || eU leaf)
  | .write => eW leaf && (sup || eU leaf)
  | .fetch => eX leaf && (if sup then !eU leaf else eU leaf)

/-- A fabric address: served locally when it names this module, else at another device (R22). A peer is refused at once
while the module has no device number. -/
def State.fabricLoc (s : State) (pa : Nat) : Except Nat Loc :=
  let dev := bits pa 50 43
  let low := pa % 2 ^ 43
  if dev = s.devnum && dev != 255 then (if inMemory low then .ok (.local low) else .error 1)
  else if dev != 255 && s.devnum = 255 then .error 1
  else .ok (.remote dev low)

/-- The place of a byte under a leaf, on a tolerant page half as far in (R338). -/
def State.leafLoc (s : State) (e : TlbEntry) (va : Nat) : Except Nat Loc :=
  let off := va - e.va
  let pa := ePa e.leaf + (if eTol e.leaf then off / 2 else off)
  match (if ePa e.leaf ≥ 2 ^ 51 then s.fabricLoc pa else .ok (.local pa)) with
  | .ok (.local p) => .ok (if eTol e.leaf then .tolerant p (off % 2 = 1) else .local p)
  | .ok (.remote d p) => .ok (if eTol e.leaf then .remoteTol d p (off % 2 = 1) else .remote d p)
  | r => r

/-- Not a canonical address (R25). -/
def nonCanonical (va : Nat) : Bool := !(bits va 63 56 = 0 || bits va 63 56 = 0xFF)

/-- The place of a virtual address for an access, or the code 1, 2 or 3 (R25, R26, R337 to R339). -/
def State.locate (s : State) (rq : Req) (va : Nat) (acc : Acc) : State × Except Nat Loc :=
  if nonCanonical va then (s, .error 1)
  else if 0xF0_0000_0000_0000 ≤ va && va < 0x100_0000_0000_0000 then
    if va < 0xF0_0000_0200_0000 then
      if rq.scratch && acc != .fetch then (s, .ok (.local (scratchPa rq.core (va - 0xF0_0000_0000_0000)))) else (s, .error 1)
    else if 0xF0_0000_1000_0000 ≤ va && va < 0xF0_0000_1010_0000 then
      if acc = .write then (s, .ok (.chute ((va - 0xF0_0000_1000_0000) / 0x1_0000))) else (s, .error 1)
    else (s, .error 1)
  else if 0xFF00_0000_0000_0000 ≤ va && !rq.sup then (s, .error 1)
  else
    match s.leafFor rq va with
    | (s, .error c) => (s, .error c)
    | (s, .ok e) => if permitted e.leaf rq.sup acc then (s, s.leafLoc e va) else (s, .error 3)

/-! ### Checks at the home -/

/-- A read of local bytes is refused: another world's frame (R448). -/
def State.readRefused (s : State) (world pa n : Nat) : Bool := s.tagOf pa != world || s.tagOf (pa + n - 1) != world

/-- A store is refused: another world's frame, memory that a home holds, or a spent MAJOR (R448, R241, R271, R284, R306,
R332, R451). -/
def State.writeRefused (s : State) (world pa n : Nat) : Bool :=
  s.readRefused world pa n ||
  s.held.any (fun h => h.pa < pa + n && pa < h.pa + h.len) ||
  s.spentIn pa n

/-! ### The module error log (R429) -/

/-- The place of record `i` of the module error log. -/
def errRec (i : Nat) : Nat := Config.errLog + 64 + 32 * (i % 4096)
/-- An event appended to the module error log by R345, in the layout of R429, with ERRLOG set in the mailbox (R441); an identical
event on one line within one second is merged into the record that still stands, and an event on no line, ADDR 0, into none (log 102). -/
def State.logError (s : State) (kind unit loc ctx addr : Nat) : State :=
  let s := if kind = 15 then s.count (worldItem (s.ctxWorld ctx) 4) 1 else s
  let wr := s.homeNat Config.errLog 8
  let rd := s.homeNat (Config.errLog + 8) 8
  let key := addr * 2 ^ 128 + loc * 2 ^ 80 + unit * 2 ^ 72 + kind * 2 ^ 64 + ctx * 2 ^ 16
  let same (i : Nat) : Bool :=
    let r := s.homeNat (errRec i) 32
    r / 2 ^ 128 % 2 ^ 64 = addr && bits r 95 16 = bits key 95 16 && s.now < bits r 255 192 + 1000000000
  match (if addr = 0 then none else ((List.range (min (wr - rd) 4096)).map fun j => wr - 1 - j).find? same) with
  | some i => s.homePut (errRec i) 32 (let r := s.homeNat (errRec i) 32; putBits r 0 16 (bits r 15 0 + 1))
  | none =>
    if rd + 4096 ≤ wr then s.homePut (Config.errLog + 24) 8 (s.homeNat (Config.errLog + 24) 8 + 1)
    else
      let s := ({ s with mbxErr := true }).homePut Config.errLog 8 (wr + 1)
      s.homePut (errRec wr) 32
        (s.now * 2 ^ 192 + addr * 2 ^ 128 + (wr + 1) % 2 ^ 32 * 2 ^ 96 + loc * 2 ^ 80 + unit * 2 ^ 72 + kind * 2 ^ 64 + ctx * 2 ^ 16 + 1)

/-- The UNIT of an address in an error record (R429). -/
def unitOf (pa : Nat) : Nat :=
  if inHbm pa then 1 else if inPool pa then 3 else if inScratch pa then 4 else 2

/-- Group, row and position of an HBM address (R419). -/
def hbmPlace (pa : Nat) : Nat × Nat × Nat :=
  let u := pa / 256
  let w := u / 16
  ((u % 16) ^^^ (w % 16), w / 15, w % 15)
/-- The channel that holds an HBM address, in the layout in force (R419, R421). -/
def State.hbmChannel (s : State) (pa : Nat) : Nat :=
  let (g, row, p) := hbmPlace pa
  let x := s.parity[Fin.ofNat 16 g]
  match x.retired with
  | some m =>
    if row < x.cursor then 16 * (((List.range 16).filter fun i => i ≠ m).getD p 0) + g else 16 * ((row % 16 + 1 + p) % 16) + g
  | none => 16 * ((row % 16 + 1 + p) % 16) + g

/-- The die whose pool SRAM holds an address. -/
def poolDie (pa : Nat) : Nat := (pa - 0x200_0000_0000) / 0x8000_0000
/-- The bank of a scratchpad address, over all cores. -/
def bankOf (pa : Nat) : Nat :=
  let o := pa - 0x204_0000_0000
  o / 0x200_0000 * 64 + bits o 11 6
/-- The LOC of an address in an error record: its channel, pool die or scratchpad bank (R429). -/
def State.locOf (s : State) (pa : Nat) : Nat :=
  if inHbm pa then s.hbmChannel pa else if inPool pa then poolDie pa else if inScratch pa then bankOf pa else 0

/-- The module reports that it needs service (R422, R424, R451). -/
def State.wantService (s : State) (unit loc addr : Nat) : State := ({ s with needService := true }).logError 14 unit loc 0 addr

/-- A refused write of a world's own bytes, noted where it would have carried a frame's MAJOR past 2^48 - 1: service is needed, and the frame
takes no further write (R451). -/
def State.noteSpent (s : State) (world pa n : Nat) : State :=
  if s.readRefused world pa n then s
  else match (linesOf pa n).find? fun l => s.majorSpent (l * 64) && !s.frameShut (l * 64) with
    | none => s
    | some l =>
      let pa := l * 64
      ({ s with frameMajor := SMap.set 0 s.frameMajor (frameOf pa) (2 ^ 48) }).wantService (unitOf pa) (s.locOf pa) pa

/-- A home's own write, which a frame that takes no further write refuses as well (R451). -/
def State.homeTake (s : State) (pa n v : Nat) : State :=
  if s.spentIn pa n then s.noteSpent (s.tagOf pa) pa n else s.homePut pa n v

/-! ### The violation log (R342 to R345) -/

/-- An event for a violation log (R344). -/
structure VEvent where
  ctx : Nat
  kind : Nat
  path : Nat
  code : Nat
  crew : Nat
  ext : Bool
  pc : Nat
  addr : Nat
  deriving DecidableEq, Repr

/-- The request a log write is made with: the context's own translation, at die 0's structures (log 14). -/
def State.logReq (s : State) (ctx : Nat) : Req := ⟨ctx, s.ctxWorld ctx, s.ctxRoot ctx, true, 0, false⟩

/-- The place of a range that hardware writes for a context, when it is writable plain memory. -/
def State.hwPlace (s : State) (rq : Req) (va n : Nat) : State × Option Nat :=
  match s.locate rq va .write with
  | (s, .ok (.local pa)) => if s.writeRefused rq.world pa n then (s.noteSpent rq.world pa n, none) else (s, some pa)
  | (s, _) => (s, none)

/-- An event appended to its context's violation log, or to the module error log where it has none, it cannot be written, or its
context's tables are gone (R335, R345). -/
def State.logViolation (s : State) (e : VEvent) : State :=
  let log := s.ctxLog e.ctx
  let other (s : State) := s.logError 2 8 (e.crew / 4) e.ctx 0
  if e.ctx = 0 || log = 0 || s.ctxDead e.ctx then other s
  else
    match s.hwPlace (s.logReq e.ctx) log 64 with
    | (s, none) => other s
    | (s, some hp) =>
      let wr := s.homeNat hp 8
      let rd := s.homeNat (hp + 8) 8
      let n := 2 ^ bits (s.homeNat (hp + 16) 8) 3 0
      if rd + n ≤ wr then s.homePut (hp + 24) 8 ((s.homeNat (hp + 24) 8 + 1) % 2 ^ 64)
      else
        match s.hwPlace (s.logReq e.ctx) (log + 64 + 32 * (wr % n)) 32 with
        | (s, none) => other s
        | (s, some rp) =>
          let s := s.writeBytes .home hp (leBytesOf 8 ((wr + 1) % 2 ^ 64)) 3
          s.writeBytes .home rp (leBytesOf 32
            (s.now * 2 ^ 192 + e.pc * 2 ^ 128 + (wr + 1) % 2 ^ 32 * 2 ^ 96 + (if e.ext then 2 ^ 88 else 0) + e.crew * 2 ^ 80
              + e.code * 2 ^ 72 + e.kind * 2 ^ 68 + e.path * 2 ^ 64 + e.addr)) 3

end Sys2Proof.Machine
end

