-- ==== Sys2Proof/Machine/Home.lean ====
section
/-! DEFINITION. What homes do on a store: context records (20_context R332), pools coming into service (15_page R271), and
ranges that a home holds. -/

namespace Sys2Proof.Machine

/-! ### Pools (R270 to R274) -/

/-- The fields of a pool descriptor, from its 64 bytes as a number (R270). -/
def pdBase (d : Nat) : Nat := bits d 63 0
def pdRecs (d : Nat) : Nat := bits d 127 64
def pdPages (d : Nat) : Nat := bits d 151 128
def pdCtx (d : Nat) : Nat := bits d 175 160
def pdKScale (d : Nat) : Nat := bits d 183 176
def pdVScale (d : Nat) : Nat := bits d 191 184
def pdHeads (d : Nat) : Nat := bits d 199 192
def pdHdim (d : Nat) : Nat := bits d 209 200
def pdFmt (d : Nat) : Nat := bits d 211 210
def pdValid (d : Nat) : Bool := d.testBit 212
def pdFreeHead (d : Nat) : Nat := bits d 279 256
def pdFreeCnt (d : Nat) : Nat := bits d 311 288
/-- The bytes of an element of a pool's format (R271). -/
def pdEsz (d : Nat) : Nat := if pdFmt d = 0 then 2 else 1
/-- PB (R272). -/
def pdPageBytes (d : Nat) : Nat := 128 * pdHeads d * pdHdim d * pdEsz d

/-- The fields that need no translation are in range and the reserved bits are zero (R270, R271). -/
def pdFieldsOk (d : Nat) : Bool :=
  bits d 511 320 = 0 && bits d 319 312 = 0 && bits d 287 280 = 0 && bits d 255 213 = 0 && bits d 159 152 = 0 &&
  pdFmt d != 3 && 16 ≤ pdHdim d && pdHdim d ≤ 512 && pdHdim d % 16 = 0 && 1 ≤ pdHeads d && pdHeads d ≤ 64 &&
  pdHeads d * pdHdim d * pdEsz d ≤ 8192 && 1 ≤ pdPages d && pdPages d ≤ 0xFF_FFFE &&
  (pdFmt d != 0 || (pdKScale d = 127 && pdVScale d = 127)) && pdBase d % 0x1_0000 = 0 && pdRecs d % 64 = 0 &&
  pdFreeCnt d ≤ pdPages d && (pdFreeHead d < pdPages d || pdFreeHead d = 0xFF_FFFF)

/-- The frames of a range of virtual pages, each readable and writable and in backed pool SRAM of a die (R271). -/
def State.recFrames (s : State) (rq : Req) (die : Nat) : Nat → Nat → List Nat → State × Option (List Nat)
  | 0, _, acc => (s, some acc)
  | n + 1, va, acc =>
    match s.locate rq va .read with
    | (s, .ok (.local pa)) =>
      match s.locate rq va .write with
      | (s, .ok _) => if inPool pa && poolDie pa = die && !s.readRefused rq.world pa 1 then State.recFrames s rq die n (va + 0x1_0000) (acc ++ [pa]) else (s, none)
      | (s, _) => (s, none)
    | (s, _) => (s, none)

/-- The held ranges of a record table of `n` bytes that starts at `off` in its first frame (R271). -/
def recHeld : List Nat → Nat → Nat → Nat → Nat → List Held
  | [], _, _, _, _ => []
  | f :: r, off, n, ctx, pd =>
    let len := min n (0x1_0000 - off)
    ⟨.pool, f + off, len, ctx, pd⟩ :: recHeld r 0 (n - len) ctx pd

/-- The home's check of a descriptor stored with VALID set: the pool comes into service, or VALID stays 0 (R271). -/
def State.validatePool (s : State) (pa : Nat) : State :=
  let d := s.homeNat pa 64
  let bad (s : State) : State := s.homePut (pa + 24) 8 (putBits (s.homeNat (pa + 24) 8) 20 1 0)
  if !pdValid d || s.pools.any (fun p => p.pa = pa) then s
  else if !pdFieldsOk d || s.ctxDead (pdCtx d) then bad s
  else
    let recs := pdRecs d
    let off := recs % 0x1_0000
    let n := (off + 8 * pdPages d + 0xFFFF) / 0x1_0000
    let ctx := pdCtx d
    match s.recFrames ⟨ctx, s.ctxWorld ctx, s.ctxRoot ctx, true, 8 * poolDie pa, false⟩ (poolDie pa) n (recs - off) [] with
    | (s, none) => bad s
    | (s, some fr) =>
      { s with pools := ⟨pa, ctx, pdPages d, off, fr⟩ :: s.pools,
               held := ⟨.pool, pa, 64, ctx, 0⟩ :: recHeld fr off (8 * pdPages d) ctx pa ++ s.held }

/-- The place of a page's record (R274). -/
def PoolRec.recPa (p : PoolRec) (id : Nat) : Nat :=
  let o := p.recOff + 8 * id
  p.frames.getD (o / 0x1_0000) 0 + o % 0x1_0000

/-- A line that step 2 of R271 prepared as a descriptor, with VALID set; one of no pages has every other field in range, which ordinary data
does not. -/
def pdPrepared (d : Nat) : Bool :=
  pdValid d && pdFreeHead d = 0 && pdFreeCnt d = pdPages d && (pdPages d != 0 || pdFieldsOk (putBits d 128 24 1))
/-- A store of the word that holds VALID. In a line that step 2 of R271 prepared, the home checks the descriptor; in another line the
spec does not say how a home knows a descriptor, so a free choice decides whether the store is one (log 15). -/
def State.poolHook (s : State) (pa n : Nat) : State :=
  let base := pa / 64 * 64
  if inPool pa && pa ≤ base + 24 && base + 32 ≤ pa + n then
    let d := s.homeNat base 64
    if pdPrepared d then s.validatePool base
    else if pdValid d then
      let c := s.draw
      if Config.freeBit c.1 then c.2.validatePool base else c.2
    else s
  else s

/-! ### Context records (R332) -/

/-- An address lies in the context table. -/
def inCtxTab (pa : Nat) : Bool := Config.ctxTab ≤ pa && pa < Config.ctxTab + 0x80_0000

/-- What an aligned 8-byte store of word `w` of a record leaves in it, or none when the home refuses it (R332). CMD is
kept aside: it is write-only. -/
def ctxStore (st w old v : Nat) : Option Nat :=
  match w with
  | 0 => some (if st = 0 then putBits (putBits old 6 2 (bits v 7 6)) 8 4 (bits v 11 8) else old)
  | 1 => if st = 0 then some (putBits old 0 40 v) else none
  | 2 => if st = 0 then some v else none
  | 3 => if st = 0 || st = 3 then some (v &&& 0xFFFF_FFFF_FFFF_FF1F) else none
  | 4 => if st = 0 then some old else none
  | 5 => if st = 0 then some v else none
  | _ => some old

/-- A store of some bytes of word `w` of record `ctx`; CMD is handed to the security controller, which applies the
commands of a record one at a time (R331, log 16). -/
def State.ctxWordStore (s : State) (ctx w lo n v : Nat) : Option State :=
  let wpa := ctxPa ctx + 8 * w
  let v := putBits (s.homeNat wpa 8) (8 * lo) (8 * n) v
  match ctxStore (s.ctxState ctx) w (s.homeNat wpa 8) v with
  | none => none
  | some nv =>
    let s := s.homePut wpa 8 nv
    if w = 0 && bits v 5 3 != 0 && ctx != 0 then some { s with ctxCmds := s.ctxCmds ++ [(ctx, bits v 5 3)] } else some s

/-- A store at an offset in the context table, taken word by word in ascending order; the first argument bounds the words (R332). -/
def State.ctxTabStore : Nat → State → Nat → List Byte → Option State
  | 0, s, _, _ => some s
  | k + 1, s, o, bytes =>
    if bytes.isEmpty then some s
    else
      let n := min bytes.length (8 - o % 8)
      match s.ctxWordStore (o / 128) (o % 128 / 8) (o % 8) n (leValue (bytes.take n)) with
      | none => none
      | some s => State.ctxTabStore k s (o + n) (bytes.drop n)

/-! ### Queue descriptors (R349, R351) -/

/-- What a store leaves in a bound queue descriptor: BASE, TAIL, LOGN and PRIO are written, N is only set (R349). -/
def qdMerge (old new : Nat) : Nat :=
  let v := putBits (putBits (putBits old 0 64 (bits new 63 0)) 64 32 (bits new 95 64)) 128 8 (bits new 135 128)
  putBits v 192 1 (if old.testBit 192 || new.testBit 192 then 1 else 0)

/-- The bytes that a store of `bytes` leaves, with the access codes of one bound descriptor applied. -/
def State.qdBytes (s : State) (q : UserQueue) (pa : Nat) (bytes : List Byte) : List Byte :=
  let old := s.homeBytes q.pa 64
  let new := (List.range 64).map fun i => if pa ≤ q.pa + i && q.pa + i < pa + bytes.length then bytes.getD (q.pa + i - pa) 0 else old.getD i 0
  let kept := leBytesOf 64 (qdMerge (leValue old) (leValue new))
  bytes.zipIdx.map fun (b, i) => if q.pa ≤ pa + i && pa + i < q.pa + 64 then kept.getD (pa + i - q.pa) 0 else b

/-- A store overlaps a bound queue descriptor. -/
def UserQueue.hit (q : UserQueue) (pa n : Nat) : Bool := q.pa < pa + n && pa < q.pa + 64

/-- A store that writes 1 to N of a bound descriptor wakes its scheduler (R351). -/
def State.queueWake (s : State) (pa : Nat) (bytes : List Byte) : State :=
  { s with queues := s.queues.map fun q =>
      if pa ≤ q.pa + 24 && q.pa + 24 < pa + bytes.length && (bytes.getD (q.pa + 24 - pa) 0).getLsbD 0 then { q with due := true } else q }

/-- Bytes stored at local memory under a context's world, or none where the home refuses (R24, R332, R448). -/
def State.storeAt (s : State) (world : Nat) (who : Writer) (pa : Nat) (bytes : List Byte) (scope : Nat) : Option State :=
  let n := bytes.length
  if s.readRefused world pa n then none
  else if inCtxTab pa then State.ctxTabStore (n / 8 + 2) s (pa - Config.ctxTab) bytes
  else if s.writeRefused world pa n then none
  else
    let kept := (s.queues.filter fun q => q.hit pa n).foldl (fun b q => s.qdBytes q pa b) bytes
    some (((s.writeBytes who pa kept scope).poolHook pa n).queueWake pa bytes)

end Sys2Proof.Machine
end

