-- ==== Sys2Proof/Machine/Ops.lean ====
section
/-! DEFINITION. The operations every meaning shares: the hart in hand, taint and tags, waits, taking a trap and returning
from one, and the accesses of a hart (10_memory_model R206 to R219, 24_traps R391 to R395, 06_scalar R127 to R132). -/

namespace Sys2Proof.Machine

/-- Why an instruction does not complete: a trap, or a wait on another agent (R80). -/
inductive Stop where
  | trap (cause : Nat) (int : Bool) (stval : Nat) (preg : Bool)
  | stall (why : StallWhy)
  deriving DecidableEq, Repr

/-- A computation over the state that may stop. -/
abbrev M := EStateM Stop State

/-- What a step answers. -/
abbrev Out := Host.Outcome State Fault Refusal

def trap {α : Type} (cause stval : Nat) : M α := throw (.trap cause false stval false)
def trapReg {α : Type} (cause stval : Nat) : M α := throw (.trap cause false stval true)
def stall {α : Type} (why : StallWhy) : M α := throw (.stall why)

/-! ### The hart in hand -/

/-- The executing hart. -/
def State.me (s : State) : Hart := s.harts[s.cur]
def State.mapMe (s : State) (f : Hart → Hart) : State := { s with harts := s.harts.set s.cur (f s.harts[s.cur]) }
def getHart : M Hart := fun s => .ok s.me s
def modHart (f : Hart → Hart) : M Unit := fun s => .ok () (s.mapMe f)
def modState (f : State → State) : M Unit := fun s => .ok () (f s)
/-- A function of the state that also answers. -/
def liftOp {α : Type} (f : State → State × α) : M α := fun s => let r := f s; .ok r.2 r.1
def curNum : M Nat := fun s => .ok s.cur.val s
def isAccess : M Bool := fun s => .ok (s.cur.val % 2 == 0) s
/-- The executing hart's crew. -/
def getCrew : M Crew := fun s => .ok (s.crewAt (crewOf s.cur)) s
def modCrew (f : Crew → Crew) : M Unit := fun s => .ok () (s.mapCrew (crewOf s.cur) f)

/-- The illegal-instruction trap, with the encoding in stval (R104). -/
def illegal {α : Type} : M α := fun s => .error (.trap 4 false s.ir.toNat false) s

/-- An instruction that only the execute hart may run (R59, R89). -/
def needExecute : M Unit := do if ← isAccess then illegal else pure ()
/-- An instruction that only the access hart may run (R59). -/
def needAccess : M Unit := do if ← isAccess then pure () else illegal
/-- An instruction of supervisor mode (R138). -/
def needSup : M Unit := do if (← getHart).sup then pure () else illegal

/-! ### Taint and tags (R214, R215) -/

def noTaint : Taint := .tags []

/-- A list without repeats, in order of first appearance. -/
def uniq (l : List Nat) : List Nat := l.foldl (fun acc t => if acc.contains t then acc else acc ++ [t]) []

/-- result_taint: the union of sources and an own tag, saturated at `point` beyond eight tags (R215). -/
def unionTaint (point : Nat) (own : List Nat) (ts : List Taint) : Taint :=
  if ts.any (fun t => match t with | .sat _ => true | .tags _ => false) then .sat point
  else
    let u := uniq (ts.flatMap (fun t => match t with | .sat _ => [] | .tags l => l) ++ own)
    if u.length > 8 then .sat point else .tags u

/-- A taint set after tags retired: they leave it, and a saturated set empties once no tag up to its point is left. -/
def Taint.purge (gone : List Nat) (left : List Tag) : Taint → Taint
  | .tags l => .tags (l.filter fun t => !gone.contains t)
  | .sat p => if left.any (fun t => t.issue < p) then .sat p else .tags []

/-- The tags a taint set names. -/
def Taint.names (t : Taint) (tag : Tag) : Bool :=
  match t with
  | .tags l => l.contains tag.id
  | .sat p => tag.issue < p

/-- A hart with some tags retired (R214). -/
def Hart.retireTags (h : Hart) (p : Tag → Bool) : Hart :=
  let gone := (h.tags.filter p).map Tag.id
  if gone.isEmpty then h
  else
    let left := h.tags.filter fun t => !p t
    { h with tags := left, taintX := h.taintX.map (Taint.purge gone left), taintV := h.taintV.map (Taint.purge gone left),
             taintK := h.taintK.map (Taint.purge gone left), taintVl := h.taintVl.purge gone left,
             taintP := h.taintP.map (Taint.purge gone left), taintA := h.taintA.map (Taint.purge gone left) }

/-- The view of a hart's core. -/
def hartView (h : Nat) : View := .core (coreOf h)

/-- Some tags of a hart performed and retired: its view comes to hold every write they need (R207, R214). -/
def State.performTags (s : State) (h : Nat) (p : Tag → Bool) : State :=
  let ts := (s.hartAt h).tags.filter p
  if ts.isEmpty then s
  else (s.enterAll (ts.flatMap Tag.needs) (hartView h)).mapHart h fun x => x.retireTags p

/-- The wait until every tag of some taint sets is performed (R216). It ends by the hart's own accesses (log 5). -/
def waitTaint (ts : List Taint) : M Unit := fun s =>
  .ok () (s.performTags s.cur fun t => ts.any (·.names t))

/-- A tag taken at issue for an access whose view must still come to hold `needs` (R207, R214). With 64 outstanding the
oldest retires first (log 5). -/
def allocTag (needs : List Nat) : M Nat := fun s =>
  let s := if s.me.tags.length ≥ 64 then
      match s.me.tags.getLast? with
      | some t => s.performTags s.cur fun u => u.id == t.id
      | none => s
    else s
  let h := s.me
  let id := ((List.range 64).find? fun i => !h.tags.any fun t => t.id == i).getD 0
  .ok id (s.mapMe fun h => { h with tags := ⟨id, h.issued, needs⟩ :: h.tags, issued := h.issued + 1 })

/-- The instruction in hand begun: the element it began at, which a wait inside it does not change. -/
def beginRun : M Nat := fun s =>
  match s.me.run with
  | some r => if r.ir = s.ir then .ok r.first s else .ok s.me.vstart.toNat (s.mapMe fun h => { h with run := some ⟨s.ir, h.vstart.toNat, none, none, 0⟩ })
  | none => .ok s.me.vstart.toNat (s.mapMe fun h => { h with run := some ⟨s.ir, h.vstart.toNat, none, none, 0⟩ })
/-- A load tag that the instruction in hand took, while it is outstanding. -/
def Hart.heldTag (h : Hart) (which : Run → Option Nat) : Option Nat := (h.run.bind which).filter fun t => h.tags.any fun u => u.id == t
/-- The one load tag that the accesses of the instruction in hand take, once however often it waits (R214). -/
def takeTag : M Nat := do
  let _ ← beginRun
  match (← getHart).heldTag Run.tag with
  | some t => pure t
  | none =>
    let t ← allocTag []
    modHart fun h => { h with run := h.run.map fun r => { r with tag := some t } }
    pure t
/-- The one further load tag that the pops of the instruction in hand take (R173, R214). -/
def takePopTag : M Nat := do
  let _ ← beginRun
  match (← getHart).heldTag Run.pops with
  | some t => pure t
  | none =>
    let t ← allocTag []
    modHart fun h => { h with run := h.run.map fun r => { r with pops := some t } }
    pure t
/-- The writes that a tag's access must still find in its view (R207). -/
def tagNeeds (tag : Nat) (needs : List Nat) : M Unit :=
  modHart fun h => { h with tags := h.tags.map fun t => if t.id = tag then { t with needs := uniq (t.needs ++ needs) } else t }
/-- The needs of a scalar access just made at a virtual address: none for the scratchpad, whose reads are performed when they return
(R207). -/
def readNeeds (tag va : Nat) : M Unit := do
  let s ← get
  if 0xF0_0000_0000_0000 ≤ va && va < 0xF0_0000_0200_0000 then pure () else tagNeeds tag (s.needsOf (hartView s.cur))
/-- A tag for a read made now by the executing hart. -/
def readTag : M Nat := do
  let t ← takeTag
  let s ← get
  tagNeeds t (s.needsOf (hartView s.cur))
  pure t
/-- A tag for entries popped now by the executing hart. -/
def popReadTag : M Nat := do
  let t ← takePopTag
  let s ← get
  tagNeeds t (s.needsOf (hartView s.cur))
  pure t

/-! ### Scalar registers (R83, R57) -/

def Hart.xr (h : Hart) (r : BitVec 5) : Word := if r = 0 then 0 else h.x[r.toNat]'r.isLt
def Hart.xt (h : Hart) (r : BitVec 5) : Taint := if r = 0 then noTaint else h.taintX[r.toNat]'r.isLt
/-- A register written with its taint; x0 discards both (R83). -/
def Hart.setX (h : Hart) (r : BitVec 5) (v : Word) (t : Taint) : Hart :=
  if r = 0 then h
  else { h with x := h.x.set r.toNat v r.isLt, taintX := h.taintX.set r.toNat t r.isLt }

def readX (r : BitVec 5) : M Word := do return (← getHart).xr r
def taintX (r : BitVec 5) : M Taint := do return (← getHart).xt r
def writeX (r : BitVec 5) (v : Word) (t : Taint) : M Unit := modHart fun h => h.setX r v t
/-- The union of the taints of registers, with own tags (R120). -/
def joinX (rs : List (BitVec 5)) (own : List Nat) : M Taint := do
  let h ← getHart
  return unionTaint h.issued own (rs.map h.xt)

/-! ### Retiring -/

/-- The ticket of a fetch, in a hart's requests to other devices. -/
def fetchTicket : Nat := 2 ^ 126
/-- A request of the hart's own, for the instruction in hand. -/
def RemoteReq.own (r : RemoteReq) : Bool := r.ticket == 0 || r.ticket == fetchTicket
/-- The instruction of `len` bytes retires (R120, R396); the window of R79 closes. -/
def Hart.retire (h : Hart) (len : Nat) : Hart :=
  { h with pc := h.pc + BitVec.ofNat 64 len, instret := h.instret + 1, window := false, run := none,
           remote := h.remote.filter fun r => !r.own }
def retire (len : Nat) : M Unit := modHart fun h => h.retire len
/-- The instruction retires with the pc at a target. -/
def retireTo (target : Word) : M Unit :=
  modHart fun h => { h.retire 0 with pc := target }

/-! ### Traps (R391 to R395) -/

def sIEN : Word := 1
def sPIEN : Word := 2
def sPMODE : Word := 4
def sPREG : Word := 0x1000
def Hart.ien (h : Hart) : Bool := h.sstatus.getLsbD 0

/-- sstatus after a trap entry of a hart in mode `sup`: PMODE, PIEN and IEN by step 4 of R391, PREG for cause 9. -/
def trapStatus (st : Word) (sup : Bool) (is9 preg : Bool) : Word :=
  let ien := st.getLsbD 0
  let st := st &&& ~~~ (sIEN ||| sPIEN ||| sPMODE)
  let st := st ||| (if sup then sPMODE else 0) ||| (if ien then sPIEN else 0)
  if is9 then (if preg then st ||| sPREG else st &&& ~~~ sPREG) else st

/-- Every taint set of a hart empty, those of the array it holds among them (R219, R256). -/
def Hart.clearTaint (h : Hart) : Hart :=
  { h with taintX := Vector.replicate 32 noTaint, taintV := Vector.replicate 32 noTaint, taintK := Vector.replicate 8 noTaint,
           taintVl := noTaint, taintP := Vector.replicate 2 noTaint, taintA := Vector.replicate 4 noTaint }

/-- A request for the matrix lease withdrawn when the stall of MCFG.ACQ is left (R254). -/
def State.withdrawLease (s : State) (n : Nat) : State :=
  if (s.crewAt n).leaseWait then
    (s.mapCrew n fun c => { c with leaseWait := false }).mapCore (n / 4) fun c => { c with leaseQueue := c.leaseQueue.filter fun m => m != n }
  else s

/-- The telemetry item of a crew that counts traps of a cause (28_worlds R456). -/
def trapItem (cause : Nat) : Option Nat :=
  if cause = 14 then some 13 else if cause = 5 then some 14 else if 1 ≤ cause && cause ≤ 3 then some 15 else if cause = 9 then some 16
  else none

/-- A command that a home holds withdrawn: it has not been applied, and its hart issues it again (R276). -/
def State.withdrawPage (s : State) (h : Nat) : State := { s with pageWaits := s.pageWaits.filter fun w => w.hart ≠ h }

/-- Trap entry: tags drained, taint emptied, sepc, scause and stval written, sstatus saved, supervisor mode, the pc at the
handler (R391). The pc of a hart that traps is its sepc (R395). The window of R79 closes: R79 does not list a trap among what ends it
(log 104). -/
def State.takeTrap (s : State) (cause : Nat) (int : Bool) (stval : Nat) (preg : Bool) : State :=
  let s := s.performTags s.cur fun _ => true
  let s := (if s.cur.val % 2 = 1 then s.withdrawLease (crewOf s.cur) else s).withdrawPage s.cur
  let s := match trapItem cause with
    | some i => if int then s else s.count (crewItem (crewOf s.cur) i) 1
    | none => s
  s.mapMe fun h =>
    { h.clearTaint with
      sepc := h.pc, scause := BitVec.ofNat 64 cause ||| (if int then 0x8000_0000_0000_0000 else 0),
      stval := BitVec.ofNat 64 stval,
      sstatus := trapStatus h.sstatus h.sup (cause = 9 && !int) preg,
      sup := true, pc := h.stvec &&& ~~~ 3#64, stalled := none, window := false, run := none,
      remote := h.remote.filter fun r => !r.own }

/-- A hart that waits: it issues again when the wait ends, and the window of R79 closes, but for the waits that R79 does not list: a
device's answer, which is bounded, and WFI (R79, R80, R435). -/
def State.takeStall (s : State) (why : StallWhy) : State :=
  s.mapMe fun h =>
    { h with stalled := some why, window := h.window && (why == .remote || why == .wfi), run := some (h.run.getD ⟨s.ir, h.vstart.toNat, none, none, 0⟩) }

/-- The outcome of a computation: it completed, or its trap is taken, or its hart waits. -/
def settle (m : M Unit) (s : State) : Out :=
  match m s with
  | .ok _ t => .next t
  | .error (.trap c i v p) t => .next (t.takeTrap c i v p)
  | .error (.stall w) t => .next (t.takeStall w)

/-- The return of ERET: step 4 of R391 reversed, the window of R79 open (R138, R391). -/
def Hart.eret (h : Hart) : Hart :=
  let sup := h.sstatus.getLsbD 2
  let ien := h.sstatus.getLsbD 1
  { h with sup := sup, pc := h.sepc,
           sstatus := (h.sstatus &&& ~~~ sIEN) ||| (if ien then sIEN else 0) ||| sPIEN,
           instret := h.instret + 1, window := true, run := none }

/-! ### Accesses of the executing hart -/

/-- How the executing hart translates (R336, R26). -/
def State.reqFor (s : State) (h : Nat) : Req :=
  let x := s.hartAt h
  ⟨bits x.sxlat.toNat 63 48, bits x.sxlat.toNat 43 40, bits x.sxlat.toNat 39 0, x.sup, coreOf h, h % 2 == 0⟩

/-- An error response logged for the executing hart: KIND 1, PATH A or E (R344, R346). -/
def State.logAccess (s : State) (code addr : Nat) : State :=
  let h := s.cur.val
  s.logViolation ⟨bits s.me.sxlat.toNat 63 48, 1, h % 2, code, crewOf h, false, s.me.pc.toNat, addr⟩

/-- A fault of an access: its cause and stval; `remoteStall` waits for a device's answer. -/
inductive AccFault where
  | cause (c : Nat) (addr : Nat)
  | wait
  deriving DecidableEq, Repr

/-- A port that is up or degraded. -/
def Port.live (p : Port) : Bool := p.st == .up || p.st == .degraded

/-- The port a request to a peer leaves by, from (t + address[15:8]) mod 32 upward (R436). -/
def State.portFor (s : State) (dev pa : Nat) : Option Nat :=
  let first := (dev + bits pa 15 8) % 32
  ((List.range 32).map fun i => (first + i) % 32).find? fun p => (s.ports[Fin.ofNat 32 p]).live

def State.mapPort (s : State) (p : Nat) (f : Port → Port) : State :=
  { s with ports := s.ports.set (Fin.ofNat 32 p) (f s.ports[Fin.ofNat 32 p]) }

/-- A flit sent by a port, for a request of the module's own where it carries one: it stays until it is acknowledged, and it carries along
what the port owes the reverse direction (R432, R435). -/
def State.pushFlit (s : State) (p tag dst : Nat) (rid : Option Nat) (body : FlitBody) : State :=
  (s.mapPort p fun x =>
    let f : SentFlit := ⟨x.txSeq, tag % 65536, dst, rid, body, x.ackDue, x.nackDue⟩
    { x with txSeq := (x.txSeq + 1) % 4096, unacked := x.unacked ++ [f], ackDue := none, nackDue := none, out := f :: x.out }).count (linkItem p 0) 1

/-- The rights a request needs: a read or an LDA reads, everything else writes (R339, R439). -/
def bodyWrites : FlitBody → Bool
  | .read _ _ => false
  | _ => true

/-- The AMO codes the host takes as PCIe AtomicOps: SWAP, ADD and CAS (R439). -/
def hostAmo (body : FlitBody) : Bool :=
  match body with
  | .amo _ _ op _ _ => op == 0 || op == 1 || op == 9
  | _ => true

/-- The address a request names at its target. -/
def bodyPa : FlitBody → Nat
  | .read pa _ => pa
  | .write pa _ => pa
  | .writeBits pa _ _ => pa
  | .amo pa _ _ _ _ => pa
  | .notice (.bind _ pa _ _) => pa
  | .notice (.arrive _ pa _ _) => pa
  | .notice (.attach _ pa) => pa
  | .notice (.detach _ pa _ _) => pa
  | .trainBody ((pa, _) :: _) => pa
  | _ => 0

/-- The bytes that a request reaches at its target, as (address, length). -/
def bodySpans : FlitBody → List (Nat × Nat)
  | .read pa n => [(pa, n)]
  | .write pa d => [(pa, d.length)]
  | .writeBits pa _ _ => [(pa, 2)]
  | .amo pa wide _ _ _ => [(pa, if wide then 8 else 4)]
  | .notice n => [(bodyPa (.notice n), 64)]
  | .trainBody l => l.map fun e => (e.1, e.2.length)
  | _ => []
def isAmo : FlitBody → Bool
  | .amo _ _ _ _ _ => true
  | _ => false
/-- Two lists of ranges reach one byte. -/
def spansMeet (a b : List (Nat × Nat)) : Bool := a.any fun x => b.any fun y => x.1 < y.1 + y.2 && y.1 < x.1 + x.2

/-- The IDE stream of a world, if it has one (R444). -/
def State.streamOf (s : State) (w : Nat) : Option Nat := (s.streams.find? fun x => x.world = w).map Stream.num
/-- A request to the host under a PASID, as it leaves: its world's DMA goes by the world's stream, and in RUN carries T (R445). -/
def State.hostMsg (s : State) (num pasid : Nat) (body : FlitBody) : HostMsg :=
  let w := s.ctxWorld pasid
  ⟨num, pasid, body, s.streamOf w, w ≠ 0 && (s.worldAt w).tdi = 2⟩

/-- A request to another device for hart `h` and copy `ticket`: refused at once, performed (a posted write to the host), or
sent and awaited (R436, R437, R439). A world whose TDI is in ERROR reaches no host memory (R445), nor does a context at its teardown (R443).
`none` answers a request now outstanding, with its number. -/
def State.sendRequest (s : State) (h ticket pasid dev : Nat) (body : FlitBody) : State × Except Nat (Option (Bool × List Byte)) :=
  let rid := s.nextReq
  let pa := bodyPa body
  let req (port : Nat) (xlat : Bool) : OutReq := ⟨rid, h, ticket, dev, pa, port, xlat, pasid, s.now, bodySpans body, if isAmo body then .amo else .access⟩
  let host (b : FlitBody) : State := { s with nextReq := rid + 1, hostOut := s.hostMsg rid pasid b :: s.hostOut }
  let await (s : State) (q : OutReq) : State := { s with requests := q :: s.requests }
  if dev = 255 then
    if !hostAmo body || 4 ≤ s.ctxState pasid || (s.ctxWorld pasid ≠ 0 && (s.worldAt (s.ctxWorld pasid)).tdi = 3) then (s, .ok (some (false, [])))
    else match s.atc.find? fun e => e.pasid = pasid && e.page = pa / 4096 with
      | none => (await (host (.read pa 0)) (req 0 true), .error rid)
      | some e =>
        if (if bodyWrites body then !e.write else !e.read) then (s, .ok (some (false, [])))
        else match body with
          | .write _ _ => (host body, .ok (some (true, [])))
          | _ => (await (host body) (req 0 false), .error rid)
  else
    match s.portFor dev pa with
    | none => (s, .ok (some (false, [])))
    | some p => (await { s.pushFlit p rid dev (some rid) body with nextReq := rid + 1 } (req p false), .error rid)

/-- A posted write of the executing hart's own path, not waited for: a later refusal of it is logged at its virtual address (R346, R437). -/
def State.post (s : State) (va dev : Nat) (body : FlitBody) : State :=
  let rid := s.nextReq
  let s := (s.sendRequest s.cur 0 (s.reqFor s.cur).ctx dev body).1
  { s with requests := s.requests.map fun r => if r.rid = rid && !r.xlat then { r with kind := .posted va s.me.pc.toNat } else r }

/-- A request held: an earlier one of the same path that reaches one of its bytes has left by a port that is no longer theirs (R436). -/
def State.portHeld (s : State) (h tk dev : Nat) (body : FlitBody) : Bool :=
  dev ≠ 255 && s.requests.any fun r =>
    r.hart = h && (r.ticket == 0) == (tk == 0) && r.dev = dev && some r.port != s.portFor dev (bodyPa body) && spansMeet r.spans (bodySpans body)

/-- An access of hart `h` (or of its engine's command `tk`) at another device: its answer once it has come; until then it
waits (R436, R437). -/
def State.remoteAccess (s : State) (h tk pasid dev : Nat) (body : FlitBody) : State × Except AccFault (Option (List Byte)) :=
  match (s.hartAt h).remote.find? fun r => r.ticket == tk && r.dev == dev && r.body == body with
  | some r =>
    match r.ans with
    | none => (s, .error .wait)
    | some (true, d) => (s, .ok (some d))
    | some (false, _) => (s, .ok none)
  | none =>
    if s.portHeld h tk dev body then (s, .error .wait)
    else match s.sendRequest h tk pasid dev body with
    | (s, .ok (some (true, d))) => (s, .ok (some d))
    | (s, .ok _) => (s, .ok none)
    | (s, .error rid) => (s.mapHart h fun x => { x with remote := ⟨rid, tk, dev, body, none, false⟩ :: x.remote }, .error .wait)

/-- The TAP8 bytes that hold the image of `n` bytes of a tolerant page (R52). -/
def tolCount (odd : Bool) (n : Nat) : Nat := ((if odd then 1 else 0) + n + 1) / 2
/-- The image of some TAP8 bytes: their half-words as bytes, from an even or odd one on (R52). -/
def tolImg (b : List Byte) (odd : Bool) (n : Nat) : List Byte :=
  ((b.flatMap fun x => leBytesOf 2 (tolImage x.toNat)).drop (if odd then 1 else 0)).take n
/-- `n` bytes of a tolerant page's image (R52). -/
def State.tolBytes (s : State) (v : View) (own : Writer) (pa : Nat) (odd : Bool) (n : Nat) : List Byte :=
  tolImg (s.viewBytes v own pa (tolCount odd n)) odd n
/-- The TAP8 bytes of half-words written to a tolerant page (R52). -/
def tolPack : List Byte → List Byte
  | a :: b :: r => BitVec.ofNat 8 (tolStore (a.toNat + 256 * b.toNat)) :: tolPack r
  | _ => []

/-- A read of a tolerant page at another device: its TAP8 bytes fetched, their image returned (R52, R338). -/
def State.remoteTolRead (s : State) (h tk ctx dev pa : Nat) (odd : Bool) (n : Nat) : State × Except AccFault (Option (List Byte)) :=
  match s.remoteAccess h tk ctx dev (.read pa (tolCount odd n)) with
  | (s, .ok (some d)) => (s, .ok (some (tolImg d odd n)))
  | r => r

/-- The virtual address of a line that an access reaches: its own address `va` stands for physical address `pa`, and a byte spans `k` virtual
ones, two on a tolerant page (R52). -/
def lineVa (k va pa line : Nat) : Nat := (va / k * k + k * (line * 64) + 2 ^ 64 - k * pa) % 2 ^ 64
/-- A MAC failure met by a read, or by a write of a part of its line: cause 8 with the address of the line, entered in the logs (R129, R395,
R451, R453, log 56). -/
def State.macFault (s : State) (write : Bool) (k pa n va : Nat) : State × Option (Nat × Nat) :=
  let ctx := bits s.me.sxlat.toNat 63 48
  match (linesOf pa n).find? fun l => s.macBad (l * 64) && !(write && pa ≤ l * 64 && l * 64 + 64 ≤ pa + n) with
  | some l =>
    let h := s.cur.val
    let s := s.logError 15 (unitOf (l * 64)) (s.locOf (l * 64)) ctx (l * 64)
    (s.logViolation ⟨ctx, 4, h % 2, 8, crewOf h, false, s.me.pc.toNat, va⟩, some (8, lineVa k va pa l))
  | none => (s, none)
/-- Poison or a MAC failure met by a read of local bytes: cause 9 or 8, entered in the logs (R176, R417, R453). -/
def State.lineFault (s : State) (k pa n va : Nat) : State × Option (Nat × Nat) :=
  match (linesOf pa n).find? fun l => s.poisoned (l * 64) with
  | some l => (s.logError 5 (unitOf (l * 64)) (s.locOf (l * 64)) (bits s.me.sxlat.toNat 63 48) (l * 64), some (9, va))
  | none => s.macFault false k pa n va

/-- The writes that an access of the executing hart has returned come to its view before it reads their addresses again (R205, R206): an
AMO returns them from the home. -/
def State.owed (s : State) (v : View) (pa n : Nat) : State :=
  s.enterAll ((s.writes.filter fun w => w.pa < pa + n && pa < w.pa + w.old.length && !w.inView v && s.me.seen.contains w.id).map WriteRec.id) v
/-- The writes returned by a read through a view noted (R210). -/
def State.noteSeen (s : State) (v : View) (own : Writer) (pa n : Nat) : State :=
  s.mapMe fun h => { h with seen := uniq (h.seen ++ s.seenBy v own pa n) }
/-- The writes returned by a read at the home noted (R206, R210). -/
def State.noteHome (s : State) (pa n : Nat) : State :=
  s.mapMe fun h => { h with seen := uniq (h.seen ++ (s.writes.filter fun w => w.pa < pa + n && pa < w.pa + w.old.length).map WriteRec.id) }

/-- `n` bytes read at a virtual address by the executing hart, or the fault of the access; `log` appends the record of an
error response (R129, R176, R206, R346). -/
def State.readVa (s : State) (va n : Nat) (acc : Acc) (vec log : Bool) : State × Except AccFault (List Byte) :=
  let rq := s.reqFor s.cur
  let own : Writer := .hart s.cur vec
  let v := hartView s.cur
  let tk := if acc = .fetch then fetchTicket else 0
  let refuse (s : State) : State × Except AccFault (List Byte) := (if log then s.logAccess 1 va else s, .error (.cause 1 va))
  let answer (r : State × Except AccFault (Option (List Byte))) : State × Except AccFault (List Byte) :=
    match r with
    | (s, .error f) => (s, .error f)
    | (s, .ok (some d)) => (s, .ok d)
    | (s, .ok none) => refuse s
  match s.locate rq va acc with
  | (s, .error 1) => refuse s
  | (s, .error c) => (s, .error (.cause c va))
  | (s, .ok (.chute _)) => refuse s
  | (s, .ok (.local pa)) =>
    if s.readRefused rq.world pa n then refuse s
    else match s.lineFault 1 pa n va with
      | (s, some (c, a)) => (s, .error (.cause c a))
      | (s, none) =>
        let s := s.owed v pa n
        (s.noteSeen v own pa n, .ok (s.viewBytes v own pa n))
  | (s, .ok (.tolerant pa odd)) =>
    if s.readRefused rq.world pa (tolCount odd n) then refuse s
    else match s.lineFault 2 pa (tolCount odd n) va with
      | (s, some (c, a)) => (s, .error (.cause c a))
      | (s, none) =>
        let s := s.owed v pa (tolCount odd n)
        (s.noteSeen v own pa (tolCount odd n), .ok (s.tolBytes v own pa odd n))
  | (s, .ok (.remote dev pa)) => answer (s.remoteAccess s.cur tk rq.ctx dev (.read pa n))
  | (s, .ok (.remoteTol dev pa odd)) => answer (s.remoteTolRead s.cur tk rq.ctx dev pa odd n)

/-- Bytes stored at a virtual address by the executing hart, or the fault of the access. `narrow` marks a store that a
tolerant page refuses (R53). The write starts unperformed (R206). -/
def State.writeVa (s : State) (va : Nat) (bytes : List Byte) (vec narrow : Bool) : State × Except AccFault Unit :=
  let rq := s.reqFor s.cur
  let n := bytes.length
  let refuse (s : State) : State × Except AccFault Unit := (s.logAccess 1 va, .error (.cause 1 va))
  let answer (r : State × Except AccFault (Option (List Byte))) : State × Except AccFault Unit :=
    match r with
    | (s, .error f) => (s, .error f)
    | (s, .ok (some _)) => (s, .ok ())
    | (s, .ok none) => refuse s
  match s.locate rq va .write with
  | (s, .error 1) => refuse s
  | (s, .error c) => (s, .error (.cause c va))
  | (s, .ok (.chute _)) => refuse s
  | (s, .ok (.local pa)) =>
    match s.storeAt rq.world (.hart s.cur vec) pa bytes 0 with
    | none => refuse (s.noteSpent rq.world pa n)
    | some t =>
      match s.macFault true 1 pa n va with
      | (s, some (c, a)) => (s, .error (.cause c a))
      | (_, none) => (t, .ok ())
  | (s, .ok (.tolerant pa _)) =>
    if narrow || s.writeRefused rq.world pa (n / 2) then refuse (s.noteSpent rq.world pa (n / 2))
    else match s.macFault true 2 pa (n / 2) va with
      | (s, some (c, a)) => (s, .error (.cause c a))
      | (s, none) => (s.writeBytes (.hart s.cur vec) pa (tolPack bytes) 0, .ok ())
  | (s, .ok (.remote dev pa)) => answer (s.remoteAccess s.cur 0 rq.ctx dev (.write pa bytes))
  | (s, .ok (.remoteTol dev pa _)) => if narrow then refuse s else answer (s.remoteAccess s.cur 0 rq.ctx dev (.write pa (tolPack bytes)))

/-- Posted writes of a hart's own path that another device has not acknowledged (R187, R437). -/
def OutReq.isPosted (r : OutReq) : Bool := match r.kind with | .posted _ _ => true | _ => false
def State.postedOut (s : State) (h : Nat) : Bool := s.requests.any fun r => r.hart = h && r.isPosted

/-- The trap or wait of an access fault. -/
def raiseFault {α : Type} : AccFault → M α
  | .cause c a => trap c a
  | .wait => stall .remote

/-- A release, fence or barrier arrival of system scope waits for the acknowledgements of the path's posted writes (R437). -/
def waitPosted (sc : Nat) : M Unit := do
  let s ← get
  if sc = 4 && s.postedOut s.cur then stall .remote else pure ()

/-- An access that traps. -/
def doAccess {α : Type} (f : State → State × Except AccFault α) : M α := do
  match ← liftOp f with
  | .ok a => pure a
  | .error e => raiseFault e

end Sys2Proof.Machine
end

