-- ==== Sys2Proof/Machine/Chute.lean ====
section
/-! DEFINITION. The scalar chute instructions (06_scalar R143 to R147, 11_chutes_copies R222 to R226). -/

namespace Sys2Proof.Machine

def Crew.chute (c : Crew) (q : Nat) : Chute := c.chutes[Fin.ofNat 16 q]
def Crew.mapChute (c : Crew) (q : Nat) (f : Chute → Chute) : Crew :=
  { c with chutes := c.chutes.set (Fin.ofNat 16 q) (f c.chutes[Fin.ofNat 16 q]) }

/-- The entries a producer could add now (R146, R225). -/
def Chute.free (c : Chute) : Nat := 512 - c.entries.length - c.tokens.length - c.resv

/-- Entries appended at the young end. -/
def Chute.append (c : Chute) (es : List ChEntry) : Chute := { c with entries := c.entries ++ es }

/-- The oldest entry removed whole; the head offset becomes 0 (R144, R177). -/
def Chute.pop (c : Chute) : Chute := { c with entries := c.entries.drop 1, head := 0 }

/-- QPUT (R143): the access hart appends a value, clean. -/
def execQput (q : BitVec 4) (rs2 : BitVec 5) (s : State) : Out :=
  settle (do
    needAccess
    let h ← getHart
    let n := q.toNat
    if ((← getCrew).chute n).copyFed then trap 11 n
    waitTaint [h.xt rs2]
    if ((← getCrew).chute n).free = 0 then stall (.chute n)
    modCrew fun c => c.mapChute n fun x => x.append [⟨h.xr rs2, false, .put⟩]
    retire 4) s

/-- QGET (R144): the oldest entry whole, a tag when the chute is copy-fed, cause 9 for a poisoned entry unless rd is x0. -/
def qget (len : Nat) (rd : BitVec 5) (n : Nat) : M Unit := do
  needExecute
  let c := (← getCrew).chute n
  match c.entries with
  | [] => stall (.chute n)
  | e :: _ =>
    if e.poison && rd != 0 then trapReg 9 n
    modCrew fun c => c.mapChute n Chute.pop
    if c.copyFed then
      let tag ← readTag
      writeX rd e.bits (.tags [tag])
    else writeX rd e.bits noTaint
    retire len

/-- QGET (R144). -/
def execQget (rd : BitVec 5) (q : BitVec 4) (s : State) : Out := settle (qget 4 rd q.toNat) s
/-- C.QGET: QGET rd, q (R100). -/
def execCQget (rd : BitVec 5) (q : BitVec 4) (s : State) : Out := settle (qget 2 rd q.toNat) s

/-- QBR (R145): the oldest entry removed, the branch taken when it is not zero. -/
def execQbr (q : BitVec 4) (off : BitVec 11) (s : State) : Out :=
  settle (do
    needExecute
    let n := q.toNat
    let h ← getHart
    match ((← getCrew).chute n).entries with
    | [] => stall (.chute n)
    | e :: _ =>
      if e.poison then trapReg 9 n
      modCrew fun c => c.mapChute n Chute.pop
      if e.bits != 0 then retireTo (h.pc + (off.signExtend 64) * 2) else retire 4) s

/-- QSTAT (R146): MODE, FREE and COUNT, with an empty taint. -/
def execQstat (rd : BitVec 5) (q : BitVec 4) (s : State) : Out :=
  settle (do
    let c := (← getCrew).chute q.toNat
    writeX rd (BitVec.ofNat 64 ((if c.copyFed then 2 ^ 32 else 0) + c.free * 2 ^ 16 + c.entries.length)) noTaint
    retire 4) s

end Sys2Proof.Machine
end

