-- ==== Sys2Proof/Machine/VReg.lean ====
section
/-! DEFINITION. The vtype fields, the vector registers as elements with their poison, and masks (03_crews R66,
07_vector_compute R148, R149, R155, R172). -/

namespace Sys2Proof.Machine

/-! ### vtype (R148, R149) -/

def vtSew (vt : Nat) : Nat := vt % 8
def vtNf (vt : Nat) : Nat := vt / 8 % 4
def vtBl (vt : Nat) : Nat := vt / 32 % 4
def vtLg (vt : Nat) : Nat := vt / 128 % 16
/-- The element width of a vtype (R149). -/
def elemWidth (vt : Nat) : Nat :=
  match vtSew vt with
  | 0 => 8 | 1 => 16 | 2 => 32 | 3 => 64 | 4 => 16 | 5 => 16 | 6 => 32
  | _ => if vtNf vt = 3 then 6 else 8
/-- The block length, 0 for none (R149). -/
def blockLen (vt : Nat) : Nat :=
  match vtBl vt with
  | 0 => 0 | 1 => 16 | 2 => 32 | _ => 64

def Hart.vt (h : Hart) : Nat := h.vtype.toNat
def Hart.sew (h : Hart) : Nat := vtSew h.vt
def Hart.ew (h : Hart) : Nat := elemWidth h.vt
def Hart.bl (h : Hart) : Nat := blockLen h.vt
def Hart.vln (h : Hart) : Nat := h.vl.toNat
def Hart.vst (h : Hart) : Nat := h.vstart.toNat
/-- VLMAX (R66). -/
def Hart.vlmax (h : Hart) : Nat := 1024 * h.lanes.length / h.ew
/-- The float format of a SEW code 100, 101 or 110 (R30). -/
def sewFmt (sew : Nat) : FFmt := if sew = 4 then bf16 else if sew = 5 then fp16 else fp32
def Hart.fmt (h : Hart) : FFmt := sewFmt h.sew
/-- The SEW classes of R152. -/
def Hart.isInt (h : Hart) : Bool := h.sew ≤ 3
def Hart.isFloat (h : Hart) : Bool := 4 ≤ h.sew && h.sew ≤ 6
/-- Every SEW except narrow TAP6 (R174). -/
def Hart.isPacked (h : Hart) : Bool := h.ew != 6

/-! ### Register elements (R66, R172) -/

def Hart.vr (h : Hart) (r : BitVec 5) : BitVec 16384 := h.v[r.toNat]'r.isLt
def Hart.vp (h : Hart) (r : BitVec 5) : BitVec 2048 := h.vpoison[r.toNat]'r.isLt
def Hart.kr (h : Hart) (r : Nat) : BitVec 4096 := h.k[Fin.ofNat 8 r]
/-- Element i of width w. -/
def Hart.elem (h : Hart) (r : BitVec 5) (w i : Nat) : Nat := getField (h.vr r) (w * i) w
/-- A poisoned byte lies within element i of width w (R172). -/
def Hart.elemBad (h : Hart) (r : BitVec 5) (w i : Nat) : Bool :=
  let lo := w * i / 8
  let hi := (w * i + w - 1) / 8
  getField (h.vp r) lo (hi + 1 - lo) != 0
/-- Element i of width w written; bytes covered in full lose their poison (R172). -/
def Hart.setElem (h : Hart) (r : BitVec 5) (w i val : Nat) : Hart :=
  { h with v := h.v.set r.toNat (setField (h.vr r) (w * i) w val) r.isLt,
           vpoison := if w ≥ 8 then h.vpoison.set r.toNat (setField (h.vp r) (w * i / 8) (w / 8) 0) r.isLt else h.vpoison }
/-- Bit i of a mask register written. -/
def Hart.setK (h : Hart) (r i : Nat) (b : Bool) : Hart :=
  { h with k := h.k.set (Fin.ofNat 8 r) (setField (h.kr r) i 1 (if b then 1 else 0)) }
/-- Element i is not masked off (R155). -/
def Hart.maskOn (h : Hart) (km : BitVec 3) (i : Nat) : Bool := km = 0 || (h.kr km.toNat).getLsbD i

end Sys2Proof.Machine
end

