-- ==== Sys2Proof/Machine/Array.lean ====
section
/-! DEFINITION. The matrix array of a core: its contents, and the execution of posted entries in queue order (14_matrix R253
to R258, R261 to R265; 02_numbers R50). -/

namespace Sys2Proof.Machine

/-! ### Formats (R98, R255) -/

/-- The width of a tile format code. -/
def mxWidth (fmt : Nat) : Nat := if fmt = 3 then 6 else if fmt ≤ 2 then 8 else if fmt = 6 then 32 else 16
/-- The rows K of a plane of a format. -/
def mxK (fmt : Nat) : Nat := if fmt = 4 then 128 else 256
/-- The element format code of a vtype, or none for an integer one (R98, R148). -/
def vtFmt (vt : Nat) : Option Nat :=
  match vtSew vt with
  | 7 => some (vtNf vt)
  | 4 => some 4
  | 5 => some 5
  | 6 => some 6
  | _ => none
/-- A value of a tile format (R44). -/
def mxDecode (fmt b : Nat) : FVal :=
  if fmt ≤ 3 then decodeNarrow (nfOf fmt) b else decodeIeee (if fmt = 4 then bf16 else if fmt = 5 then fp16 else fp32) true b

/-- drain_round (R264). -/
def drainRound (fmt : Nat) (v : FVal) : Nat :=
  if fmt ≤ 3 then (encodeNarrow (nfOf fmt) v).1
  else
    let f := if fmt = 4 then bf16 else if fmt = 5 then fp16 else fp32
    let b := (packVal f .rne v).1
    match v with
    | .fin neg _ _ => if b = f.infBits neg then f.maxBits neg else b
    | _ => b

/-! ### Contents -/

/-- Weight (n, k) of a plane, and the scale of its block (R255, R260). -/
def Plane.weight (p : Plane) (n k : Nat) : FVal := mxDecode p.fmt (getField p.weights ((n * mxK p.fmt + k) * mxWidth p.fmt) (mxWidth p.fmt))
def Plane.scale (p : Plane) (n k : Nat) : FVal := decodeE8M0 (getField p.scales (8 * (8 * n + k / 32)) 8)
/-- The finite flag of a 32-row slab: no NaN, infinity or 0xFF scale in any column (R255). It only saves time (R263). -/
def Plane.finite (p : Plane) (slab : Nat) : Bool :=
  (List.range 192).all fun n => !(p.scale n (32 * slab)).isNan && (List.range 32).all fun k =>
    let v := p.weight n (32 * slab + k)
    !v.isNan && !v.isInf

/-- Row r of a tile, and its element n. -/
def MxArray.acc (a : MxArray) (t r n : Nat) : Nat := getField (a.tiles[Fin.ofNat 4 t]) (32 * (192 * r + n)) 32
/-- A row of a tile replaced by 192 FP32 codes given as one number. -/
def MxArray.setRow (a : MxArray) (t r row : Nat) : MxArray :=
  { a with tiles := a.tiles.set (Fin.ofNat 4 t) (setField (a.tiles[Fin.ofNat 4 t]) (6144 * r) 6144 row) }

/-- Codes of `w` bits packed from bit 0 upward. -/
def packCodes (w : Nat) : List Nat → Nat
  | [] => 0
  | c :: r => c % 2 ^ w + 2 ^ w * packCodes w r

/-- The exact sum of values, by R36 and R50: −0 only of −0s. -/
def exactSum (init : FVal) (l : List FVal) : FVal := l.foldl (fun a b => (addVal .rne a b).1) init

/-- A row pass of R50: the new codes of the row. -/
def MxArray.rowPass (a : MxArray) (t r : Nat) (act scale : Nat → FVal) (k : Nat) : Nat :=
  let xs := (List.range k).map fun j => (mulVal (act j) (scale j)).1
  packCodes 32 ((List.range 192).map fun n =>
    let terms := xs.zipIdx.map fun (x, j) => (mulVal x (mulVal (a.act.weight n j) (a.act.scale n j)).1).1
    (packVal fp32 .rne (exactSum (decodeIeee fp32 true (a.acc t r n)) terms)).1)

/-! ### Execution in queue order -/

/-- The execute hart of a crew. -/
def execHart (n : Nat) : Nat := 2 * n + 1
def State.arrayOf (s : State) (n : Nat) : MxArray := (s.coreAt (n / 4)).array
def State.mapArray (s : State) (n : Nat) (f : MxArray → MxArray) : State := s.mapCore (n / 4) fun c => { c with array := f c.array }

/-- A byte of a register is poisoned below byte `n`. -/
def Hart.anyBad (h : Hart) (r : BitVec 5) (n : Nat) : Bool := (h.vp r).toNat % 2 ^ n != 0

/-- A 32-element activation block of a row that the array skips: every element ±0, no scale that covers it 0xFF, and the active plane's slab
flagged finite (R263). -/
def mxSkips (p : Plane) (elem scale : Nat → FVal) (b : Nat) : Bool :=
  ((List.range 32).all fun j => (elem (32 * b + j)).isZero) && ((List.range 32).all fun j => !(scale (32 * b + j)).isNan) && p.finite b
/-- The activation blocks that an MSTRM skips, of `nr` rows (R263, 28_worlds R456). -/
def mxSkipped (p : Plane) (elem scale : Nat → Nat → FVal) (nr k : Nat) : Nat :=
  ((List.range nr).map fun r => ((List.range (k / 32)).filter (mxSkips p (elem r) (scale r))).length).sum

/-- MSTRM in the array (R262, R256), with the block slots it uses and the blocks it skips in the crew's telemetry (R263, 28_worlds R456). Its scale register is united into the tile's taint with block none as well, where no scale byte is read:
R256 names the register, R157 only what is read (log 129). -/
def State.mxStrm (s : State) (n : Nat) (va vsc : BitVec 5) (tile nr fmt bl pt : Nat) : State :=
  if nr = 0 then s
  else
    let h := s.hartAt (execHart n)
    let k := mxK fmt
    let w := mxWidth fmt
    let a := s.arrayOf n
    let scales := if bl = 0 then 0 else (nr * k + bl - 1) / bl
    let bad := a.act.poison || h.anyBad va ((nr * k * w + 7) / 8) || h.anyBad vsc scales
    let elem (r j : Nat) : FVal := mxDecode fmt (h.elem va w (r * k + j))
    let scale (r j : Nat) : FVal := if bl = 0 then decodeE8M0 127 else decodeE8M0 (h.elem vsc 8 ((r * k + j) / bl))
    let skipped := mxSkipped a.act elem scale nr k
    let step (a : MxArray) (r : Nat) : MxArray :=
      let t := (a.scur[Fin.ofNat 4 tile] + r) % 64
      let row := a.rowPass tile t (elem r) (scale r) k
      let a := a.setRow tile t row
      if bad then { a with rowPoison := a.rowPoison.set (Fin.ofNat 4 tile) (setField (a.rowPoison[Fin.ofNat 4 tile]) t 1 1) } else a
    let a := (List.range nr).foldl step a
    let a := { a with scur := a.scur.set (Fin.ofNat 4 tile) ((a.scur[Fin.ofNat 4 tile] + nr) % 64) }
    let t := unionTaint pt [] [h.taintA[Fin.ofNat 4 tile], h.taintV[va.toNat]'va.isLt, h.taintV[vsc.toNat]'vsc.isLt, h.taintP[(0 : Fin 2)]]
    let s := (s.mapArray n fun _ => a).mapHart (execHart n) fun h => { h with taintA := h.taintA.set (Fin.ofNat 4 tile) t }
    let s := (s.count (crewItem n 5) (nr * (k / 32) - skipped)).count (crewItem n 6) skipped
    if bad then s.logError 4 6 (n / 4) 0 0 else s

/-- The value of a drained element before its rounding (R264). -/
def drainValue (y cs bias : FVal) (epi : Nat) : FVal :=
  let y := if epi.testBit 0 then (mulVal y cs).1 else y
  if epi.testBit 1 then (addVal .rne y bias).1 else y

/-- MDRAIN in the array: rows rounded into vd with their poison, the cursor moved, taint joined, with no row too (R264, R256). -/
def State.mxDrainRows (s : State) (n : Nat) (vd vb : BitVec 5) (tile nr fmt epi pt : Nat) : State :=
  let h := s.hartAt (execHart n)
  let a := s.arrayOf n
  let w := mxWidth fmt
  let csReg := if epi = 3 then vb + 1 else vb
  let colBad (c : Nat) : Bool := (epi.testBit 0 && h.elemBad csReg 32 c) || (epi.testBit 1 && h.elemBad vb 32 c)
  let t (r : Nat) : Nat := (a.dcur[Fin.ofNat 4 tile] + r) % 64
  let rowBad (r : Nat) : Bool := (a.rowPoison[Fin.ofNat 4 tile]).getLsbD (t r)
  let fp (r : BitVec 5) (c : Nat) : FVal := decodeIeee fp32 true (h.elem r 32 c)
  let codes := (List.range nr).flatMap fun r => (List.range 192).map fun c =>
    drainRound fmt (drainValue (decodeIeee fp32 true (a.acc tile (t r) c)) (fp csReg c) (fp vb c) epi)
  let bytes := 192 * nr * w / 8
  let badByte (b : Nat) : Bool :=
    let lo := 8 * b / w
    let hi := (8 * b + 7) / w
    (List.range (hi + 1 - lo)).any fun i => rowBad ((lo + i) / 192) || colBad ((lo + i) % 192)
  let bads := (List.range bytes).map fun b => if badByte b then 1 else 0
  let srcs := [h.taintA[Fin.ofNat 4 tile]] ++ (if epi = 0 then [] else [h.taintV[vb.toNat]'vb.isLt]) ++
    (if epi = 3 then [h.taintV[(vb + 1).toNat]'(vb + 1).isLt] else [])
  let full := 192 * nr * w = 1024 * h.lanes.length
  let tnt := unionTaint pt [] (if full then srcs else (h.taintV[vd.toNat]'vd.isLt) :: srcs)
  let s := s.mapHart (execHart n) fun h =>
    { h with v := h.v.set vd.toNat (setField (h.vr vd) 0 (192 * nr * w) (packCodes w codes)) vd.isLt,
             vpoison := h.vpoison.set vd.toNat (setField (h.vp vd) 0 bytes (packCodes 1 bads)) vd.isLt,
             taintV := h.taintV.set vd.toNat tnt vd.isLt }
  let s := s.mapArray n fun a => { a with dcur := a.dcur.set (Fin.ofNat 4 tile) ((a.dcur[Fin.ofNat 4 tile] + nr) % 64) }
  if bads.any fun b => b = 1 then s.logError 4 5 (n / 4) 0 0 else s

/-- MZERO in the array (R265). -/
def State.mxZero (s : State) (n tile : Nat) : State :=
  let i := Fin.ofNat 4 tile
  (s.mapArray n fun a => { a with tiles := a.tiles.set i 0, rowPoison := a.rowPoison.set i 0, scur := a.scur.set i 0,
                                  dcur := a.dcur.set i 0 }).mapHart (execHart n) fun h => { h with taintA := h.taintA.set i noTaint }
/-- MSWAP in the array (R261). -/
def State.mxSwap (s : State) (n : Nat) : State :=
  (s.mapArray n fun a => { a with act := a.shd, shd := a.act }).mapHart (execHart n) fun h =>
    { h with taintP := #v[h.taintP[(1 : Fin 2)], h.taintP[(0 : Fin 2)]] }
/-- MCFG.SET in the array (R254). -/
def State.mxSet (s : State) (n : Nat) (v : Word) : State :=
  let i := Fin.ofNat 4 (v.toNat % 4)
  s.mapArray n fun a =>
    { a with scur := if v.getLsbD 24 then a.scur.set i (bits v.toNat 13 8) else a.scur,
             dcur := if v.getLsbD 25 then a.dcur.set i (bits v.toNat 21 16) else a.dcur }

/-- One posted entry executed (R257). -/
def State.mxExec (s : State) (n : Nat) (e : MxEntry) : State :=
  match e with
  | .set v => s.mxSet n v
  | .swap => s.mxSwap n
  | .strm va vsc tile nr fmt bl pt => s.mxStrm n va vsc tile nr fmt bl pt
  | .drain vd vb tile nr fmt epi pt => s.mxDrainRows n vd vb tile nr fmt epi pt
  | .zero tile => s.mxZero n tile

/-- Every posted entry of a crew executed, in order. -/
def State.mxDrain (s : State) (n : Nat) : State :=
  let q := (s.crewAt n).mqueue
  if q.isEmpty then s
  else (q.foldl (fun s e => s.mxExec n e) s).mapCrew n fun c => { c with mqueue := [] }

/-- The executing hart's own posted entries executed: a wait that ends by its own array (R79, log 5). -/
def mxSync : M Unit := modState fun s => s.mxDrain (crewOf s.cur)

/-- The array zeroed and its taint emptied, as at a grant (R253). -/
def State.mxClear (s : State) (n : Nat) : State :=
  (s.mapArray n fun _ => MxArray.zero).mapHart (execHart n) fun h =>
    { h with taintP := Vector.replicate 2 noTaint, taintA := Vector.replicate 4 noTaint }

end Sys2Proof.Machine
end

