-- ==== Sys2Proof/Machine/Amo.lean ====
section
/-! DEFINITION. Atomics, fences and taint control (06_scalar R130 to R137, 10_memory_model R209 to R211). -/

namespace Sys2Proof.Machine

/-! ### Order -/

/-- Every earlier write of the hart's own path that satisfies `p`, with the writes returned to its reads, performed at a
scope (R130, R134, R210). -/
def State.releaseAt (s : State) (p : WriteRec → Bool) (sc : Nat) : State :=
  let seen := s.me.seen
  (s.performWhere (fun w => p w || seen.contains w.id) sc).mapMe fun h =>
    { h with seen := h.seen.filter fun id => s.writes.any fun w => w.id == id }

/-- The executing hart's own scalar, vector, or all own writes. -/
def State.ownWrite (s : State) (vec : Option Bool) (w : WriteRec) : Bool :=
  match w.who with
  | .hart h v => h == s.cur.val && (match vec with | none => true | some b => v == b)
  | _ => false

/-- Reads of the own path performed: every outstanding tag retires (R207, R134). -/
def performReads : M Unit := fun s => .ok () (s.performTags s.cur fun _ => true)

/-- A release at a scope: every earlier access of the own path's scalar kind performed (R130, R131). On the execute hart it performs the
outstanding vector loads and pops with them, which R131 does not ask and R210 lets an implementation do (log 76). -/
def release (sc : Nat) : M Unit := do
  waitPosted sc
  performReads
  modState fun s => s.releaseAt (s.ownWrite (some false)) sc

/-! ### AMO (R130 to R132) -/

/-- The operations of R88. -/
inductive AmoOp where
  | swap | add | and | or | xor | min | max | minu | maxu | cas | lda | stl
  deriving DecidableEq, Repr

/-- The op code of R88. -/
def AmoOp.code : AmoOp → BitVec 4
  | .swap => 0 | .add => 1 | .and => 2 | .or => 3 | .xor => 4 | .min => 5 | .max => 6 | .minu => 7 | .maxu => 8 | .cas => 9
  | .lda => 10 | .stl => 11

/-- The value written to a word of `w` bits, none where no write is performed (R130). -/
def AmoOp.result (op : AmoOp) (w old src expect : Nat) : Option Nat :=
  match op with
  | .swap => some src
  | .add => some ((old + src) % 2 ^ w)
  | .and => some (old &&& src)
  | .or => some (old ||| src)
  | .xor => some (old ^^^ src)
  | .min => some (if toSigned w old ≤ toSigned w src then old else src)
  | .max => some (if toSigned w old ≤ toSigned w src then src else old)
  | .minu => some (if old ≤ src then old else src)
  | .maxu => some (if old ≤ src then src else old)
  | .cas => if old = expect then some src else none
  | .lda => none
  | .stl => some src

/-- The op of a code, none for a reserved one. -/
def amoOf (c : Nat) : Option AmoOp :=
  match c with
  | 0 => some .swap | 1 => some .add | 2 => some .and | 3 => some .or | 4 => some .xor | 5 => some .min | 6 => some .max
  | 7 => some .minu | 8 => some .maxu | 9 => some .cas | 10 => some .lda | 11 => some .stl | _ => none

/-- The body of an AMO sent to another device; to the host LDA is a read and STL a write (R439). -/
def amoBody (op : AmoOp) (dev pa n src expect : Nat) : FlitBody :=
  if dev = 255 && op == .lda then .read pa n
  else if dev = 255 && op == .stl then .write pa (leBytesOf n src)
  else .amo pa (n == 8) op.code (BitVec.ofNat 64 src) (BitVec.ofNat 64 expect)

/-- An AMO at the word's home: the old value, or the fault (R130, R132, R206). The write is performed at its home for every
agent at once (log 17). -/
def State.amoVa (s : State) (op : AmoOp) (va n src expect : Nat) : State × Except AccFault Nat :=
  let rq := s.reqFor s.cur
  let refuse (s : State) : State × Except AccFault Nat := (s.logAccess 1 va, .error (.cause 1 va))
  match s.locate rq va (if op = .lda then .read else .write) with
  | (s, .error 1) => refuse s
  | (s, .error c) => (s, .error (.cause c va))
  | (s, .ok (.chute _)) => refuse s
  | (s, .ok (.tolerant pa odd)) =>
    if op = .lda then
      if s.readRefused rq.world pa (n / 2) then refuse s
      else match s.lineFault 2 pa (n / 2) va with
        | (s, some (c, a)) => (s, .error (.cause c a))
        | (s, none) => (s.noteHome pa (n / 2), .ok (leValue (tolImg (s.homeBytes pa (n / 2)) odd n)))
    else refuse s
  | (s, .ok (.local pa)) =>
    if s.readRefused rq.world pa n then refuse s
    else match s.lineFault 1 pa n va with
      | (s, some (c, a)) => (s, .error (.cause c a))
      | (s, none) =>
        let old := s.homeNat pa n
        let s := s.noteHome pa n
        match op with
        | .lda => (s, .ok old)
        | _ =>
          match op.result (8 * n) old src expect with
          | none => if s.writeRefused rq.world pa n then refuse (s.noteSpent rq.world pa n) else (s, .ok old)
          | some v =>
            match s.storeAt rq.world (.hart s.cur false) pa (leBytesOf n v) 4 with
            | none => refuse (s.noteSpent rq.world pa n)
            | some s => (s, .ok old)
  | (s, .ok (.remote dev pa)) =>
    match s.remoteAccess s.cur 0 rq.ctx dev (amoBody op dev pa n src expect) with
    | (s, .error f) => (s, .error f)
    | (s, .ok (some d)) => (s, .ok (leValue d))
    | (s, .ok none) => refuse s
  | (s, .ok (.remoteTol dev pa odd)) =>
    if op = .lda then
      match s.remoteTolRead s.cur 0 rq.ctx dev pa odd n with
      | (s, .error f) => (s, .error f)
      | (s, .ok (some d)) => (s, .ok (leValue d))
      | (s, .ok none) => refuse s
    else refuse s

/-- An AMO instruction of `n` bytes (R130). An acquire orders whatever its scope: where that excludes the releasing agent R211 gives no
guarantee, and the model orders all the same, as R210 lets an implementation (log 76). -/
def amo (n : Nat) (op : AmoOp) (ord : BitVec 2) (scope : BitVec 3) (rs2 rs1 rd : BitVec 5) : M Unit := do
  let h ← getHart
  let addr := (h.xr rs1).toNat
  if addr % n != 0 then trap 0 addr
  let srcs := if op = .cas then [rs1, rs2, rd] else if op = .lda then [rs1] else [rs1, rs2]
  waitTaint (srcs.map h.xt)
  if ord.getLsbD 1 then release (scopeNum scope.toNat) else pure ()
  let src := (h.xr rs2).toNat % 2 ^ (8 * n)
  let expect := (h.xr rd).toNat % 2 ^ (8 * n)
  if op = .stl then
    let _ ← doAccess fun s => s.amoVa op addr n src expect
  else
    let tag ← takeTag
    let old ← doAccess fun s => s.amoVa op addr n src expect
    readNeeds tag addr
    writeX rd (BitVec.ofNat 64 (ofSigned 64 (toSigned (8 * n) old))) (← joinX srcs [tag])
    if ord.getLsbD 0 then modState fun s => s.performTags s.cur fun t => t.id == tag else pure ()
  retire 4

/-- AMOSWAP.D (R130). -/
def execAmoswapD (ord : BitVec 2) (scope : BitVec 3) (rs2 rs1 rd : BitVec 5) (s : State) : Out :=
  settle (amo 8 .swap ord scope rs2 rs1 rd) s

/-- AMOADD.D (R130). -/
def execAmoaddD (ord : BitVec 2) (scope : BitVec 3) (rs2 rs1 rd : BitVec 5) (s : State) : Out :=
  settle (amo 8 .add ord scope rs2 rs1 rd) s

/-- AMOAND.D (R130). -/
def execAmoandD (ord : BitVec 2) (scope : BitVec 3) (rs2 rs1 rd : BitVec 5) (s : State) : Out :=
  settle (amo 8 .and ord scope rs2 rs1 rd) s

/-- AMOOR.D (R130). -/
def execAmoorD (ord : BitVec 2) (scope : BitVec 3) (rs2 rs1 rd : BitVec 5) (s : State) : Out :=
  settle (amo 8 .or ord scope rs2 rs1 rd) s

/-- AMOXOR.D (R130). -/
def execAmoxorD (ord : BitVec 2) (scope : BitVec 3) (rs2 rs1 rd : BitVec 5) (s : State) : Out :=
  settle (amo 8 .xor ord scope rs2 rs1 rd) s

/-- AMOMIN.D (R130). -/
def execAmominD (ord : BitVec 2) (scope : BitVec 3) (rs2 rs1 rd : BitVec 5) (s : State) : Out :=
  settle (amo 8 .min ord scope rs2 rs1 rd) s

/-- AMOMAX.D (R130). -/
def execAmomaxD (ord : BitVec 2) (scope : BitVec 3) (rs2 rs1 rd : BitVec 5) (s : State) : Out :=
  settle (amo 8 .max ord scope rs2 rs1 rd) s

/-- AMOMINU.D (R130). -/
def execAmominuD (ord : BitVec 2) (scope : BitVec 3) (rs2 rs1 rd : BitVec 5) (s : State) : Out :=
  settle (amo 8 .minu ord scope rs2 rs1 rd) s

/-- AMOMAXU.D (R130). -/
def execAmomaxuD (ord : BitVec 2) (scope : BitVec 3) (rs2 rs1 rd : BitVec 5) (s : State) : Out :=
  settle (amo 8 .maxu ord scope rs2 rs1 rd) s

/-- AMOCAS.D (R130). -/
def execAmocasD (ord : BitVec 2) (scope : BitVec 3) (rs2 rs1 rd : BitVec 5) (s : State) : Out :=
  settle (amo 8 .cas ord scope rs2 rs1 rd) s

/-- LDA.D (R130): an acquire. -/
def execLdaD (scope : BitVec 3) (rs1 rd : BitVec 5) (s : State) : Out :=
  settle (amo 8 .lda 1 scope 0 rs1 rd) s

/-- STL.D (R130): a release. -/
def execStlD (scope : BitVec 3) (rs2 rs1 : BitVec 5) (s : State) : Out :=
  settle (amo 8 .stl 2 scope rs2 rs1 0) s

/-- AMOSWAP.W (R130). -/
def execAmoswapW (ord : BitVec 2) (scope : BitVec 3) (rs2 rs1 rd : BitVec 5) (s : State) : Out :=
  settle (amo 4 .swap ord scope rs2 rs1 rd) s

/-- AMOADD.W (R130). -/
def execAmoaddW (ord : BitVec 2) (scope : BitVec 3) (rs2 rs1 rd : BitVec 5) (s : State) : Out :=
  settle (amo 4 .add ord scope rs2 rs1 rd) s

/-- AMOAND.W (R130). -/
def execAmoandW (ord : BitVec 2) (scope : BitVec 3) (rs2 rs1 rd : BitVec 5) (s : State) : Out :=
  settle (amo 4 .and ord scope rs2 rs1 rd) s

/-- AMOOR.W (R130). -/
def execAmoorW (ord : BitVec 2) (scope : BitVec 3) (rs2 rs1 rd : BitVec 5) (s : State) : Out :=
  settle (amo 4 .or ord scope rs2 rs1 rd) s

/-- AMOXOR.W (R130). -/
def execAmoxorW (ord : BitVec 2) (scope : BitVec 3) (rs2 rs1 rd : BitVec 5) (s : State) : Out :=
  settle (amo 4 .xor ord scope rs2 rs1 rd) s

/-- AMOMIN.W (R130). -/
def execAmominW (ord : BitVec 2) (scope : BitVec 3) (rs2 rs1 rd : BitVec 5) (s : State) : Out :=
  settle (amo 4 .min ord scope rs2 rs1 rd) s

/-- AMOMAX.W (R130). -/
def execAmomaxW (ord : BitVec 2) (scope : BitVec 3) (rs2 rs1 rd : BitVec 5) (s : State) : Out :=
  settle (amo 4 .max ord scope rs2 rs1 rd) s

/-- AMOMINU.W (R130). -/
def execAmominuW (ord : BitVec 2) (scope : BitVec 3) (rs2 rs1 rd : BitVec 5) (s : State) : Out :=
  settle (amo 4 .minu ord scope rs2 rs1 rd) s

/-- AMOMAXU.W (R130). -/
def execAmomaxuW (ord : BitVec 2) (scope : BitVec 3) (rs2 rs1 rd : BitVec 5) (s : State) : Out :=
  settle (amo 4 .maxu ord scope rs2 rs1 rd) s

/-- AMOCAS.W (R130). -/
def execAmocasW (ord : BitVec 2) (scope : BitVec 3) (rs2 rs1 rd : BitVec 5) (s : State) : Out :=
  settle (amo 4 .cas ord scope rs2 rs1 rd) s

/-- LDA.W (R130): an acquire. -/
def execLdaW (scope : BitVec 3) (rs1 rd : BitVec 5) (s : State) : Out :=
  settle (amo 4 .lda 1 scope 0 rs1 rd) s

/-- STL.W (R130): a release. -/
def execStlW (scope : BitVec 3) (rs2 rs1 : BitVec 5) (s : State) : Out :=
  settle (amo 4 .stl 2 scope rs2 rs1 0) s

/-! ### Fences (R134 to R136) -/

/-- A view comes to hold every write performed at a scope that contains it, before a later read of its agents (R207,
R209). -/
def State.catchUp (s : State) (v : View) : State := s.enterAll (s.needsOf v) v

/-- FENCE: the own path's predecessors of the pred kinds performed at the scope before the successors read or are performed;
an empty set orders nothing (R89, R134, R209). FENCE on the execute hart takes its scalar and its vector accesses together, so it also
orders the two against each other, which R134 does not ask and R210 lets an implementation do (log 76). -/
def fenceOwn (vec : Option Bool) (scope : BitVec 3) (pred succ : BitVec 2) : M Unit := do
  if succ = 0 || pred = 0 then pure ()
  else
    if pred.getLsbD 1 then waitPosted (scopeNum scope.toNat) else pure ()
    if pred.getLsbD 0 then performReads else pure ()
    if pred.getLsbD 1 then modState fun s => s.releaseAt (s.ownWrite vec) (scopeNum scope.toNat) else pure ()
    if succ.getLsbD 0 then modState fun s => s.catchUp (hartView s.cur) else pure ()

/-- FENCE (R134). -/
def execFence (scope : BitVec 3) (pred succ : BitVec 2) (s : State) : Out :=
  settle (do fenceOwn none scope pred succ; retire 4) s

/-- FENCE.T: the execute hart's scalar accesses before its vector ones, or the reverse (R136). -/
def execFenceT (scope : BitVec 3) (dir : BitVec 1) (pred succ : BitVec 2) (s : State) : Out :=
  settle (do needExecute; fenceOwn (some (dir == 1)) scope pred succ; retire 4) s

/-- The Sluice still has pages to read or partials to merge for subscriptions that a hart made (R301). -/
def State.sluiceBusy (s : State) (h : Nat) : Bool :=
  let mine := (s.subs.filter fun u => u.hart = h).map fun u => u.id
  s.groups.any fun g =>
    g.passes.any (fun p => (p.todo.flatten ++ p.extra).any (fun x => mine.contains x.sub) || p.late.any fun i => mine.contains i) ||
    g.inbox.any fun x => s.subs.any fun u => u.hart = h && u.gseq = g.gseq && u.mq = x.mq

/-- A copy command has units to move, trains not acknowledged, or accesses that a device has not answered (R135, R221, R437). -/
def State.copyBusy (s : State) (h : Nat) (c : CopyCmd) : Bool :=
  decide (c.done < c.stopAt) || c.trains.any (fun t => t.st == .unsent || t.st == .sent) ||
  (s.hartAt h).remote.any fun r => r.ticket == c.seq + 1 && r.ans.isNone

/-- The engine of a path still has accesses of the hart's commands to make (R135). -/
def State.engineBusy (s : State) (h : Nat) (p : Nat) : Bool :=
  match p with
  | 2 => (s.hartAt h).copies.any (s.copyBusy h)
  | 4 => s.sluiceBusy h
  | _ => false

/-- The view that a path of a hart reads: its core's, or its die's for the Vein and the Sluice (R204). -/
def pathView (h p : Nat) : View := if p ≥ 3 then .die (dieOf h) else hartView h

/-- FENCE.X: the predecessors of path `from` performed at the scope before it retires (R135). -/
def execFenceX (scope : BitVec 3) (src dst : BitVec 3) (s : State) : Out :=
  settle (do
    let n ← curNum
    let sc := scopeNum scope.toNat
    let own : Nat := n % 2
    if src.toNat = own then
      waitPosted sc
      performReads
      modState fun s => s.releaseAt (s.ownWrite none) sc
    else if src.toNat ≤ 1 then pure ()
    else
      if (← get).engineBusy n src.toNat then stall .engineFence
      else modState fun s => s.performWhere (fun w =>
        match w.who with
        | .engine h p _ => h == n && (match p with | .C => src.toNat == 2 | .X => src.toNat == 3 | .S => src.toNat == 4 | _ => false)
        | _ => false) sc
    modState fun s => s.catchUp (pathView n dst.toNat)
    retire 4) s

/-! ### Taint control (R137) -/

/-- A taint set by its file and register: 0 x, 1 v, 2 k, 3 vl (R89). -/
def Hart.taintOf (h : Hart) (file : BitVec 2) (r : BitVec 5) : Taint :=
  if file = 0 then h.xt r
  else if file = 1 then h.taintV[r.toNat]'r.isLt
  else if file = 2 then h.taintK[Fin.ofNat 8 r.toNat]
  else h.taintVl
def Hart.setTaint (h : Hart) (file : BitVec 2) (r : BitVec 5) (t : Taint) : Hart :=
  if file = 0 then (if r = 0 then h else { h with taintX := h.taintX.set r.toNat t r.isLt })
  else if file = 1 then { h with taintV := h.taintV.set r.toNat t r.isLt }
  else if file = 2 then { h with taintK := h.taintK.set (Fin.ofNat 8 r.toNat) t }
  else { h with taintVl := t }

/-- TCLR (R137). -/
def execTclr (file : BitVec 2) (reg : BitVec 5) (s : State) : Out :=
  settle (do
    if file = 0 then pure () else needExecute
    mxSync
    modHart fun h => h.setTaint file reg noTaint
    retire 4) s

/-- TJOIN (R137). -/
def execTjoin (fs fd : BitVec 2) (rs1 rd : BitVec 5) (s : State) : Out :=
  settle (do
    if fs = 0 && fd = 0 then pure () else needExecute
    mxSync
    modHart fun h => h.setTaint fd rd (unionTaint h.issued [] [h.taintOf fd rd, h.taintOf fs rs1])
    retire 4) s

end Sys2Proof.Machine
end

