-- ==== Sys2Proof/Machine/Flags.lean ====
section
/-! DEFINITION. The floating-point flags and the rounding mode of a hart (02_numbers R33 to R35). -/

namespace Sys2Proof.Machine

/-- frm of a hart. -/
def Hart.frm (h : Hart) : Nat := h.fcsr.toNat % 8
/-- frm holds a rounding mode (R34). -/
def Hart.frmOk (h : Hart) : Bool := (rndOf h.frm).isSome
/-- The rounding mode; read only where frmOk was checked. -/
def Hart.rnd (h : Hart) : Rnd := (rndOf h.frm).getD .rne
/-- Flags set, never cleared, in fcsr[8:4] (R35). -/
def Hart.addFlags (h : Hart) (f : FFlags) : Hart := { h with fcsr := h.fcsr ||| (f.setWidth 64 <<< 4) }

end Sys2Proof.Machine
end

