-- ==== Sys2Proof/Machine/Operands.lean ====
section
/-! DEFINITION. Vector operands: element widths, register elements and their poison, masks, the four kinds of second source,
chute sources, and the shared course of an element-wise instruction (03_crews R55, R66; 04_encoding R93; 07_vector_compute
R149 to R158, R172; 08_vector_data R177). -/

namespace Sys2Proof.Machine

/-! ### Chute elements (R154, R177) -/

/-- The elements of s bits a chute supplies beyond its head offset. -/
def Chute.avail (c : Chute) (s : Nat) : Nat := 64 / s * c.entries.length - c.head
/-- Element j beyond the head offset. -/
def Chute.elem (c : Chute) (s j : Nat) : Nat :=
  let a := c.head + j
  match c.entries[a / (64 / s)]? with
  | some e => getField e.bits (a % (64 / s) * s) s
  | none => 0
/-- The entry that element j is drawn from is poisoned. -/
def Chute.elemBad (c : Chute) (s j : Nat) : Bool :=
  match c.entries[(c.head + j) / (64 / s)]? with
  | some e => e.poison
  | none => false
/-- n elements consumed from the head offset onward (R154). -/
def Chute.consume (c : Chute) (s n : Nat) : Chute :=
  let a := c.head + n
  { c with entries := c.entries.drop (a / (64 / s)), head := a % (64 / s) }

/-- The trimmed length for a chute source, or none while the instruction waits for an element, or with a block length for the elements
up to vl or for one whole block beyond vstart (R154). -/
def trimTo (vstart vl bl avail : Nat) : Option Nat :=
  let n := min vl (vstart + avail)
  if avail = 0 then none
  else if bl = 0 then (if n > vstart then some n else none)
  else if (vl ≤ vstart + avail || ((vstart + bl - 1) / bl + 1) * bl ≤ vstart + avail) && n - n % bl > vstart then some (n - n % bl)
  else none

/-! ### The course of a vector instruction -/

/-- The registers a vector instruction names, for taint and dirty bits (R157). -/
structure VRegs where
  km : BitVec 3 := 0
  srcV : List (BitVec 5) := []
  srcX : List (BitVec 5) := []
  srcK : List Nat := []
  dstV : List (BitVec 5) := []
  dstK : List Nat := []

/-- Checks 2 to 5 of R103 for a vector instruction: role, vstate, then vtype and frm (`legal`). The interlocks with posted
matrix entries end by the hart's own array (R157, R258, log 5). -/
def vecIssue (legal : Hart → Bool) : M Unit := do
  needExecute
  let h ← getHart
  if h.vstate = 0 then fun s => .error (.trap 5 false s.ir.toNat false) s
  else if legal h then modState fun s => s.mxDrain (crewOf s.cur) else illegal

/-- vdirty, kdirty and vstate after an instruction that names destinations (R157, R399). -/
def Hart.markDirty (h : Hart) (r : VRegs) : Hart :=
  if r.dstV.isEmpty && r.dstK.isEmpty then h
  else { h with vdirty := h.vdirty ||| BitVec.ofNat 32 (r.dstV.foldl (fun a v => a ||| 2 ^ v.toNat) 0),
                kdirty := h.kdirty ||| BitVec.ofNat 8 (r.dstK.foldl (fun a k => a ||| 2 ^ (k % 8)) 0),
                vstate := 2 }

/-- The taint sets of an instruction's sources, with vl (R157). -/
def Hart.vecSources (h : Hart) (r : VRegs) : List Taint :=
  (r.srcV.map fun v => h.taintV[v.toNat]'v.isLt) ++ r.srcX.map h.xt ++
    ((if r.km = 0 then r.srcK else r.km.toNat :: r.srcK).map fun k => h.taintK[Fin.ofNat 8 k]) ++ [h.taintVl]

/-- The destinations' taint: the sources' union, with the old taint where not the whole register is written (R157). `full`
says unmasked, from element 0, with vl = VLMAX. -/
def Hart.vecTaint (h : Hart) (r : VRegs) (full : Bool) (own : List Nat) (srcs : List Taint) : Hart :=
  let h := r.dstV.foldl (fun h v =>
    let old := h.taintV[v.toNat]'v.isLt
    { h with taintV := h.taintV.set v.toNat (unionTaint h.issued own (if full then srcs else old :: srcs)) v.isLt }) h
  r.dstK.foldl (fun h k =>
    let old := h.taintK[Fin.ofNat 8 k]
    { h with taintK := h.taintK.set (Fin.ofNat 8 k) (unionTaint h.issued own (if full then srcs else old :: srcs)) }) h

/-- Unmasked from element 0 at vl = VLMAX (R157). -/
def Hart.wholeReg (h : Hart) (r : VRegs) : Bool := r.km = 0 && h.vst = 0 && h.vln = h.vlmax

/-- An instruction with vl = 0 or vstart ≥ vl: vstart to 0 and nothing else but the dirty bits (R156, R157). -/
def vecEmpty (r : VRegs) : M Unit := do
  modHart fun h => { h.markDirty r with vstart := 0 }
  retire 4

/-- The end of a vector instruction: taint from the sources captured at issue, dirty bits, vstart to 0 (R55, R157). -/
def vecDone (r : VRegs) (full : Bool) (own : List Nat) (srcs : List Taint) : M Unit := do
  modHart fun h => { (h.vecTaint r full own srcs).markDirty r with vstart := 0 }
  retire 4

/-- A stop on a poisoned register element: elements below it are complete, and the destinations are dirty (R55, R172, R399). -/
def vecPoison {α : Type} (r : VRegs) (at' elem : Nat) : M α := do
  modHart fun h => { h.markDirty r with vstart := BitVec.ofNat 12 at' }
  trapReg 9 elem

/-- The 64-bit words of registers that hold elements which an instruction reads, as (register, word); a TAP6 element may lie in two. -/
def readWords (rd : List (BitVec 5 × Nat × Nat)) : List (BitVec 5 × Nat) :=
  (rd.flatMap fun e => [(e.1, e.2.1 * e.2.2 / 64), (e.1, (e.2.1 * e.2.2 + e.2.1 - 1) / 64)]).foldl
    (fun acc e => if acc.contains e then acc else acc ++ [e]) []
/-- Latent poison: a word read whose poisoned bytes belong to no element that the instruction, which completes, reads as an active one is
logged and stays poisoned (R172, log 106). -/
def State.logLatent (s : State) (h : Hart) (rd : List (BitVec 5 × Nat × Nat)) : State :=
  ((readWords rd).filter fun e => getField (h.vp e.1) (8 * e.2) 8 != 0).foldl
    (fun s _ => s.logError 3 5 (coreOf s.cur) (bits h.sxlat.toNat 63 48) 0) s
/-- `logLatent` where a register named as a source holds poison at all. -/
def noteLatent (r : VRegs) (h : Hart) (rd : Unit → List (BitVec 5 × Nat × Nat)) : M Unit :=
  if r.srcV.all fun v => h.vp v = 0 then pure () else modState fun s => s.logLatent h (rd ())

/-- The elements from vstart to n-1 in ascending order: the active ones are checked, then worked on; the answer is the hart
and the first element that failed its check (R158). -/
def elemLoop (act : Nat → Bool) (bad : Hart → Nat → Bool) (f : Hart → Nat → Hart) : List Nat → Hart → Hart × Option Nat
  | [], h => (h, none)
  | i :: r, h =>
    if act i then (if bad h i then (h, some i) else elemLoop act bad f r (f h i)) else elemLoop act bad f r h

/-- The indices a ≤ i < b. -/
def idxRange (a b : Nat) : List Nat := (List.range (b - a)).map fun i => a + i

/-- The chute a second source is drawn from (R93). -/
def chuteOf (ok : BitVec 2) (src : BitVec 5) : Option Nat := if ok = 3 then some (src.toNat % 16) else none

/-- The second operand's registers by its kind (R93). -/
def srcRegsV (ok : BitVec 2) (src : BitVec 5) : List (BitVec 5) := if ok = 0 then [src] else []
def srcRegsX (ok : BitVec 2) (src : BitVec 5) : List (BitVec 5) := if ok = 1 then [src] else []

/-- b(i): the second operand of element i (R153, R154). `h0` is the hart at issue and `c` its chute. -/
def operandB (h0 : Hart) (c : Option Chute) (ok : BitVec 2) (src : BitVec 5) (signed : Bool) (s : Nat) (h : Hart) (i : Nat) : Nat :=
  match c with
  | some c => c.elem s (i - h0.vst)
  | none =>
    if ok = 0 then h.elem src s i
    else if ok = 1 then (h0.xr src).toNat % 2 ^ s
    else if signed then ofSigned s (toSigned 5 src.toNat) else src.toNat % 2 ^ s

/-- The trimmed length of an instruction with a chute source, its chute, and the wait (R154). -/
def chuteTrim (q : Option Nat) : M (Nat × Option Chute) := do
  let h ← getHart
  match q with
  | none => return (h.vln, none)
  | some q =>
    let c := (← getCrew).chute q
    match trimTo h.vst h.vln h.bl (c.avail h.ew) with
    | some n => return (n, some c)
    | none => stall (.chute q)

/-- The tag of the pops of a copy-fed chute (R154, R214). -/
def popTag (c : Option Chute) : M (List Nat) := do
  match c with
  | some c => if c.copyFed then return [← popReadTag] else return []
  | none => return []

/-- vl written with a trimmed length, and its taint united with the pop tag (R154, R157). -/
def trimVl (n : Nat) (own : List Nat) : M Unit := modHart fun h =>
  if n = h.vln then h else { h with vl := BitVec.ofNat 12 n, taintVl := unionTaint h.issued own [h.taintVl] }

/-- The course of an element-wise instruction (R152 to R158, R172): `reads` names the registers, widths and indices that
active element i reads, `f` works on element i given b. An instruction with a chute source checks its poison before it writes vl: R154 and R172
do not say whether the trap of R172 leaves vl trimmed, and here it keeps vl (log 123). -/
def vecRun (r : VRegs) (ok : BitVec 2) (src : BitVec 5) (signed : Bool) (legal : Hart → Bool)
    (reads : Hart → Nat → List (BitVec 5 × Nat × Nat)) (readsB : Hart → Nat → Bool) (act : Hart → Nat → Bool)
    (f : (Hart → Nat → Nat) → Hart → Nat → Hart) : M Unit := do
  vecIssue legal
  let h ← getHart
  if h.vst ≥ h.vln then vecEmpty r
  else
    let (n, c) ← chuteTrim (chuteOf ok src)
    let s := h.ew
    let bReg (i : Nat) : List (BitVec 5 × Nat × Nat) := if ok = 0 then [(src, s, i)] else []
    let bad (x : Hart) (i : Nat) : Bool :=
      (reads x i ++ (if readsB x i then bReg i else [])).any fun e => x.elemBad e.1 e.2.1 e.2.2
    let badC (i : Nat) : Bool := match c with | some c => readsB h i && c.elemBad s (i - h.vst) | none => false
    let rng := idxRange h.vst n
    modHart fun x => x.markDirty r
    if c.isSome then
      match rng.find? fun i => act h i && (bad h i || badC i) with
      | some i => trapReg 9 i
      | none => pure ()
    let srcs := h.vecSources r
    let full := h.wholeReg r && n = h.vln
    let own ← popTag c
    trimVl n own
    let (h', stop) := elemLoop (act h) bad (f (operandB h c ok src signed s)) rng (← getHart)
    modHart fun _ => h'
    match stop with
    | some i => vecPoison r i i
    | none =>
      match chuteOf ok src with
      | some q => modCrew fun x => x.mapChute q fun x => x.consume s (n - h.vst)
      | none => pure ()
      noteLatent r h fun _ => (rng.filter (act h)).flatMap fun i => reads h i ++ (if readsB h i then bReg i else [])
      vecDone r full own srcs

/-- Element i is active by the mask (R155). -/
def actMask (km : BitVec 3) (h : Hart) (i : Nat) : Bool := h.maskOn km i

end Sys2Proof.Machine
end

