-- ==== Sys2Proof/Machine/Engine.lean ====
section
/-! DEFINITION. How an engine that works on a hart's command reads and writes memory (10_memory_model R213, 11_chutes_copies
R227, R229, 20_context R346, 26_reliability R417, 28_worlds R453), and how a command names an object. -/

namespace Sys2Proof.Machine

/-- An engine at work on one command: who it writes as, the view it reads, its translation, and what the violation log says
of it (R344). -/
structure Agent where
  who : Writer
  view : View
  rq : Req
  path : Nat
  hart : Nat
  cmd : Nat
  pc : Nat
  deriving DecidableEq, Repr

/-- Why an engine's access does not complete: a status code of R228 with the virtual and physical address, or the answer of
another device is awaited. -/
inductive EFault where
  | code (c va pa : Nat)
  | wait
  deriving DecidableEq, Repr

/-- The code of a refused access at a device: 1 at the host, 9 at a peer (R437). -/
def devCode (dev : Nat) : Nat := if dev = 255 then 1 else 9

/-- A read of local memory by an engine: refused, poisoned or failing its MAC, else its bytes and whether they carry poison,
which only a chute destination accepts (R417). -/
def State.engLocal (s : State) (ag : Agent) (carry : Bool) (va pa n : Nat) (bytes : List Byte) :
    State × Except EFault (List Byte × Bool) :=
  if s.readRefused ag.rq.world pa n then (s, .error (.code 1 va pa))
  else
    match (linesOf pa n).find? fun l => s.macBad (l * 64) with
    | some l => (s, .error (.code 5 va (l * 64)))
    | none =>
      match (linesOf pa n).find? fun l => s.poisoned (l * 64) with
      | some l =>
        if carry then (s.logError 5 (unitOf (l * 64)) (s.locOf (l * 64)) ag.rq.ctx (l * 64), .ok (bytes, true))
        else (s, .error (.code 4 va (l * 64)))
      | none => (s, .ok (bytes, false))

/-- One piece of a read, within a 64-byte line of addresses. The Vein and the Sluice, paths 3 and 4, reach no other device (R203). -/
def State.engGet (s : State) (ag : Agent) (carry : Bool) (va n : Nat) : State × Except EFault (List Byte × Bool) :=
  match s.locate ag.rq va .read with
  | (s, .error c) => (s, .error (.code c va 0))
  | (s, .ok (.chute _)) => (s, .error (.code 1 va 0))
  | (s, .ok (.local pa)) => s.engLocal ag carry va pa n (s.viewBytes ag.view ag.who pa n)
  | (s, .ok (.tolerant pa odd)) =>
    s.engLocal ag carry va pa (tolCount odd n) (s.tolBytes ag.view ag.who pa odd n)
  | (s, .ok (.remote dev pa)) =>
    if ag.path ≥ 3 then (s, .error (.code 1 va 0))
    else match s.remoteAccess ag.hart ag.cmd ag.rq.ctx dev (.read pa n) with
    | (s, .error _) => (s, .error .wait)
    | (s, .ok (some d)) => (s, .ok (d, false))
    | (s, .ok none) => (s, .error (.code (devCode dev) va 0))
  | (s, .ok (.remoteTol dev pa odd)) =>
    if ag.path ≥ 3 then (s, .error (.code 1 va 0))
    else match s.remoteTolRead ag.hart ag.cmd ag.rq.ctx dev pa odd n with
    | (s, .error _) => (s, .error .wait)
    | (s, .ok (some d)) => (s, .ok (d, false))
    | (s, .ok none) => (s, .error (.code (devCode dev) va 0))

/-- A read of `n` bytes in pieces that end at multiples of 64: the bytes below the first fault with their poison, and the
fault. `k` bounds the pieces. -/
def State.engRead (ag : Agent) (carry : Bool) : Nat → State → Nat → Nat → List (Byte × Bool) → State × List (Byte × Bool) × Option EFault
  | 0, s, _, _, acc => (s, acc, none)
  | k + 1, s, va, n, acc =>
    if n = 0 then (s, acc, none)
    else
      let m := min n (64 - va % 64)
      match s.engGet ag carry va m with
      | (s, .error e) => (s, acc, some e)
      | (s, .ok (bs, bad)) => State.engRead ag carry k s ((va + m) % 2 ^ 64) (n - m) (acc ++ bs.map fun b => (b, bad))

/-- The bytes of a range read by an engine, poison refused. -/
def State.engBytes (s : State) (ag : Agent) (va n : Nat) : State × Except EFault (List Byte) :=
  match State.engRead ag false (n / 64 + 2) s va n [] with
  | (s, _, some e) => (s, .error e)
  | (s, bs, none) => (s, .ok (bs.map Prod.fst))

/-- A line that a write of `n` bytes covers in part and that fails its MAC: it cannot be merged (R451, R453). -/
def State.partBad (s : State) (pa n : Nat) : Option Nat :=
  (linesOf pa n).find? fun l => s.macBad (l * 64) && !(pa ≤ l * 64 && l * 64 + 64 ≤ pa + n)

/-- Some word of a range in the context table takes no store now (R332). -/
def State.ctxRefuses (s : State) (pa n : Nat) : Bool :=
  (List.range ((pa + n - 1) / 8 - pa / 8 + 1)).any fun j =>
    let o := (pa / 8 + j) * 8 - Config.ctxTab
    (ctxStore (s.ctxState (o / 128)) (o % 128 / 8) 0 0).isNone

/-- The check of one piece of a write before it is made (R229). -/
def State.engProbe (s : State) (ag : Agent) (va n : Nat) : State × Option EFault :=
  match s.locate ag.rq va .write with
  | (s, .error c) => (s, some (.code c va 0))
  | (s, .ok (.chute _)) => (s, some (.code 1 va 0))
  | (s, .ok (.local pa)) =>
    if s.readRefused ag.rq.world pa n || (if inCtxTab pa then s.ctxRefuses pa n else s.writeRefused ag.rq.world pa n) then (s.noteSpent ag.rq.world pa n, some (.code 1 va pa))
    else (s, (s.partBad pa n).map fun l => .code 5 va (l * 64))
  | (s, .ok (.tolerant pa odd)) =>
    if odd || n % 2 = 1 || s.writeRefused ag.rq.world pa (n / 2) then (s.noteSpent ag.rq.world pa (n / 2), some (.code 1 va pa))
    else (s, (s.partBad pa (n / 2)).map fun l => .code 5 va (l * 64))
  | (s, .ok (.remote _ _)) => (s, none)
  | (s, .ok (.remoteTol _ _ odd)) => (s, if odd || n % 2 = 1 then some (.code 1 va 0) else none)

/-- A write sent to another device, and its acknowledgement. -/
def State.engSend (s : State) (ag : Agent) (va dev : Nat) (body : FlitBody) : State × Option EFault :=
  match s.remoteAccess ag.hart ag.cmd ag.rq.ctx dev body with
  | (s, .error _) => (s, some .wait)
  | (s, .ok (some _)) => (s, none)
  | (s, .ok none) => (s, some (.code (devCode dev) va 0))

/-- One piece of a write. -/
def State.engPut (s : State) (ag : Agent) (va : Nat) (bytes : List Byte) : State × Option EFault :=
  match s.engProbe ag va bytes.length with
  | (s, some e) => (s, some e)
  | (s, none) =>
    match s.locate ag.rq va .write with
    | (s, .ok (.local pa)) =>
      match s.storeAt ag.rq.world ag.who pa bytes 0 with
      | some s => (s, none)
      | none => (s, some (.code 1 va pa))
    | (s, .ok (.tolerant pa _)) => (s.writeBytes ag.who pa (tolPack bytes) 0, none)
    | (s, .ok (.remote dev pa)) => s.engSend ag va dev (.write pa bytes)
    | (s, .ok (.remoteTol dev pa _)) => s.engSend ag va dev (.write pa (tolPack bytes))
    | (s, _) => (s, some (.code 1 va 0))

/-- The bytes of the next piece of a write: to a line's end, or to a multiple of 8 where the line is refused in part or holds context
records; to another device all that one leaf can hold, so that a unit is refused whole (R229, R332). -/
def State.engCut (s : State) (ag : Agent) (va n : Nat) : Nat :=
  let line := min n (64 - va % 64)
  match (s.locate ag.rq va .write).2 with
  | .ok (.remote _ _) => min n (0x1_0000 - va % 0x1_0000)
  | .ok (.remoteTol _ _ _) => min n (0x1_0000 - va % 0x1_0000)
  | .ok (.local pa) => if inCtxTab pa || (s.engProbe ag va line).2.isSome then min n (8 - va % 8) else line
  | _ => line

/-- A write in the pieces of engCut: how many bytes were written, and the fault that stopped it. -/
def State.engWrite (ag : Agent) : Nat → State → Nat → List Byte → Nat → State × Nat × Option EFault
  | 0, s, _, _, w => (s, w, none)
  | k + 1, s, va, bytes, w =>
    if bytes.isEmpty then (s, w, none)
    else
      let m := s.engCut ag va bytes.length
      match s.engPut ag va (bytes.take m) with
      | (s, some e) => (s, w, some e)
      | (s, none) => State.engWrite ag k s ((va + m) % 2 ^ 64) (bytes.drop m) (w + m)

/-- The check of a piece that lies at another device and is not the whole of its unit: the host's translation, or at a peer a masked write
of no bits of its first and its last byte (R229, R432, log 112). -/
def State.engAsk (s : State) (ag : Agent) (va n : Nat) : State × Option EFault :=
  let ask (s : State) (dev : Nat) (body : FlitBody) : State × Option EFault := s.engSend ag va dev body
  let peer (s : State) (dev pa n : Nat) : State × Option EFault :=
    match ask s dev (.writeBits pa 0 0) with
    | (s, none) => ask s dev (.writeBits (pa + n - 1) 0 0)
    | e => e
  match s.locate ag.rq va .write with
  | (s, .ok (.remote dev pa)) => if dev = 255 then ask s 255 (.write pa []) else peer s dev pa n
  | (s, .ok (.remoteTol dev pa _)) => if dev = 255 then ask s 255 (.write pa []) else peer s dev pa (n / 2)
  | (s, _) => (s, none)

/-- The check of a whole range before any of it is written; `many` where it has more than one piece. -/
def State.engProbeAll (ag : Agent) (many : Bool) : Nat → State → Nat → Nat → State × Option EFault
  | 0, s, _, _ => (s, none)
  | k + 1, s, va, n =>
    if n = 0 then (s, none)
    else
      let m := s.engCut ag va n
      match s.engProbe ag va m with
      | (s, some e) => (s, some e)
      | (s, none) =>
        match (if many || m < n then s.engAsk ag va m else (s, none)) with
        | (s, some e) => (s, some e)
        | (s, none) => State.engProbeAll ag (many || m < n) k s ((va + m) % 2 ^ 64) (n - m)

/-- An event of an engine in its context's violation log (R344, R346). -/
def State.engLog (s : State) (ag : Agent) (kind code addr : Nat) : State :=
  s.logViolation ⟨ag.rq.ctx, kind, ag.path, code, crewOf ag.hart, false, ag.pc, addr⟩

/-- A failing read of a command's operands entered in the logs: an error response, poison or a MAC failure, each of which the command
answers with code 1 (R285, R314, R346, R417, R453). -/
def State.cmdFault (s : State) (ag : Agent) (c va pa : Nat) : State :=
  if c = 5 then (s.engLog ag 4 8 va).logError 15 (unitOf pa) (s.locOf pa) ag.rq.ctx pa
  else if c = 4 then (s.engLog ag 1 1 va).logError 5 (unitOf pa) (s.locOf pa) ag.rq.ctx pa
  else if c = 2 || c = 3 then s else s.engLog ag 1 1 va

/-! ### What hardware reads and writes for itself: records, tables and the crew save area -/

/-- Why hardware may not read some bytes of one line for itself: another world's frame, poison or a MAC failure, which is logged (R417,
R448, R453). -/
def State.hwLine (s : State) (rq : Req) (va pa m : Nat) : State × Option Nat :=
  if s.readRefused rq.world pa m then (s, some 1)
  else if s.poisoned pa then (s.logError 5 (unitOf pa) (s.locOf pa) rq.ctx pa, some 9)
  else if s.macBad pa then
    ((s.logError 15 (unitOf pa) (s.locOf pa) rq.ctx pa).logViolation ⟨rq.ctx, 4, 7, 8, 0, false, 0, va⟩, some 8)
  else (s, none)

/-- Bytes read at module scope under a context's translation, in pieces that end at multiples of 64: none for a fault, an
error response, another device, poison or a MAC failure, which are logged (R350, R367, R409). `k` bounds the pieces. -/
def State.hwRead (rq : Req) : Nat → State → Nat → Nat → List Byte → State × Except Nat (List Byte)
  | 0, s, _, _, acc => (s, .ok acc)
  | k + 1, s, va, n, acc =>
    if n = 0 then (s, .ok acc)
    else
      let m := min n (64 - va % 64)
      match s.locate rq va .read with
      | (s, .error c) => (s, .error c)
      | (s, .ok (.local pa)) =>
        match s.hwLine rq va pa m with
        | (s, some c) => (s, .error c)
        | (s, none) => State.hwRead rq k s ((va + m) % 2 ^ 64) (n - m) (acc ++ s.homeBytes pa m)
      | (s, .ok (.tolerant pa odd)) =>
        match s.hwLine rq va pa (tolCount odd m) with
        | (s, some c) => (s, .error c)
        | (s, none) => State.hwRead rq k s ((va + m) % 2 ^ 64) (n - m) (acc ++ tolImg (s.homeBytes pa (tolCount odd m)) odd m)
      | (s, .ok _) => (s, .error 1)

/-- A little-endian number read by hardware. -/
def State.hwNat (s : State) (rq : Req) (va n : Nat) : State × Except Nat Nat :=
  match State.hwRead rq (n / 64 + 2) s va n [] with
  | (s, .ok b) => (s, .ok (leValue b))
  | (s, .error c) => (s, .error c)

/-- Bytes written at module scope under a context's translation: false when a piece is refused (R403, R409). -/
def State.hwWrite (rq : Req) : Nat → State → Nat → List Byte → State × Bool
  | 0, s, _, _ => (s, true)
  | k + 1, s, va, bytes =>
    if bytes.isEmpty then (s, true)
    else
      let m := min bytes.length (64 - va % 64)
      match s.locate rq va .write with
      | (s, .ok (.local pa)) =>
        match s.storeAt rq.world .home pa (bytes.take m) 3 with
        | none => (s.noteSpent rq.world pa m, false)
        | some s => State.hwWrite rq k s ((va + m) % 2 ^ 64) (bytes.drop m)
      | (s, .ok (.tolerant pa odd)) =>
        if odd || m % 2 = 1 || s.writeRefused rq.world pa (m / 2) then (s.noteSpent rq.world pa (m / 2), false)
        else State.hwWrite rq k (s.writeBytes .home pa (tolPack (bytes.take m)) 3) ((va + m) % 2 ^ 64) (bytes.drop m)
      | (s, _) => (s, false)

/-- How hardware translates for a crew that runs a context: in supervisor mode (R406). -/
def State.crewReq (s : State) (n ctx : Nat) : Req := ⟨ctx, s.ctxWorld ctx, s.ctxRoot ctx, true, n / 4, false⟩

/-! ### Objects named by a command of the executing hart (R247, R276, R314, R466) -/

/-- The executing hart as an agent of path `path` (0 its own). -/
def State.hartAgent (s : State) (path : Nat) : Agent :=
  ⟨.hart s.cur false, hartView s.cur, s.reqFor s.cur, path, s.cur, 0, s.me.pc.toNat⟩

/-- The place of a 64-byte object in pool SRAM of this module or of a peer, aligned to 64, or the code 7, 2, 3 or 1; an error
response is logged (R245, R346). -/
def State.objPlace (s : State) (va : Nat) (acc : Acc) : State × Except Nat Loc :=
  if va % 64 ≠ 0 then (s, .error 7)
  else
    let ag := s.hartAgent (s.cur.val % 2)
    let refuse (s : State) : State × Except Nat Loc := (s.engLog ag 1 1 va, .error 1)
    match s.locate ag.rq va acc with
    | (s, .error 1) => refuse s
    | (s, .error c) => (s, .error c)
    | (s, .ok (.local pa)) =>
      if !inPool pa || s.readRefused ag.rq.world pa 64 then refuse s
      else if acc == .write && s.spentIn pa 64 then refuse (s.noteSpent ag.rq.world pa 64)
      else (s, .ok (.local pa))
    | (s, .ok (.remote dev pa)) => if dev = 255 || !inPool pa then refuse s else (s, .ok (.remote dev pa))
    | (s, .ok _) => refuse s

end Sys2Proof.Machine
end

