-- ==== Sys2Proof/Machine/Barrier.lean ====
section
/-! DEFINITION. Barriers (12_barrier R241 to R249). -/

namespace Sys2Proof.Machine

/-! ### The record (R241), as the number its 64 bytes make -/

def brState (v : Nat) : Nat := bits v 1 0
def brScope (v : Nat) : Nat := bits v 6 4
def brOcrew (v : Nat) : Nat := bits v 14 7
def brCtx (v : Nat) : Nat := bits v 31 16
def brExpect (v : Nat) : Nat := bits v 47 32
def brPhase (v : Nat) : Nat := bits v 95 64
def brLast (v : Nat) : Nat := bits v 103 96
def brFail (v : Nat) : Bool := v.testBit 104
def brArrived (v : Nat) : Nat := bits v 143 128
def brEarly (v : Nat) : Nat := bits v 159 144
def brPend (v : Nat) : Nat := bits v 175 160
def brXbytes (v : Nat) : Nat := bits v 255 192
def brCounted (v : Nat) : Nat := bits v 319 256
def brEarlyx (v : Nat) : Nat := bits v 383 320

/-- One turn of try_complete's loop (R244). -/
def brComplete (v : Nat) : Nat :=
  if brArrived v = brExpect v && brPend v = 0 then
    let code := if brFail v then 9 else if brXbytes v ≠ 0 && brCounted v ≠ brXbytes v then 10 else 0
    let v' := putBits v 96 8 code
    let v' := putBits v' 104 1 0
    let v' := putBits v' 64 32 (brPhase v + 1)
    let v' := putBits v' 128 16 (brEarly v)
    let v' := putBits v' 192 64 (brEarlyx v)
    let v' := putBits v' 144 16 0
    let v' := putBits v' 320 64 0
    putBits v' 256 64 0
  else v

/-- try_complete: the loop turns at most twice, since the second turn leaves no early arrival (R244). -/
def brTry (v : Nat) : Nat := brComplete (brComplete v)

/-- arrive of R243, after the checks of alignment, translation and operands: the record, the code, and the phase. -/
def brArrive (v : Nat) (ctxOk inScope : Bool) (m bytes : Nat) : Nat × Nat × Nat :=
  if brState v = 2 then (v, 8, 0)
  else if brState v ≠ 1 || !ctxOk then (v, 4, 0)
  else if !inScope then (v, 6, 0)
  else if brArrived v < brExpect v then
    if brArrived v + m > brExpect v then (v, 7, 0)
    else (brTry (putBits (putBits v 128 16 (brArrived v + m)) 192 64 (brXbytes v + bytes)), 0, brPhase v)
  else if brEarly v + m > brExpect v then (v, 11, 0)
  else (brTry (putBits (putBits v 144 16 (brEarly v + m)) 320 64 (brEarlyx v + bytes)), 0, (brPhase v + 1) % 2 ^ 32)

/-- A hart lies inside a record's scope, measured from OCREW; an arrival over Filgeup Link (none) only inside system
(R243). -/
def brInScope (v : Nat) (h : Option Nat) : Bool :=
  match h with
  | none => brScope v = 4
  | some h =>
    match brScope v with
    | 0 => crewOf h = brOcrew v
    | 1 => crewOf h / 4 = brOcrew v / 4
    | 2 => crewOf h / 32 = brOcrew v / 32
    | _ => true

/-- The result of a wait for phase p, or none while it is not complete (R245, R248). -/
def brResult (v p : Nat) (ctxOk : Bool) : Option Nat :=
  if brState v = 2 then some 8
  else if brState v ≠ 1 || !ctxOk then some 4
  else
    let d := (brPhase v + 2 ^ 32 - p % 2 ^ 32) % 2 ^ 32
    if d = 0 || d ≥ 2 ^ 31 then none else if d = 1 then some (brLast v) else some 12

/-! ### At the home -/

def State.brRec (s : State) (pa : Nat) : Nat := s.homeNat pa 64
def State.brSet (s : State) (pa v : Nat) : State := s.homeTake pa 64 v

/-- Copies attached to a record no longer are: what they detach from is no open phase of theirs (R242). -/
def State.voidAttach (s : State) (pa : Nat) : State :=
  let void (c : CopyCmd) : CopyCmd := if c.attach = some (256, pa) then { c with attach := none } else c
  { s with harts := s.harts.map (fun h => { h with copies := h.copies.map void }),
           parked := s.parked.map fun p => { p with copies := p.copies.map void } }

/-- The record torn down: the home no longer holds it (R241, R242). -/
def State.brTearDown (s : State) (pa : Nat) : State :=
  let s := s.brSet pa (putBits (s.brRec pa) 0 2 2)
  { s with held := s.held.filter fun h => !(h.kind == .barrier && h.pa == pa) }

/-- BINIT at the home (R242, R248): `ocrew` is 0 and `remote` true for one that came over Filgeup Link. The answer is the
code and the record's phase after the action. -/
def State.brInit (s : State) (pa ctx ocrew : Nat) (remote : Bool) (cfg : Nat) : State × Nat × Nat :=
  let v := s.brRec pa
  let count := cfg % 2 ^ 16
  let scope := bits cfg 18 16
  if cfg ≥ 2 ^ 19 || scope > 4 || (remote && scope < 3) then (s, 7, brPhase v)
  else if brState v = 3 then (s, 4, brPhase v)
  else if brState v = 1 then
    if brCtx v ≠ ctx then (s, 4, brPhase v)
    else if count = 0 then (s.brTearDown pa, 0, brPhase v)
    else if brArrived v ≠ 0 || brEarly v ≠ 0 || brPend v ≠ 0 then (s, 5, brPhase v)
    else (s.brSet pa (putBits (putBits (putBits v 32 16 count) 4 3 scope) 7 8 ocrew), 0, brPhase v)
  else if count = 0 then (s, 0, brPhase v)
  else
    let w := count * 2 ^ 32 + ctx * 2 ^ 16 + ocrew * 2 ^ 7 + scope * 2 ^ 4 + 1
    let keep := putBits (putBits (putBits v 0 64 0) 64 64 0) 128 256 0
    let s := (s.voidAttach pa).brSet pa (keep + w)
    ({ s with held := ⟨.barrier, pa, 64, ctx, 0⟩ :: s.held }, 0, 0)

/-- A copy attaches to the open phase of a context's record (R244). -/
def State.brAttach (s : State) (pa ctx : Nat) : Option State :=
  let v := s.brRec pa
  if brState v = 1 && brCtx v = ctx then some (s.brSet pa (putBits v 160 16 (brPend v + 1))) else none

/-- A copy detaches, having performed `bytes` (R244). MODEL'S CHOICE (log 105): a peer's detachment that comes after the record was torn
down and opened again counts in the new phase while PEND is not 0, and otherwise does nothing. -/
def State.brDetach (s : State) (pa bytes : Nat) (failed : Bool) : State :=
  let v := s.brRec pa
  if brState v = 1 && brPend v ≠ 0 then
    let v := putBits v 256 64 (brCounted v + bytes)
    let v := if failed then putBits v 104 1 1 else v
    s.brSet pa (brTry (putBits v 160 16 (brPend v - 1)))
  else s

/-- The context of the admission window that admits a source device's write of a range, or none (R438). -/
def State.admitted (s : State) (src pa n : Nat) (write : Bool) : Option Nat :=
  (s.admission.find? fun w => w.src = src && w.base ≤ pa && pa + n ≤ w.limit + 1 && (if write then w.write else w.read)).map Window.ctx

/-- The status word that a barrier command returns (R247). -/
def brWord (phase code : Nat) : Nat := phase % 2 ^ 32 * 2 ^ 32 + code

/-- A record's frame takes no write of a world: another world's, or one that takes no further write (R448, R451). -/
def State.writeBarred (s : State) (world pa n : Nat) : Bool := s.readRefused world pa n || s.spentIn pa n
/-- A notice from source device `src` applied at the record's home, with the status word it answers; a refused one answers
none (R243, R246, R438, R448). An attachment is checked for the window's context, since the record must be open for it, and an arrival is not
(R243, R244, log 127). -/
def State.brNotice (s : State) (n : Notice) : State × Option Nat :=
  let ok (src pa : Nat) : Option Nat :=
    if inPool pa && pa % 64 = 0 then (s.admitted src pa 64 true).filter fun ctx => !s.writeBarred (s.ctxWorld ctx) pa 64 else none
  match n with
  | .bind src pa count scope =>
    match ok src pa with
    | none => (s, none)
    | some ctx => let r := s.brInit pa ctx 0 true (scope * 2 ^ 16 + count); (r.1, some (brWord r.2.2 r.2.1))
  | .arrive src pa units bytes =>
    match ok src pa with
    | none => (s, none)
    | some _ =>
      let v := s.brRec pa
      if units = 0 || 65535 < units || 2 ^ 40 ≤ bytes then (s, some 7)
      else
        let r := brArrive v true (brInScope v none) units bytes
        (s.brSet pa r.1, some (brWord r.2.2 r.2.1))
  | .attach src pa =>
    match ok src pa with
    | none => (s, none)
    | some ctx =>
      match s.brAttach pa ctx with
      | none => (s, none)
      | some s => (s, some 0)
  | .detach src pa bytes failed =>
    match ok src pa with
    | none => (s, none)
    | some _ => (s.brDetach pa bytes failed, some 0)

/-- BARRIER_NOTICE: a notice applied at the home (R246). -/
def execBarrierNotice (notice : Notice) (s : State) : Out := .next (s.brNotice notice).1

/-! ### The instructions (R247, R248) -/

/-- The phase of a status word for which the spec states none: the record was not reached (log 2). -/
def freePhase : M Nat := do
  let n ← liftOp fun s => let d := s.draw; (d.2, d.1)
  return (Config.freeWord n).toNat % 2 ^ 32

/-- A status word in rd, with an empty taint set. -/
def brDone (rd : BitVec 5) (phase code : Nat) : M Unit := do
  writeX rd (BitVec.ofNat 64 (brWord phase code)) noTaint
  retire 4

/-- A request of the hart's own to a peer was lost: no port is up, or the link failed it (R435, R436). -/
def State.linkLost (s : State) (dev : Nat) (body : FlitBody) : Bool :=
  match s.me.remote.find? fun r => r.ticket == 0 && r.dev == dev && r.body == body with
  | some r => r.lost
  | none => true

/-- What a record's home on another device answers to a request of the executing hart, or the code: 14 when the link failed, and for an
arrival also when the peer refused; else 1. Each is an error response, with the event logged (R24, R245, R246, R346, R437). -/
def brAsk (va dev : Nat) (arrives : Bool) (body : FlitBody) : M (Except Nat (List Byte)) := do
  let n ← curNum
  match ← doAccess fun s => s.remoteAccess n 0 (s.reqFor s.cur).ctx dev body with
  | some d => return .ok d
  | none =>
    let code := if arrives || (← get).linkLost dev body then 14 else 1
    modState fun s => s.engLog (s.hartAgent (s.cur.val % 2)) 1 code va
    return .error code

/-- A command answered by the record's home on another device. -/
def brRemote (rd : BitVec 5) (va dev : Nat) (arrives : Bool) (body : FlitBody) : M Unit := do
  match ← brAsk va dev arrives body with
  | .ok d => writeX rd (BitVec.ofNat 64 (leValue d)) noTaint; retire 4
  | .error c => brDone rd (← freePhase) c

/-- The own path's earlier accesses performed at a scope: an arrival's release (R220, R248, R437). -/
def barrierRelease (sc : Nat) : M Unit := do
  waitPosted sc
  performReads
  modState fun s => s.releaseAt (s.ownWrite none) sc

/-- The acquire of a wait that observed a completed phase: the own view comes to hold what is performed (R207, R220). -/
def acquireNow : M Unit := do
  let tag ← readTag
  modState fun s => s.performTags s.cur fun t => t.id == tag

/-- BINIT (R242, R248). -/
def execBinit (rd rs1 rs2 : BitVec 5) (s : State) : Out :=
  settle (do
    let h ← getHart
    waitTaint [h.xt rs1, h.xt rs2]
    let n ← curNum
    let cfg := (h.xr rs2).toNat
    match ← liftOp fun s => s.objPlace (h.xr rs1).toNat .write with
    | .error c => brDone rd (← freePhase) c
    | .ok (.local pa) =>
      let r ← liftOp fun s => s.brInit pa (s.reqFor s.cur).ctx (crewOf n) false cfg
      brDone rd r.2 r.1
    | .ok (.remote dev pa) =>
      brRemote rd (h.xr rs1).toNat dev false (.notice (.bind (← get).devnum pa (cfg % 2 ^ 16) (cfg / 2 ^ 16)))
    | .ok _ => brDone rd (← freePhase) 1) s

/-- An arrival of `m` units that declares `bytes`, once its operand is in range (R243, R248). -/
def arrival (rd rs1 : BitVec 5) (srcs : List (BitVec 5)) (operand : Word → Bool × Nat × Nat) (v : Word) : M Unit := do
  let h ← getHart
  waitTaint (srcs.map h.xt)
  let n ← curNum
  let (good, m, bytes) := operand v
  match ← liftOp fun s => s.objPlace (h.xr rs1).toNat .write with
  | .error c => brDone rd (← freePhase) c
  | .ok (.local pa) =>
    if !good then brDone rd 0 7
    else
      barrierRelease (scopeNum (brScope ((← get).brRec pa)))
      let r ← liftOp fun s =>
        let v := s.brRec pa
        let r := brArrive v (brCtx v == (s.reqFor s.cur).ctx) (brInScope v (some n)) m bytes
        (s.brSet pa r.1, r.2)
      brDone rd r.2 r.1
  | .ok (.remote dev pa) =>
    barrierRelease 4
    brRemote rd (h.xr rs1).toNat dev true (.notice (.arrive (← get).devnum pa m bytes))
  | .ok _ => brDone rd (← freePhase) 1

/-- BARR (R248). -/
def execBarr (rd rs1 : BitVec 5) (s : State) : Out :=
  settle (arrival rd rs1 [rs1] (fun _ => (true, 1, 0)) 0) s
/-- BARRX (R248). -/
def execBarrx (rd rs1 rs2 : BitVec 5) (s : State) : Out :=
  settle (do arrival rd rs1 [rs1, rs2] (fun v => (decide (v.toNat < 2 ^ 40), 1, v.toNat)) (← readX rs2)) s
/-- BARRM (R248). -/
def execBarrm (rd rs1 rs2 : BitVec 5) (s : State) : Out :=
  settle (do arrival rd rs1 [rs1, rs2] (fun v => (decide (1 ≤ v.toNat ∧ v.toNat ≤ 65535), v.toNat, 0)) (← readX rs2)) s

/-- The end of a wait: the acquire for a completed phase, and the status word with the phase asked for (R248). -/
def waitDone (rd : BitVec 5) (p code : Nat) : M Unit := do
  if code = 0 || code = 9 || code = 10 || code = 12 then acquireNow else pure ()
  brDone rd p code

/-- BWAIT and BTEST (R248): `test` answers code 13 where a wait would wait. -/
def phaseWait (test : Bool) (rd rs1 rs2 : BitVec 5) : M Unit := do
  let h ← getHart
  waitTaint [h.xt rs1, h.xt rs2]
  let p := (h.xr rs2).toNat / 2 ^ 32
  let answer (r : Option Nat) : M Unit :=
    match r with
    | some c => waitDone rd p c
    | none => if test then brDone rd p 13 else stall .barrier
  match ← liftOp fun s => s.objPlace (h.xr rs1).toNat .read with
  | .error c => brDone rd (← freePhase) c
  | .ok (.local pa) =>
    let v := (← get).brRec pa
    answer (brResult v p (brCtx v == ((← get).reqFor (← curNum)).ctx))
  | .ok (.remote dev pa) =>
    match ← brAsk (h.xr rs1).toNat dev false (.read pa 64) with
    | .error c => brDone rd p c
    | .ok d =>
      modHart fun h => { h with remote := h.remote.filter fun r => r.ticket != 0 }
      answer (brResult (leValue d) p true)
  | .ok _ => brDone rd (← freePhase) 1

/-- BWAIT (R248). -/
def execBwait (rd rs1 rs2 : BitVec 5) (s : State) : Out := settle (phaseWait false rd rs1 rs2) s
/-- BTEST (R248). -/
def execBtest (rd rs1 rs2 : BitVec 5) (s : State) : Out := settle (phaseWait true rd rs1 rs2) s

end Sys2Proof.Machine
end

