-- ==== Sys2Proof/Machine/Copy.lean ====
section
/-! DEFINITION. The copy engine: the commands of the COPY major, their units, SCATR trains and completion
(11_chutes_copies R225 to R240, 10_memory_model R221, 23_group R387). -/

namespace Sys2Proof.Machine

/-! ### Chutes as destinations (R225, R226, R237) -/

def ChSrc.isToken : ChSrc → Bool
  | .token _ => true
  | _ => false

/-- A token chute: it holds or has reserved a token (R237). -/
def Chute.isToken (c : Chute) : Bool := !c.tokens.isEmpty || c.entries.any fun e => e.src.isToken
/-- The chute holds or has reserved data entries (R237). -/
def Chute.hasData (c : Chute) : Bool := c.resv != 0 || c.feeder.isSome || c.entries.any fun e => !e.src.isToken
/-- The chute of a destination address, whatever the offset (R26, R27). -/
def chuteWindow (va : Nat) : Option Nat :=
  if 0xF0_0000_1000_0000 ≤ va && va < 0xF0_0000_1010_0000 then some ((va - 0xF0_0000_1000_0000) / 0x1_0000) else none

/-! ### Operands (R230 to R233) -/

/-- The fields of a CPY2D shape pair (R231). -/
def CopyCmd.rowb (c : CopyCmd) : Nat := c.p0 % 2 ^ 32
def CopyCmd.rows (c : CopyCmd) : Nat := c.p0 / 2 ^ 32
def CopyCmd.sst (c : CopyCmd) : Int := toSigned 32 (c.p1 % 2 ^ 32)
def CopyCmd.dst (c : CopyCmd) : Int := toSigned 32 (c.p1 / 2 ^ 32)
/-- The element size of GATHR and SCATR (R232, R233). -/
def CopyCmd.esz (c : CopyCmd) : Nat := if c.fn = 2 then c.p1 % 2 ^ 32 else c.p0
/-- The units of a command: bytes for CPY and CPY2D, elements for GATHR and SCATR (R230 to R233). -/
def CopyCmd.total (c : CopyCmd) : Nat :=
  match c.fn with
  | 0 => c.p0
  | 1 => c.rowb * c.rows
  | 2 => c.p1 / 2 ^ 32
  | _ => c.p1 % 2 ^ 32
/-- An address moved by a signed distance. -/
def moveBy (a : Nat) (d : Int) : Nat := (((a : Int) + d) % 2 ^ 64).toNat
/-- Two ranges of bytes overlap. -/
def overlap (a n b m : Nat) : Bool := n != 0 && m != 0 && a < b + m && b < a + n
/-- The lowest byte and the length of the span of `rows` rows from `a` (R231). -/
def rowSpan (a rowb rows : Nat) (st : Int) : Int × Nat :=
  let far := (rows - 1 : Nat) * st
  ((a : Int) + min 0 far, far.natAbs + rowb)

/-- The checks of a command's operands that need no memory access, after those of cpbar: 6, 8 or 7, or 0 (R228). -/
def CopyCmd.issueCode (c : CopyCmd) (copyFed token : Bool) : Nat :=
  let n := c.total
  if c.q.isSome && !copyFed then 6
  else if c.q.isSome && token then 8
  else
    match c.fn with
    | 0 =>
      if c.p0 ≥ 2 ^ 32 || (c.q.isSome && c.p0 % 8 ≠ 0) then 8
      else if c.q.isNone && overlap c.a1 n c.a2 n then 8 else 0
    | 1 =>
      if n ≥ 2 ^ 32 || (c.q.isSome && n % 8 ≠ 0) then 8
      else if c.q.isNone && n ≠ 0 then
        let d := rowSpan c.a1 c.rowb c.rows c.dst
        let s := rowSpan c.a2 c.rowb c.rows c.sst
        if c.rows > 1 && c.dst.natAbs < c.rowb then 8
        else if d.1 < s.1 + s.2 && s.1 < d.1 + d.2 then 8 else 0
      else 0
    | 2 =>
      if c.esz = 0 || c.esz > 4096 || (c.q.isSome && n * c.esz % 8 ≠ 0) then 8
      else if c.q.isNone && overlap c.a1 (n * c.esz) c.a2 (4 * n) then 8
      else if c.a2 % 4 ≠ 0 then 7 else 0
    | _ =>
      if !([1, 2, 4, 8, 16, 32, 64, 128, 256].contains c.esz) || c.p1 ≥ 2 ^ 32 then 8
      else if c.a2 % 8 ≠ 0 then 7 else 0

/-! ### Issue (R227, R228, R236, R244) -/

/-- The status word (R228). -/
def statusWord (done ticket code : Nat) : Word := BitVec.ofNat 64 (done % 2 ^ 32 * 2 ^ 32 + ticket * 2 ^ 16 + code)
/-- The ticket of a hart's n-th command, from 1 modulo 2^16 and skipping 0 (R227). -/
def ticketOf (n : Nat) : Nat := n % 65535 + 1

/-- The record that cpbar.BADDR names, as (device, address), when a copy may attach to it: the check at issue (R236). -/
def State.copyRecord (s : State) (rq : Req) (va : Nat) : State × Option (Nat × Nat) :=
  match s.locate rq va .write with
  | (s, .ok (.local pa)) =>
    if inPool pa && !s.writeBarred rq.world pa 64 && (s.brAttach pa rq.ctx).isSome then (s, some (256, pa)) else (s, none)
  | (s, .ok (.remote dev pa)) => (s, if dev = 255 || !inPool pa then none else some (dev, pa))
  | (s, _) => (s, none)

/-- A record at another device is open, as far as a read of it tells: asked where another issue check fails, which stands behind the check of
cpbar (R228, R236, log 127). -/
def State.peerOpen (s : State) (n : Nat) (rq : Req) (dev pa : Nat) : State × Except AccFault Bool :=
  match s.remoteAccess n 0 rq.ctx dev (.read pa 64) with
  | (s, .error f) => (s, .error f)
  | (s, .ok r) => (s, .ok (match r with | some d => brState (leValue d) = 1 | none => false))

/-- A moving command of the COPY major. An attachment that the record's home refuses, or that is lost with the link, gives 8, as R236 gives a
record that cannot be attached to, though R437 gives a copy's refused request 9 (log 127). MODEL'S CHOICE (log 73): a command that ends with 8 because its CQ can give no token, being
put-fed or holding or reserving data, reserves and appends none. -/
def copyIssue (fn : Nat) (rd rs1 rs2 rs3 : BitVec 5) : M Unit := do
  if fn ≠ 0 && (rs3.getLsbD 0 || rs3 = 0) then illegal
  needAccess
  let h ← getHart
  waitTaint ([rs1, rs2, rs3].map h.xt ++ (if fn = 0 then [] else [h.xt (rs3 + 1)]))
  if h.copies.length ≥ 32 then stall .copySlots
  let n ← curNum
  let rq := (← get).reqFor n
  let cw ← getCrew
  let a1 := (h.xr rs1).toNat
  let bar := h.cpbar.toNat
  let tok : Bool := bar.testBit 1
  let cq := bits bar 5 2
  let tokBad := tok && (!(cw.chute cq).copyFed || (cw.chute cq).hasData)
  if tok && !tokBad && (cw.chute cq).free = 0 then stall (.chute cq)
  let record ← if bar.testBit 0 then liftOp fun s => s.copyRecord rq (bar / 64 * 64) else pure none
  let barBad := tokBad || (bar.testBit 0 && record.isNone)
  let c : CopyCmd := {
    seq := h.copySeq, ticket := ticketOf h.copySeq, fn := fn, a1 := a1, a2 := (h.xr rs2).toNat, p0 := (h.xr rs3).toNat,
    p1 := (h.xr (rs3 + 1)).toNat, rq := rq, pc := h.pc.toNat, q := if fn = 3 then none else chuteWindow a1,
    cq := if tok && !tokBad then some cq else none, attach := none, done := 0, stopAt := 0, bytes := 0, part := [], elem := none, code := 0,
    formed := false, trains := [] }
  let dq := cw.chute (c.q.getD 0)
  let code := if barBad then 8 else c.issueCode dq.copyFed (dq.isToken || (c.cq.isSome && c.cq == c.q))
  let sendAttach (dev pa : Nat) : M Bool := do
    let src := (← get).devnum
    let r ← doAccess fun s => s.remoteAccess n 0 rq.ctx dev (.notice (.attach src pa))
    return r.isSome
  let (attach, code) ← match record with
    | some (dev, pa) =>
      if code ≠ 0 then
        if dev ≠ 256 && (code = 6 || code = 7) then
          pure (none, if ← doAccess fun s => s.peerOpen n rq dev pa then code else 8)
        else pure (none, code)
      else if dev = 256 then
        modState fun s => (s.brAttach pa rq.ctx).getD s
        pure (some (256, pa), code)
      else if ← sendAttach dev pa then pure (some (dev, pa), code)
      else pure (none, 8)
    | none => pure (none, code)
  if c.cq.isSome then modCrew fun x => x.mapChute cq fun q => { q with tokens := q.tokens ++ [c.seq] } else pure ()
  modHart fun h => { h with copySeq := h.copySeq + 1,
                            copies := h.copies ++ [{ c with attach := attach, code := code,
                                                            stopAt := if code = 0 then c.total else 0 }] }
  writeX rd (BitVec.ofNat 64 c.ticket) noTaint
  retire 4

/-- CPY (R230). -/
def execCpy (rd rs1 rs2 rs3 : BitVec 5) (s : State) : Out := settle (copyIssue 0 rd rs1 rs2 rs3) s
/-- CPY2D (R231). -/
def execCpy2d (rd rs1 rs2 rs3 : BitVec 5) (s : State) : Out := settle (copyIssue 1 rd rs1 rs2 rs3) s
/-- GATHR (R232). -/
def execGathr (rd rs1 rs2 rs3 : BitVec 5) (s : State) : Out := settle (copyIssue 2 rd rs1 rs2 rs3) s
/-- SCATR (R233). -/
def execScatr (rd rs1 rs2 rs3 : BitVec 5) (s : State) : Out := settle (copyIssue 3 rd rs1 rs2 rs3) s

/-! ### Units (R225, R226, R229) -/

/-- A command of hart `h` replaced by its new form. -/
def State.setCopy (s : State) (h : Nat) (c : CopyCmd) : State :=
  s.mapHart h fun x => { x with copies := x.copies.map fun d => if d.seq = c.seq then c else d }

/-- The engine working on a command: path C, writes and reads of one command apart from every other's (R205, R213). -/
def CopyCmd.agent (c : CopyCmd) (h : Nat) : Agent :=
  ⟨.engine h .C c.seq, hartView h, c.rq, 2, h, c.seq + 1, c.pc⟩

/-- The answers of other devices to a command, used up. -/
def State.dropAnswers (s : State) (h : Nat) (c : CopyCmd) : State :=
  s.mapHart h fun x => { x with remote := x.remote.filter fun r => r.ticket != c.seq + 1 }

/-- The bytes of whole elements that fill no whole entry or half-word yet: what is left over below the element under way. -/
def CopyCmd.tail (c : CopyCmd) : Nat := if c.fn = 2 then min c.part.length (c.done * c.esz - c.bytes) else 0

/-- The entry that holds the last bytes of a gather that stops inside it: the bytes that no element filled are free (R229, log 73). -/
def State.copyTail (s : State) (h : Nat) (c : CopyCmd) : State × CopyCmd :=
  match c.q with
  | none => (s, c)
  | some q =>
    if c.tail = 0 then (s, c)
    else
      let d := s.draw
      let bs := c.part.take c.tail
      let pad := (leBytesOf 8 (Config.freeWord d.1).toNat).drop c.tail
      let e : ChEntry := ⟨BitVec.ofNat 64 (leValue (bs.map Prod.fst ++ pad)), bs.any Prod.snd, .copy c.seq c.bytes⟩
      (d.2.mapCrew (crewOf h) fun x => x.mapChute q fun y => y.append [e], { c with bytes := c.bytes + c.tail })

/-- A failing access of an engine's command entered in the logs (R228). -/
def State.copyLog (s : State) (ag : Agent) (code va pa : Nat) : State :=
  if code = 1 || code = 9 then s.engLog ag 1 code va
  else if code = 5 then (s.engLog ag 4 8 va).logError 15 (unitOf pa) (s.locOf pa) ag.rq.ctx pa
  else if code = 4 then s.logError 5 (unitOf pa) (s.locOf pa) ag.rq.ctx pa else s

/-- A command stops with a code at a unit; its chute is released; the failing address is logged (R228, R229). -/
def State.copyStop (s : State) (h : Nat) (c : CopyCmd) (code va pa : Nat) : State :=
  let (s, c) := (s.copyLog (c.agent h) code va pa).copyTail h c
  let s := match c.q with
    | some q => s.mapCrew (crewOf h) fun x => x.mapChute q fun y => { y with resv := 0, feeder := none }
    | none => s
  let d := if c.fn ≤ 1 then c.bytes else c.done
  (s.dropAnswers h c).setCopy h { c with code := code, stopAt := d, done := d, part := [], elem := none }

/-- Chute entries of a stream of bytes, eight to an entry, poisoned where a byte is (R226, R417). -/
def entriesOf (seq : Nat) : Nat → Nat → List (Byte × Bool) → List ChEntry
  | 0, _, _ => []
  | k + 1, off, bs =>
    ⟨BitVec.ofNat 64 (leValue ((bs.take 8).map Prod.fst)), (bs.take 8).any Prod.snd, .copy seq off⟩ ::
      entriesOf seq k (off + 8) (bs.drop 8)

/-- The destination address of stream byte `t`, and the bytes that follow it contiguously (R230 to R232). -/
def CopyCmd.dstAt (c : CopyCmd) (t : Nat) : Nat :=
  if c.fn = 1 then moveBy c.a1 ((t / c.rowb : Nat) * c.dst + (t % c.rowb : Nat)) else (c.a1 + t) % 2 ^ 64

/-- A destination range with an odd start or an odd length, which a tolerant page refuses (R227): of the copy, a row, or an element, as
the units of R229 are (log 73). -/
def CopyCmd.oddRange (c : CopyCmd) (t : Nat) : Bool :=
  if c.fn = 1 then c.rowb % 2 = 1 || moveBy c.a1 ((t / c.rowb : Nat) * c.dst) % 2 = 1
  else c.a1 % 2 = 1 || (if c.fn = 0 then c.p0 else c.esz) % 2 = 1

/-- The bytes of the element under way that are read or delivered (R232). -/
def CopyCmd.inElem (c : CopyCmd) : Nat := c.bytes + c.part.length - c.done * c.esz


/-- The bytes of the next read: 64, fewer at the end of a row, an element or the command; for an ordinary destination a read of CPY or
CPY2D ends where a line of the destination does, so that whole lines are written whole (R225, R387, R417). -/
def CopyCmd.readLen (c : CopyCmd) : Nat :=
  let line := if c.q.isSome then 64 else 64 - c.dstAt c.done % 64
  match c.fn with
  | 0 => min line (c.stopAt - c.done)
  | 1 => min (min line (c.rowb - c.done % c.rowb)) (c.stopAt - c.done)
  | _ => min 64 (c.esz - c.inElem)

/-- The source of the next read, the fault that names none, or the overlap of R232; the index of an element is read once. -/
def State.copySource (s : State) (h : Nat) (c : CopyCmd) : State × Except EFault (Nat × CopyCmd) :=
  match c.fn with
  | 0 => (s, .ok ((c.a2 + c.done) % 2 ^ 64, c))
  | 1 => (s, .ok (moveBy c.a2 (((c.done / c.rowb : Nat) : Int) * c.sst + (c.done % c.rowb : Nat)), c))
  | _ =>
    match c.elem with
    | some e => (s, .ok ((e + c.inElem) % 2 ^ 64, c))
    | none =>
      match s.engBytes (c.agent h) ((c.a2 + 4 * c.done) % 2 ^ 64) 4 with
      | (s, .error e) => (s, .error e)
      | (s, .ok d) =>
        let src := (c.p0 + leValue d * c.esz) % 2 ^ 64
        if c.q.isNone && overlap src c.esz c.a1 (c.total * c.esz) then (s, .error (.code 8 src 0))
        else (s, .ok ((src + c.inElem) % 2 ^ 64, { c with elem := some src }))

/-- Whether a byte of a stream's destination lies on a tolerant page, here or at another device. -/
def State.dstTolerant (s : State) (c : CopyCmd) (t : Nat) : Bool :=
  match (s.locate c.rq (c.dstAt t) .write).2 with
  | .ok (.tolerant _ _) => true
  | .ok (.remoteTol _ _ _) => true
  | _ => false

/-- A command past a unit of `step`: its chute's reservation given back, its chute released after the last unit (R225, R226). -/
def State.copyNext (s : State) (h : Nat) (c : CopyCmd) (step : Nat) : State :=
  let c := { c with done := c.done + step, elem := none }
  let (s, c) := if c.done ≥ c.stopAt then s.copyTail h c else (s, c)
  let s := match c.q with
    | some q => s.mapCrew (crewOf h) fun x => x.mapChute q fun y =>
        { y with resv := 0, feeder := if c.done ≥ c.stopAt then none else y.feeder }
    | none => s
  (s.dropAnswers h c).setCopy h c

/-- Bytes of a unit delivered: appended to the chute, or written; then the command moves on, stops or waits. `fault` is the
source's fault above the bytes given. -/
def State.copyDeliver (s : State) (h : Nat) (c : CopyCmd) (out : List (Byte × Bool)) (step : Nat) (fault : Option EFault) : State :=
  let finish (s : State) (c : CopyCmd) : State :=
    match fault with
    | some (.code e va pa) => s.copyStop h c e va pa
    | some .wait => s.setCopy h { c with done := c.bytes, part := [] }
    | none => s.copyNext h c step
  match c.q with
  | some q =>
    let n := out.length / 8
    let c' := { c with bytes := c.bytes + 8 * n, part := out.drop (8 * n) }
    finish (s.mapCrew (crewOf h) fun x => x.mapChute q fun y => y.append (entriesOf c.seq n c.bytes out)) c'
  | none =>
    let n := out.length
    let tol := s.dstTolerant c c.bytes || s.dstTolerant c (c.bytes + (n - 1))
    if tol && c.oddRange c.bytes then s.copyStop h c 1 (c.dstAt c.bytes) 0
    else
      let n := if tol then n / 2 * 2 else n
      let ag := c.agent h
      let va := c.dstAt c.bytes
      let pre := if c.fn = 2 then State.engProbeAll ag false (n / 8 + 2) s va n else (s, none)
      match pre with
      | (s, some (.code e va pa)) => s.copyStop h c e va pa
      | (s, some .wait) => s.setCopy h { c with part := out }
      | (s, none) =>
        match State.engWrite ag (n / 8 + 2) s va ((out.take n).map Prod.fst) 0 with
        | (s, w, none) => finish s { c with bytes := c.bytes + w, part := [] }
        | (s, w, some (.code e va pa)) => s.copyStop h { c with bytes := c.bytes + w, part := [] } e va pa
        | (s, w, some .wait) =>
          s.setCopy h (if c.fn = 2 then { c with bytes := c.bytes + w, part := out.drop w }
            else { c with bytes := c.bytes + w, part := [], done := c.bytes + w })

/-- A unit of CPY, CPY2D or GATHR: one read, and once its unit is whole the writes (R229, R387). -/
def State.copyData (s : State) (h : Nat) (c : CopyCmd) : State :=
  if c.fn = 2 && c.inElem = c.esz then s.copyDeliver h c c.part 1 none
  else
    match s.copySource h c with
    | (s, .error .wait) => s
    | (s, .error (.code e va pa)) => s.copyStop h c e va pa
    | (s, .ok (src, c)) =>
      let n := c.readLen
      match State.engRead (c.agent h) c.q.isSome (n / 64 + 2) s src n [] with
      | (s, _, some .wait) => s.setCopy h c
      | (s, bs, f) =>
        if c.fn ≠ 2 then s.copyDeliver h c (c.part ++ bs) n f
        else
          match f with
          | some (.code e va pa) => s.copyStop h c e va pa
          | _ =>
            let c := { c with part := c.part ++ bs }
            if c.inElem = c.esz then s.copyDeliver h c c.part 1 none else (s.dropAnswers h c).setCopy h c

/-! ### Trains (R221, R233, R434) -/

/-- The device that a SCATR element goes to: 256 is the module itself, as for an address that translates to none (R233). -/
def State.trainDev (s : State) (c : CopyCmd) (va : Nat) : State × Nat :=
  match s.locate c.rq va .write with
  | (s, .ok (.remote dev _)) => (s, dev)
  | (s, .ok (.remoteTol dev _ _)) => (s, dev)
  | (s, _) => (s, 256)

/-- An element put on the newest train of its device, or on a new one where that one is at a limit of R434. -/
def addToTrain (esz dev e va : Nat) : List Train → List Train
  | [] => [⟨dev, e, [(e, va)], .unsent⟩]
  | t :: r =>
    if t.dev = dev && !(r.any fun u => u.dev = dev) && t.elems.length < 65535 && (t.elems.length + 1) * esz ≤ 2 ^ 20 then
      { t with elems := t.elems ++ [(e, va)] } :: r
    else t :: addToTrain esz dev e va r

/-- The lowest element whose destination fails a check of R233, with its code. -/
def scatrBad (esz : Nat) : Nat → List Nat → Option (Nat × Nat × Nat)
  | _, [] => none
  | e, va :: r => if va % esz ≠ 0 then some (e, 7, va) else if (chuteWindow va).isSome then some (e, 8, va) else scatrBad esz (e + 1) r

/-- The addresses in a list's bytes. -/
def listAddrs : Nat → List Byte → List Nat
  | 0, _ => []
  | k + 1, bs => leValue (bs.take 8) :: listAddrs k (bs.drop 8)

/-- The trains of an address list that was read whole, after the checks of its destinations (R233). -/
def State.scatrTrains (s : State) (h : Nat) (c : CopyCmd) (list : List Byte) : State :=
  let addrs := listAddrs c.total list
  match scatrBad c.esz 0 addrs with
  | some (e, code, va) => s.copyStop h { c with done := e } code va 0
  | none =>
    let r := addrs.foldl (fun (a : State × Nat × List Train) va =>
      let d := a.1.trainDev c va
      (d.1, a.2.1 + 1, addToTrain c.esz d.2 a.2.1 va a.2.2)) (s, 0, [])
    (r.1.dropAnswers h c).setCopy h { c with formed := true, part := [], trains := r.2.2 }

/-- 64 more bytes of the address list read; once it is whole, its destinations are checked and the trains formed, before any is sent. A
fault of the list stops the command with DONE 0, since no element was performed, unless a lower destination fails its check (R233,
log 73). -/
def State.scatrForm (s : State) (h : Nat) (c : CopyCmd) : State :=
  let got := c.part.length
  let n := min 64 (8 * c.total - got)
  match State.engRead (c.agent h) false (n / 64 + 2) s ((c.a2 + got) % 2 ^ 64) n [] with
  | (s, _, some .wait) => s
  | (s, bs, some (.code e va pa)) =>
    let list := (c.part ++ bs).map Prod.fst
    match scatrBad c.esz 0 (listAddrs (list.length / 8) list) with
    | some (e, code, va) => s.copyStop h { c with done := e } code va 0
    | none => s.copyStop h { c with done := 0 } e va pa
  | (s, bs, none) =>
    let c := { c with part := c.part ++ bs }
    if c.part.length = 8 * c.total then s.scatrTrains h c (c.part.map Prod.fst) else (s.dropAnswers h c).setCopy h c

/-- A train replaced: the i-th. -/
def CopyCmd.setTrain (c : CopyCmd) (i : Nat) (t : Train) : CopyCmd := { c with trains := c.trains.set i t }

/-- The bytes of elements cut apart. -/
def cutElems (esz : Nat) : List (Nat × Nat) → List Byte → List (Nat × List Byte)
  | [], _ => []
  | (_, va) :: r, bs => (va, bs.take esz) :: cutElems esz r (bs.drop esz)

/-- The next bytes of a train's source, at most 64 of one element (R387). -/
def State.trainRead (s : State) (h : Nat) (c : CopyCmd) (elems : List (Nat × Nat)) : State × Except EFault (List Byte) :=
  let i := c.part.length / c.esz
  let off := c.part.length % c.esz
  s.engBytes (c.agent h) ((c.a1 + (elems.getD i (0, 0)).1 * c.esz + off) % 2 ^ 64) (min 64 (c.esz - off))

/-- The elements of a train to the module itself, in no defined order: an element whose address an earlier one has already
written is written over it or not, and in a train that fails each sound element is performed or not (R221, R233). The answer is the first
refusal, with the number of elements performed. -/
def State.trainLocal (ag : Agent) (free : Bool) :
    List (Nat × List Byte) → List Nat → State → Nat → Option (Nat × Nat × Nat) → State × Nat × Option (Nat × Nat × Nat)
  | [], _, s, k, f => (s, k, f)
  | (va, d) :: r, seen, s, k, f =>
    match s.engProbe ag va d.length with
    | (s, some (.code c a pa)) => State.trainLocal ag free r seen s k (f.orElse fun _ => some (c, a, pa))
    | (s, _) =>
      let n := s.draw
      let skip := (free || seen.contains va) && Config.freeBit n.1
      State.trainLocal ag free r (va :: seen) (if skip then n.2 else (s.engPut ag va d).1) (if skip && free then k else k + 1) f

/-- The code a train fails with: the first refused element of a train to the module itself. -/
def State.trainCheck (s : State) (ag : Agent) (data : List (Nat × List Byte)) : Bool :=
  data.any fun e => (s.engProbe ag e.1 e.2.length).2.isSome

/-- A train fails with a code, entered in the logs (R228, R233). -/
def State.trainFail (s : State) (h : Nat) (c : CopyCmd) (i : Nat) (t : Train) (code va pa : Nat) : State :=
  let s := s.copyLog (c.agent h) code va pa
  (s.dropAnswers h c).setCopy h { c.setTrain i { t with st := .failed code } with part := [] }

/-- An element as its target device takes it: its physical address and its bytes, on a tolerant page their TAP8 form (R52). -/
def State.elemAt (s : State) (c : CopyCmd) (e : Nat × List Byte) : Nat × List Byte :=
  match (s.locate c.rq e.1 .write).2 with
  | .ok (.remote _ pa) => (pa, e.2)
  | .ok (.remoteTol _ pa _) => (pa, tolPack e.2)
  | _ => (0, e.2)

/-- The parts of an element's bytes that one flit carries each, at most 224 bytes (R432). -/
def flitParts (e : Nat × List Byte) : List (Nat × List Byte) :=
  if e.2.length ≤ 224 then [e] else [(e.1, e.2.take 224), (e.1 + 224, e.2.drop 224)]
/-- A train sent to a peer: head, elements and tail leave by one port (R221, R434, R436). -/
def State.trainFlits (s : State) (h : Nat) (c : CopyCmd) (dev : Nat) (data : List (Nat × List Byte)) : Option State :=
  let elems := data.map (s.elemAt c)
  let pa := (elems.headD (0, [])).1
  match s.portFor dev pa with
  | none => none
  | some p =>
    let rid := s.nextReq
    let bodies : List FlitBody := .trainHead (c.esz * data.length) data.length :: ((elems.flatMap flitParts).map fun e => .trainBody [e]) ++
      [.trainTail data.length]
    let s := bodies.foldl (fun s b => s.pushFlit p rid dev (some rid) b) s
    some { s with nextReq := rid + 1, requests := ⟨rid, h, c.seq + 1, dev, pa, p, false, c.rq.ctx, s.now, bodySpans (.trainBody elems), .train⟩ :: s.requests }

/-- The trains of a command with a course that may hold back a later train to their device: unsent, or sent to another device and not
acknowledged (R221). -/
def holdsBack (dev : Nat) (t : Train) : Bool := t.dev = dev && (t.st = .unsent || (dev < 255 && t.st = .sent))

/-- A train's turn: every earlier train of the crew to its device is performed there, or will be before it, no earlier SCATR may still
form one, and no request of the crew to the device has left by a port that is no longer the address's (R221, R436). -/
def State.trainTurn (s : State) (h : Nat) (c : CopyCmd) (i : Nat) (t : Train) : Bool :=
  (s.hartAt h).copies.all (fun d => d.seq ≥ c.seq || d.fn ≠ 3 ||
    (if d.formed then !d.trains.any (holdsBack t.dev) else decide (d.stopAt ≤ d.done))) &&
  !(c.trains.take i).any (holdsBack t.dev) &&
  (t.dev ≥ 255 || !s.requests.any fun r => r.hart = h && r.dev = t.dev && some r.port != s.portFor t.dev r.pa)

/-- The next access of a command at another device is held by a port (R436): its next read, where it awaits no answer, or its next write. -/
def State.copyHeld (s : State) (h : Nat) (c : CopyCmd) : Bool :=
  let held (va n : Nat) (acc : Acc) : Bool :=
    match (s.locate c.rq va acc).2 with
    | .ok (.remote dev pa) => s.portHeld h (c.seq + 1) dev (.read pa n)
    | .ok (.remoteTol dev pa odd) => s.portHeld h (c.seq + 1) dev (.read pa (tolCount odd n))
    | _ => false
  let asked := (s.hartAt h).remote.any fun r => r.ticket == c.seq + 1
  let reads : Bool := match c.fn with
    | 0 => held ((c.a2 + c.done) % 2 ^ 64) c.readLen .read
    | 1 => held (moveBy c.a2 (((c.done / c.rowb : Nat) : Int) * c.sst + (c.done % c.rowb : Nat))) c.readLen .read
    | 2 =>
      c.inElem ≠ c.esz && (match c.elem with
        | some e => held ((e + c.inElem) % 2 ^ 64) c.readLen .read
        | none => held ((c.a2 + 4 * c.done) % 2 ^ 64) 4 .read)
    | _ =>
      if !c.formed then held ((c.a2 + c.part.length) % 2 ^ 64) (min 64 (8 * c.total - c.part.length)) .read
      else match c.trains.find? fun t => t.st = .unsent with
        | some t =>
          let k := c.part.length / c.esz
          k < t.elems.length &&
            held ((c.a1 + (t.elems.getD k (0, 0)).1 * c.esz + c.part.length % c.esz) % 2 ^ 64) (min 64 (c.esz - c.part.length % c.esz)) .read
        | none => false
  (!asked && reads) || (c.fn ≠ 3 && c.q.isNone && held (c.dstAt c.bytes) (if c.fn = 2 then c.esz else c.readLen) .write)

/-- A train whose source is read sent (R233): one to the module itself is performed, in issue order of the crew's trains (R221). MODEL'S
CHOICE (log 72): the elements of a train to the host go as posted writes of their own, and it is acknowledged when the last is sent. -/
def State.trainGo (s : State) (h : Nat) (c : CopyCmd) (i : Nat) (t : Train) (moved : CopyCmd → CopyCmd) (data : List (Nat × List Byte)) : State :=
  let ag := c.agent h
  if t.dev = 256 then
    let s := (s.dropAnswers h c).performWhere (fun w => match w.who with | .engine g .C _ => crewOf g == crewOf h | _ => false) 3
    match State.trainLocal ag (s.trainCheck ag data) data [] s 0 none with
    | (s, k, some (e, va, pa)) => s.trainFail h (moved { c with bytes := c.bytes + c.esz * k }) i t e va pa
    | (s, _, none) => s.setCopy h { (moved c).setTrain i { t with st := .sent } with part := [] }
  else if t.dev = 255 then
    match data with
    | (va, d) :: _ =>
      match s.engPut ag va d with
      | (s, some .wait) => s
      | (s, some (.code e va pa)) => s.trainFail h (moved c) i t e va pa
      | (s, none) =>
        let s := (s.dropAnswers h c).count (crewItem (crewOf h) 7) c.esz
        let c := { c with part := [], bytes := c.bytes + c.esz }
        if t.elems.length ≤ 1 then s.setCopy h ((moved c).setTrain i { t with st := .acked })
        else s.setCopy h (c.setTrain i { t with elems := t.elems.drop 1 })
    | [] => s.setCopy h ((moved c).setTrain i { t with st := .acked })
  else
    match data.findSome? fun e => (s.engProbe ag e.1 e.2.length).2, (s.dropAnswers h c).trainFlits h c t.dev data with
    | some (.code e va pa), _ => s.trainFail h (moved c) i t e va pa
    | _, none => s.trainFail h (moved c) i t 9 (t.elems.headD (0, 0)).2 0
    | _, some s => s.setCopy h { (moved c).setTrain i { t with st := .sent } with part := [] }

/-- The next train: 64 more bytes of its source read, and once it is whole, it is sent (R233, R387). -/
def State.scatrSend (s : State) (h : Nat) (c : CopyCmd) : State :=
  match c.trains.findIdx? fun t => t.st = .unsent with
  | none => s
  | some i =>
    let t := c.trains.getD i ⟨0, 0, [], .acked⟩
    let last := (c.trains.filter fun u => u.st = .unsent).length ≤ 1
    let moved (c : CopyCmd) : CopyCmd := if last then { c with done := c.stopAt } else c
    let elems := if t.dev = 255 then t.elems.take 1 else t.elems
    let need := c.esz * elems.length
    if c.part.length = need then s.trainGo h c i t moved (cutElems c.esz elems (c.part.map Prod.fst))
    else
      match s.trainRead h c elems with
      | (s, .error .wait) => s
      | (s, .error (.code e va pa)) => s.trainFail h (moved c) i t e va pa
      | (s, .ok bs) =>
        let c := { c with part := c.part ++ bs.map fun b => (b, false) }
        if c.part.length = need then s.trainGo h c i t moved (cutElems c.esz elems (c.part.map Prod.fst))
        else (s.dropAnswers h c).setCopy h c

/-- TRAIN_ACK: the oldest train sent to the device is acknowledged, its elements performed at the destination's module scope,
or is refused (R221, R233). -/
def State.trainAck (s : State) (h ticket dev : Nat) (ok : Bool) : State :=
  match (s.hartAt h).copies.find? fun c => c.ticket = ticket with
  | none => s
  | some c =>
    match c.trains.findIdx? fun t => t.dev = dev && t.st = .sent with
    | none => s
    | some i =>
      let t := c.trains.getD i ⟨0, 0, [], .acked⟩
      if ok then
        let s := s.performWhere (fun w => w.who == .engine h .C c.seq) (if dev = 256 then 3 else 4)
        (s.setCopy h { c.setTrain i { t with st := .acked } with bytes := c.bytes + c.esz * t.elems.length }).count
          (crewItem (crewOf h) 7) (c.esz * t.elems.length)
      else s.trainFail h c i t 9 (t.elems.headD (0, 0)).2 0
/-- The oldest request of a hart's train to a device, taken out of those outstanding. -/
def State.dropTrainReq (s : State) (h ticket dev : Nat) : State :=
  match (s.hartAt h).copies.find? fun c => c.ticket = ticket with
  | none => s
  | some c =>
    match s.requests.reverse.find? fun r => r.hart = h && r.ticket = c.seq + 1 && r.dev = dev && r.kind = .train with
    | none => s
    | some r => { s with requests := s.requests.erase r }
/-- TRAIN_ACK (R221). -/
def execTrainAck (core hart ticket dev : Nat) (ok : Bool) (s : State) : Out :=
  .next (if coreOf (hart % 512) = core % 64 then (s.dropTrainReq (hart % 512) ticket dev).trainAck (hart % 512) ticket dev ok else s)

/-! ### The engine's choice (R387) -/

/-- The chute entries that the reads of the unit under way reserve, the next one's among them: eight for each, or what the last unit of the
copy fills (R225). -/
def CopyCmd.need (c : CopyCmd) : Nat :=
  let n := c.readLen
  if c.fn = 2 then
    8 * (c.part.length / 64) + (if c.done + 1 = c.stopAt && c.inElem + n = c.esz then (c.tail + n) / 8 else 8)
  else if c.done + n = c.stopAt then (c.part.length + n) / 8 else 8

/-- A command has a unit that can start: units are left, no port holds its next access, no answer of a device is awaited, for a chute its turn has come and the space is
free, and for a train its turn (R221, R225, R226, R387). A chute's kind, and whether it is a token chute, are judged at issue (R224, R237): the
command appends as well where a write of qcfg has since made the chute put-fed, or a later command's token has made it a token chute (log
128). -/
def State.copyReady (s : State) (h : Nat) (before : List CopyCmd) (c : CopyCmd) : Bool :=
  decide (c.done < c.stopAt) &&
  !((s.hartAt h).remote.any fun r => r.ticket == c.seq + 1 && r.ans.isNone) && !s.copyHeld h c &&
  (if c.fn = 3 then
    !c.formed ||
    match c.trains.findIdx? fun t => t.st = .unsent with
    | some i => s.trainTurn h c i (c.trains.getD i ⟨0, 0, [], .acked⟩)
    | none => false
  else match c.q with
   | none => true
   | some q =>
     let x := (s.crewAt (crewOf h)).chute q
     !(before.any fun d => d.q == some q && decide (d.done < d.stopAt)) &&
     (x.feeder.isNone || x.feeder == some (.copy c.seq 0)) && decide (c.need ≤ x.free + x.resv))

/-- Both harts of a crew have left (R403). -/
def State.bothLeft (s : State) (n : Nat) : Bool := (s.hartAt (2 * n)).left && (s.hartAt (2 * n + 1)).left
/-- A command is inside a unit: it has an answer of another device that the unit still uses. -/
def State.midUnit (s : State) (h : Nat) (c : CopyCmd) : Bool := (s.hartAt h).remote.any fun r => r.ticket == c.seq + 1

/-- The oldest command of a hart with a unit that can start; once its crew has left, or a checkpoint waits, only a unit begun
goes on (R240, R426). -/
def State.copyPick (s : State) (h : Nat) : List CopyCmd → List CopyCmd → Option CopyCmd
  | _, [] => none
  | before, c :: r =>
    if s.copyReady h before c && (!(s.bothLeft (crewOf h) || s.stopping) || s.midUnit h c) then some c else State.copyPick s h (before ++ [c]) r

/-- One unit of a command, its chute space reserved first (R225, R229). -/
def State.copyStep (s : State) (h : Nat) (c : CopyCmd) : State :=
  let s := match c.q with
    | some q => s.mapCrew (crewOf h) fun x => x.mapChute q fun y => { y with resv := c.need, feeder := some (.copy c.seq 0) }
    | none => s
  if c.fn = 3 then (if c.formed then s.scatrSend h c else s.scatrForm h c) else s.copyData h c

/-- The crews of a core in the engine's order, from the pointer onward (R386, R387). -/
def crewOrder (core ptr : Nat) : List Nat := [1, 2, 3, 4].map fun k => 4 * core + (ptr + k) % 4

/-- COPY_UNIT: the next crew with a unit that can start is served (R387). -/
def execCopyUnit (core : Nat) (s : State) : Out :=
  let core := core % 64
  .next (match (crewOrder core (s.coreAt core).copyPtr).findSome? fun n => (s.copyPick (2 * n) [] (s.hartAt (2 * n)).copies).map fun c => (n, c) with
    | none => s
    | some (n, c) =>
      let t := (s.copyStep (2 * n) c).mapCore core fun x => { x with copyPtr := n % 4 }
      t.count (crewItem n 7) (((t.hartAt (2 * n)).copies.find? fun d => d.seq = c.seq).map (fun d => d.bytes - c.bytes) |>.getD 0))

/-! ### Completion (R234 to R237, R244) -/

/-- Every train is acknowledged or has failed. -/
def CopyCmd.trainsOver (c : CopyCmd) : Bool :=
  c.trains.all fun t => match t.st with | .unsent => false | .sent => false | _ => true

/-- A command may complete: no unit is left, no entry of it waits in its chute, no device's answer is awaited (R235). -/
def State.copyOver (s : State) (h : Nat) (c : CopyCmd) : Bool :=
  decide (c.stopAt ≤ c.done) && c.trainsOver &&
  !((s.hartAt h).remote.any fun r => r.ticket == c.seq + 1 && r.ans.isNone) &&
  (match c.q with
   | none => true
   | some q => !(((s.crewAt (crewOf h)).chute q).entries.any fun e => match e.src with | .copy t _ => t == c.seq | _ => false))

/-- The failed train with the lowest element (R233). -/
def lowestFail : List Train → Option (Nat × Nat)
  | [] => none
  | t :: r =>
    match t.st, lowestFail r with
    | .failed c, some (e, d) => if t.low ≤ e then some (t.low, c) else some (e, d)
    | .failed c, none => some (t.low, c)
    | _, x => x

/-- The final code and DONE of a command (R228, R233). -/
def CopyCmd.result (c : CopyCmd) : Nat × Nat :=
  match lowestFail c.trains with
  | some (e, code) => (code, e)
  | none => (c.code, c.stopAt)

/-- A detachment sent to a record's home (R244, R246): with no port up the notice is kept, and sets FAIL when it is delivered after
repair. -/
def State.sendDetach (s : State) (dev pa bytes : Nat) (failed : Bool) : State :=
  let p := (s.portFor dev pa).getD ((dev + bits pa 15 8) % 32)
  let body : FlitBody := .notice (.detach s.devnum pa bytes (failed || (s.portFor dev pa).isNone))
  { s.pushFlit p s.nextReq dev none body with nextReq := s.nextReq + 1 }

/-- The detachment of a completed command from its record (R244). -/
def State.copyDetach (s : State) (attach : Option (Nat × Nat)) (bytes : Nat) (failed : Bool) : State :=
  match attach with
  | none => s
  | some (dev, pa) => if dev = 256 then s.brDetach pa bytes failed else s.sendDetach dev pa bytes failed

/-- The widest scope at which a command's writes are performed when it completes: module, or system for a record of system
scope and for writes to other devices (R235, R244). -/
def State.copyScope (s : State) (c : CopyCmd) : Nat :=
  match c.attach with
  | some (dev, pa) => if dev ≠ 256 || brScope (s.brRec pa) = 4 then 4 else 3
  | none => 3

/-- COPY_COMPLETE: the writes performed, the token appended, the record detached, the status kept (R234 to R236, R244). -/
def State.copyComplete (s : State) (h : Nat) (c : CopyCmd) : State :=
  let (code, dn) := c.result
  let w := statusWord dn c.ticket code
  let s := s.performWhere (fun x => x.who == .engine h .C c.seq) (s.copyScope c)
  let s := match c.cq with
    | some q => s.mapCrew (crewOf h) fun x => x.mapChute q fun y =>
        { y.append [⟨w, false, .token c.seq⟩] with tokens := y.tokens.filter fun t => t != c.seq }
    | none => s
  let s := s.copyDetach c.attach c.bytes (code ≠ 0)
  let older (k : Option (Nat × Word)) : Bool := match k with | some (n, _) => n < c.seq | none => false
  let newer (k : Option (Nat × Word)) : Bool := match k with | some (n, _) => c.seq < n | none => false
  (s.dropAnswers h c).mapHart h fun x =>
    { x with copies := x.copies.filter (fun d => d.seq != c.seq),
             doneWords := ((c.ticket, w) :: x.doneWords).take 32,
             keptFail := if code = 0 || older x.keptFail then x.keptFail else some (c.seq, w),
             keptLast := if newer x.keptLast then x.keptLast else some (c.seq, w) }

/-- COPY_COMPLETE (R235). -/
def execCopyComplete (core hart ticket : Nat) (s : State) : Out :=
  .next (if coreOf (hart % 512) ≠ core % 64 then s
    else match (s.hartAt hart).copies.find? fun c => c.ticket = ticket with
      | some c => if s.copyOver (hart % 512) c then s.copyComplete (hart % 512) c else s
      | none => s)

/-- CPWAIT (R234): its return orders the commands' accesses before the hart's later ones, as FENCE.X from path C to path A does. -/
def execCpwait (rd rs1 : BitVec 5) (s : State) : Out :=
  settle (do
    needAccess
    let h ← getHart
    if rs1 = 0 then
      if !h.copies.isEmpty then stall .cpwait
      let w := (h.keptFail.orElse fun _ => h.keptLast).map Prod.snd |>.getD 0
      modState fun s => s.catchUp (hartView s.cur)
      modHart fun h => { h with keptFail := none, keptLast := none }
      writeX rd w noTaint
      retire 4
    else
      waitTaint [h.xt rs1]
      let t := (h.xr rs1).toNat % 2 ^ 16
      if h.copies.any fun c => c.ticket == t then stall .cpwait
      modState fun s => s.catchUp (hartView s.cur)
      let w := match h.doneWords.find? fun e => e.1 == t with
        | some e => e.2
        | none => statusWord 0 t 10
      writeX rd w noTaint
      retire 4) s

end Sys2Proof.Machine
end

