-- ==== Sys2Proof/Machine/Page.lean ====
section
/-! DEFINITION. Pages and their pools (15_page R270 to R278, 20_context R341). -/

namespace Sys2Proof.Machine

/-! ### Page records (R274), as the number their 8 bytes make -/

def prRefs (r : Nat) : Nat := bits r 15 0
def prState (r : Nat) : Nat := bits r 18 16
def prPart (r : Nat) : Nat := bits r 19 19
def prNext (r : Nat) : Nat := bits r 47 24
def prInfl (r : Nat) : Nat := bits r 63 48

def State.pageRec (s : State) (p : PoolRec) (id : Nat) : Nat := s.homeNat (p.recPa id) 8
def State.setPageRec (s : State) (p : PoolRec) (id r : Nat) : State := s.homeTake (p.recPa id) 8 r
/-- The pool whose descriptor lies at an address, while it is in service. -/
def State.poolAt (s : State) (pa : Nat) : Option PoolRec := s.pools.find? fun p => p.pa = pa
/-- The descriptor of a pool. -/
def State.poolDesc (s : State) (p : PoolRec) : Nat := s.homeNat p.pa 64
/-- The words FREEHEAD and FREECNT of a descriptor set (R270). -/
def State.setFree (s : State) (p : PoolRec) (head cnt : Nat) : State :=
  s.homeTake (p.pa + 32) 8 (putBits (putBits (s.homeNat (p.pa + 32) 8) 0 24 head) 32 24 cnt)

/-- The partition of a die: 1 decode, 0 prefill (R17, R274). -/
def State.partOf (s : State) (die : Nat) : Nat := if (s.dieAt die).decode then 1 else 0

/-- A context's count of pages charged, moved by one (R341); the runtime's own context has no record. -/
def State.chargePage (s : State) (ctx : Nat) (up : Bool) : State :=
  if ctx = 0 then s
  else s.ctxPut ctx 319 296 (if up then s.ctxField ctx 319 296 + 1 else s.ctxField ctx 319 296 - 1)

/-- A page with INFL 0 leaves handed-over or freed (R275). -/
def State.pageSettle (s : State) (p : PoolRec) (id : Nat) : State :=
  let r := s.pageRec p id
  if prInfl r ≠ 0 then s
  else if prState r = 3 then s.setPageRec p id (putBits r 16 3 (if prRefs r = 1 then 1 else 2))
  else if prState r = 4 then
    let d := s.poolDesc p
    (s.setPageRec p id (putBits (putBits r 16 3 0) 24 24 (pdFreeHead d))).setFree p id (pdFreeCnt d + 1)
  else s

/-- INFL raised by a scheduled fetch (R274). -/
def State.inflRaise (s : State) (p : PoolRec) (id : Nat) : State :=
  let r := s.pageRec p id
  s.setPageRec p id (putBits r 48 16 (prInfl r + 1))
/-- PGREF, PGREL or PGXFER (fn 4, 5, 6) applied at the home for a hart of partition `part`: the state and the code, or none
while the command waits for a page to leave handed-over (R275). -/
def State.pageApply (s : State) (p : PoolRec) (fn part id : Nat) : Option (State × Nat) :=
  let r := s.pageRec p id
  let set (st refs : Nat) : State := s.setPageRec p id (putBits (putBits r 16 3 st) 0 16 refs)
  match prState r with
  | 1 =>
    if prPart r ≠ part then some (s, 5)
    else if fn = 4 then some (set 2 2, 0)
    else if fn = 5 then some (((set 4 0).chargePage p.ctx false).pageSettle p id, 0)
    else some ((s.setPageRec p id (putBits (putBits r 16 3 3) 19 1 (1 - part))).pageSettle p id, 0)
  | 2 =>
    if prPart r ≠ part then some (s, 5)
    else if fn = 4 then (if prRefs r = 65535 then some (s, 9) else some (set 2 (prRefs r + 1), 0))
    else if fn = 5 then (if prRefs r > 2 then some (set 2 (prRefs r - 1), 0) else some (set 1 1, 0))
    else some ((s.setPageRec p id (putBits (putBits r 16 3 3) 19 1 (1 - part))).pageSettle p id, 0)
  | 3 => if prPart r = part then none else some (s, 5)
  | _ => some (s, 8)

/-- The result word of a page command (R276). -/
def pageWord (id r code : Nat) : Nat := id % 2 ^ 24 * 2 ^ 32 + prRefs r * 2 ^ 16 + prState r * 2 ^ 8 + code

/-- A command that a home held applied, and its answer given to its hart; it stays held while its page is handed over (R275). -/
def State.pageServe (s : State) (p : PoolRec) (w : PageWait) : State :=
  match s.pageApply p w.fn w.part w.id with
  | none => s
  | some (s, code) =>
    { s with pageWaits := s.pageWaits.erase w }.mapHart w.hart fun x =>
      { x with remote := ⟨0, 0, 256, .ackOnly, some (true, leBytesOf 8 (pageWord w.id (s.pageRec p w.id) code)), false⟩ :: x.remote }
/-- The commands held for a page that has left handed-over, applied in the order in which they came (R270, R275). -/
def State.pageWake (s : State) (p : PoolRec) (id : Nat) : State :=
  if prState (s.pageRec p id) = 3 then s
  else (s.pageWaits.filter fun w => w.pool = p.pa && w.id = id).foldl (fun s w => s.pageServe p w) s
/-- INFL lowered at a fetch's last delivery, and the page moved on (R274, R275). -/
def State.inflLower (s : State) (p : PoolRec) (id : Nat) : State :=
  let r := s.pageRec p id
  ((s.setPageRec p id (putBits r 48 16 (prInfl r - 1))).pageSettle p id).pageWake p id

/-- PGALLOC applied at the home: the page taken, or none when the pool or the context's quota is spent (R275, R341). -/
def State.pageAlloc (s : State) (p : PoolRec) (part : Nat) : Option (State × Nat) :=
  let d := s.poolDesc p
  let id := pdFreeHead d
  if pdFreeCnt d = 0 || id ≥ p.npages then none
  else if p.ctx ≠ 0 && s.ctxField p.ctx 319 296 ≥ s.ctxField p.ctx 255 232 then none
  else
    let r := s.pageRec p id
    some (((s.setFree p (prNext r) (pdFreeCnt d - 1)).setPageRec p id
      (putBits (putBits (putBits r 0 16 1) 16 3 1) 19 1 part)).chargePage p.ctx true, id)

/-- The pool at a descriptor's virtual address for a context, or the code 2, 3, 1 or 4 (R276, R285). The descriptor is read: read
permission is what the check asks for (log 19). -/
def State.poolSeen (s : State) (ag : Agent) (va : Nat) : State × Except Nat PoolRec :=
  let refuse (s : State) : State × Except Nat PoolRec := (s.engLog ag 1 1 va, .error 1)
  match s.locate ag.rq va .read with
  | (s, .error 1) => refuse s
  | (s, .error c) => (s, .error c)
  | (s, .ok (.local pa)) =>
    if s.readRefused ag.rq.world pa (64 - pa % 64) then refuse s
    else match s.poolAt pa with
      | some p => if p.ctx = ag.rq.ctx then (s, .ok p) else (s, .error 4)
      | none => (s, .error 4)
  | (s, .ok (.chute _)) => refuse s
  | (s, .ok _) => if ag.path ≥ 3 then refuse s else (s, .error 4)
/-- The pool named by a page command: an address that is not a multiple of 64 gives 4 before anything else (R276). -/
def State.poolNamed (s : State) (ag : Agent) (va : Nat) : State × Except Nat PoolRec :=
  if va % 64 ≠ 0 then (s, .error 4) else s.poolSeen ag va

/-- The result in rd, with an empty taint set. -/
def pageDone (rd : BitVec 5) (w : Nat) : M Unit := do
  writeX rd (BitVec.ofNat 64 w) noTaint
  retire 4

/-- The result of a command that reached no page: the spec states no REFS (but 0 for PGALLOC) and no STATE (log 2). -/
def pageNone (rd : BitVec 5) (alloc : Bool) (id code : Nat) : M Unit := do
  let n ← liftOp fun s => let d := s.draw; (d.2, d.1)
  let w := (Config.freeWord n).toNat
  pageDone rd (id % 2 ^ 24 * 2 ^ 32 + (if alloc then 0 else w % 2 ^ 16 * 2 ^ 16) + bits w 18 16 * 2 ^ 8 + code)

/-- The executing hart's own path as an agent. -/
def ownAgent : M Agent := do
  let t ← get
  return t.hartAgent (t.cur.val % 2)

/-- A page command's pool when the frames that it would write take no further write: an error response (R451). -/
def poolSpent (ag : Agent) (va : Nat) (p : PoolRec) (id : Nat) : M Bool := do
  let t ← get
  if t.spentIn p.pa 64 || t.spentIn (p.recPa id) 8 then
    modState fun s => ((s.noteSpent ag.rq.world p.pa 64).noteSpent ag.rq.world (p.recPa id) 8).engLog ag 1 1 va
    return true
  else return false

/-- PGALLOC (R275 to R277). -/
def execPgalloc (rd rs1 : BitVec 5) (s : State) : Out :=
  settle (do
    let h ← getHart
    waitTaint [h.xt rs1]
    let ag ← ownAgent
    match ← liftOp fun s => s.poolNamed ag (h.xr rs1).toNat with
    | .error c => pageNone rd true 0 c
    | .ok p =>
      let t ← get
      if ← poolSpent ag (h.xr rs1).toNat p (pdFreeHead (t.poolDesc p)) then pageNone rd true 0 1 else
      match t.pageAlloc p (t.partOf (dieOf t.cur)) with
      | none => pageNone rd true 0 6
      | some (t', id) =>
        modState fun _ => t'
        acquireNow
        pageDone rd (pageWord id (t'.pageRec p id) 0)) s

/-- A command of the executing hart held at a home, in its place among those that came (R270, R275). -/
def State.pageHold (s : State) (w : PageWait) : State :=
  if s.pageWaits.contains w then s else { s.withdrawPage w.hart with pageWaits := (s.withdrawPage w.hart).pageWaits ++ [w] }

/-- A page command once its release is made: applied at the home, or held there (R275, R276). -/
def pageAsk (fn : Nat) (acq : Bool) (rd : BitVec 5) (va id : Nat) : M Unit := do
  let ag ← ownAgent
  match ← liftOp fun s => s.poolNamed ag va with
  | .error c => pageNone rd false id c
  | .ok p =>
    if id ≥ p.npages then pageNone rd false id 7
    else if ← poolSpent ag va p id then pageNone rd false id 1
    else
      let t ← get
      let part := t.partOf (dieOf t.cur)
      match t.pageApply p fn part id with
      | none =>
        modState fun s => s.pageHold ⟨s.cur, p.pa, fn, id, part⟩
        stall .homeHeld
      | some (t', code) =>
        modState fun _ => t'
        if acq && code = 0 then acquireNow else pure ()
        pageDone rd (pageWord id (t'.pageRec p id) code)

/-- PGREF, PGREL and PGXFER: PGREL and PGXFER (`rel`) are held until every earlier access of the path is performed, PGREF is an acquire
(R277). The answer to a command that the home held retires it. -/
def pageCommand (fn : Nat) (rel : Bool) (rd rs1 rs2 : BitVec 5) : M Unit := do
  let h ← getHart
  match h.remote.find? fun r => r.dev == 256 with
  | some r =>
    let w := leValue ((r.ans.map Prod.snd).getD [])
    if !rel && w % 256 = 0 then acquireNow else pure ()
    pageDone rd w
  | none =>
    waitTaint [h.xt rs1, h.xt rs2]
    if rel then barrierRelease 3 else pure ()
    pageAsk fn (!rel) rd (h.xr rs1).toNat (h.xr rs2).toNat

/-- PGREF (R275 to R277). -/
def execPgref (rd rs1 rs2 : BitVec 5) (s : State) : Out := settle (pageCommand 4 false rd rs1 rs2) s
/-- PGREL (R275 to R277). -/
def execPgrel (rd rs1 rs2 : BitVec 5) (s : State) : Out := settle (pageCommand 5 true rd rs1 rs2) s
/-- PGXFER (R275 to R277). -/
def execPgxfer (rd rs1 rs2 : BitVec 5) (s : State) : Out := settle (pageCommand 6 true rd rs1 rs2) s

/-- POOL_VALIDATE: the home's check of a descriptor with VALID set (R271). -/
def execPoolValidate (pa : Nat) (s : State) : Out :=
  .next (if inPool pa && pa % 64 = 0 then s.validatePool pa else s)

end Sys2Proof.Machine
end

