-- ==== Sys2Proof/Machine/System.lean ====
section
/-! DEFINITION. The CSRs, the PRIV instructions, and the traps and register writes that are steps of their own
(04_encoding R103 to R106, 06_scalar R138 to R141, 24_traps R391 to R403). -/

namespace Sys2Proof.Machine

/-! ### Counters and pending bits -/

/-- The clocks of a die as CSR cycle counts them (R396): clocks holds MHz × ns. -/
def State.clocksOf (s : State) (die : Nat) : Nat := (s.dieAt die).clocks / 1000
/-- cycle of a hart: what it kept, and the clocks since its base while its crew is resident (R396). -/
def State.cycleOf (s : State) (h : Nat) : Nat :=
  let x := s.hartAt h
  if (s.crewAt (crewOf h)).resident.isSome then x.cycleKept + (s.clocksOf (dieOf h) - x.cycleBase) else x.cycleKept
/-- The timer interrupt is pending while time is at or above the comparator (R396). -/
def State.timerPending (s : State) (h : Nat) : Bool := decide ((s.hartAt h).timecmp.toNat ≤ s.now % 2 ^ 64)
/-- The other hart of the crew has left for the standing request (R392). -/
def State.pleft (s : State) (h : Nat) : Bool :=
  (s.crewAt (crewOf h)).preempt && (s.hartAt (if h % 2 = 0 then h + 1 else h - 1)).left

/-- A request or interrupt may be taken: in user mode, or in supervisor mode while IEN is 1; never in the window, nor while an
access of the instruction is under way at another device (R394, R410). -/
def Hart.mayTake (h : Hart) : Bool := !h.window && (!h.sup || h.ien) && !h.remote.any fun r => r.ticket == 0

/-! ### CSR access (R105, R106) -/

/-- The access of a CSR in a mode. -/
inductive CsrAcc where
  | none | ro | rw
  deriving DecidableEq, Repr

/-- The CSR map: user mode, supervisor mode; none for a reserved number (R105). -/
def csrMap (n : Nat) : Option (CsrAcc × CsrAcc) :=
  if n = 0x001 || n = 0x008 || n = 0x009 || n = 0x00A then some (.rw, .rw)
  else if n = 0x002 || n = 0x003 || n = 0x004 || n = 0x00B then some (.ro, .ro)
  else if n = 0x005 || n = 0x006 || n = 0x007 then some (.ro, .rw)
  else if n = 0x010 || n = 0x011 || n = 0x012 then some (.ro, .ro)
  else if 0x020 ≤ n && n ≤ 0x024 then some (.ro, .ro)
  else if (0x100 ≤ n && n ≤ 0x104) || n = 0x106 || n = 0x107 || (0x109 ≤ n && n ≤ 0x10C) then some (.none, .rw)
  else none

/-- The CSRs that read 0 on the access hart (R105). -/
def readsZero (n : Nat) : Bool := (1 ≤ n && n ≤ 7) || n = 9

/-- crewid of a hart (R63). -/
def State.crewidOf (s : State) (h : Nat) : Nat := s.devnum * 2 ^ 16 + h

/-- vlg of a hart (R70). -/
def Hart.vlg (h : Hart) : Nat := (h.lanes.foldl (fun a g => a ||| 2 ^ g) 0) * 2 ^ 16 + h.lanes.length

/-- The mailbox interrupt is pending for a hart: the doorbell is set, and was not yet at the hart's entry (R369, R392, log 115). -/
def State.bellPending (s : State) (h : Nat) : Bool := s.doorbell && (s.hartAt h).bellMuted != some s.bells

/-- sstatus as read: the stored bits with TMRP, MBXP, PPEND and PLEFT (R392). -/
def State.sstatusOf (s : State) (h : Nat) : Nat :=
  (s.hartAt h).sstatus.toNat ||| (if s.timerPending h then 2 ^ 19 else 0) ||| (if s.bellPending h then 2 ^ 18 else 0) |||
    (if (s.crewAt (crewOf h)).preempt then 2 ^ 11 else 0) ||| (if s.pleft h then 2 ^ 9 else 0)

/-- The MODE bits of a crew's chutes (R222). -/
def Crew.qcfg (c : Crew) : Nat :=
  (List.range 16).foldl (fun a q => a ||| (if (c.chutes[Fin.ofNat 16 q]).copyFed then 2 ^ q else 0)) 0

/-- A CSR of a hart as read. -/
def State.csrRead (s : State) (h n : Nat) : Nat :=
  let x := s.hartAt h
  let c := s.crewAt (crewOf h)
  if h % 2 = 0 && readsZero n then 0
  else match n with
    | 0x001 => x.vstart.toNat
    | 0x002 => x.vl.toNat
    | 0x003 => x.vtype.toNat
    | 0x004 => x.vlg
    | 0x005 => x.vdirty.toNat
    | 0x006 => x.kdirty.toNat
    | 0x007 => x.vstate.toNat
    | 0x008 => x.fcsr.toNat
    | 0x009 => x.attncfg.toNat
    | 0x00A => x.cpbar.toNat
    | 0x00B => 64 * 2 ^ 8 + 8
    | 0x010 => s.cycleOf h % 2 ^ 64
    | 0x011 => x.instret.toNat
    | 0x012 => s.now % 2 ^ 64
    | 0x020 => s.crewidOf h
    | 0x021 => c.groupid.toNat
    | 0x022 => c.launchid.toNat
    | 0x023 => c.spidx.toNat
    | 0x024 => c.tidx.toNat
    | 0x100 => s.sstatusOf h
    | 0x101 => x.stvec.toNat
    | 0x102 => x.sepc.toNat
    | 0x103 => x.scause.toNat
    | 0x104 => x.stval.toNat
    | 0x106 => x.sscratch.toNat
    | 0x107 => x.sxlat.toNat
    | 0x109 => x.violog.toNat
    | 0x10A => c.qcfg
    | 0x10B => x.lgquota.toNat
    | 0x10C => c.msave.toNat
    | _ => 0

/-- The bits of sstatus that a write sets: TMRE, MBXE, PMODE, PIEN, IEN (R392). -/
def sstatusMask : Word := 0x30007

/-- A chute's MODE bit may change: no entry, no reservation, head offset 0 (R223). -/
def Chute.idle (c : Chute) : Bool := c.entries.isEmpty && c.tokens.isEmpty && c.resv == 0 && c.head == 0 && c.feeder.isNone

/-- A write of qcfg: only idle chutes take their bit (R223). -/
def Crew.setQcfg (c : Crew) (v : Nat) : Crew :=
  { c with chutes := Vector.ofFn fun q => if c.chutes[q].idle then { c.chutes[q] with copyFed := v.testBit q } else c.chutes[q] }

/-- LEAVE written with 1: ignored while PPEND is 0, else the hart issues nothing more (R402). -/
def State.leave (s : State) (h : Nat) : State :=
  if (s.crewAt (crewOf h)).preempt then s.mapHart h fun x => { x with left := true, window := false } else s

/-- violog written: BASE, and LOG in the context's record (R342). -/
def State.setViolog (s : State) (h v : Nat) : State :=
  let v := v / 64 * 64
  let s := s.mapHart h fun x => { x with violog := BitVec.ofNat 64 v }
  let ctx := bits (s.hartAt h).sxlat.toNat 63 48
  if ctx = 0 then s else s.ctxPut ctx 191 128 v

/-- sstatus written: the RW bits set, and LEAVE acted on (R392, R402). -/
def State.setSstatus (s : State) (h v : Nat) : State :=
  let w := BitVec.ofNat 64 v
  let s := s.mapHart h fun x => { x with sstatus := (x.sstatus &&& ~~~ sstatusMask) ||| (w &&& sstatusMask) }
  if v.testBit 4 then s.leave h else s

/-- A CSR of a hart written, through the field rules of the CSR (R141). -/
def State.csrWrite (s : State) (h n v : Nat) : State :=
  let w := BitVec.ofNat 64 v
  let set (f : Hart → Hart) : State := s.mapHart h f
  if h % 2 = 0 && readsZero n then s
  else match n with
    | 0x001 => set fun x => { x with vstart := BitVec.ofNat 12 v }
    | 0x005 => set fun x => { x with vdirty := BitVec.ofNat 32 v }
    | 0x006 => set fun x => { x with kdirty := BitVec.ofNat 8 v }
    | 0x007 => set fun x => { x with vstate := BitVec.ofNat 2 v }
    | 0x008 => set fun x => { x with fcsr := w &&& 0x1F7 }
    | 0x009 => set fun x => { x with attncfg := w &&& 0xFFFF_FFFF_FFC0_FFF0 }
    | 0x00A => set fun x => { x with cpbar := w }
    | 0x100 => s.setSstatus h v
    | 0x101 => set fun x => { x with stvec := w &&& ~~~ 3#64 }
    | 0x102 => set fun x => { x with sepc := w &&& ~~~ 1#64 }
    | 0x103 => set fun x => { x with scause := w }
    | 0x104 => set fun x => { x with stval := w }
    | 0x106 => set fun x => { x with sscratch := w }
    | 0x107 => set fun x => { x with sxlat := (x.sxlat &&& ~~~ 0xFF_FFFF_FFFF#64) ||| (w &&& 0xFF_FFFF_FFFF) }
    | 0x109 => s.setViolog h v
    | 0x10A => s.mapCrew (crewOf h) fun c => c.setQcfg v
    | 0x10B => set fun x => { x with lgquota := BitVec.ofNat 5 (min (v % 32) 16) }
    | 0x10C => s.mapCrew (crewOf h) fun c => { c with msave := w &&& ~~~ 0xFFF#64 }
    | _ => s

/-- What a CSR instruction does to the old value. -/
inductive CsrOp where
  | write | set | clear
  deriving DecidableEq, Repr

def CsrOp.apply (op : CsrOp) (old v : Word) : Word :=
  match op with
  | .write => v
  | .set => old ||| v
  | .clear => old &&& ~~~ v

/-- A CSR instruction: `noWrite` when it only reads (R106, R140). -/
def csrInstr (op : CsrOp) (noWrite : Bool) (rd : BitVec 5) (csr : BitVec 11) (v : Word) : M Unit := do
  let h ← getHart
  let n := csr.toNat
  let acc ← isAccess
  match csrMap n with
  | none => illegal
  | some (u, p) =>
    let a := if h.sup then p else u
    if a = .none then illegal
    else if a = .ro && !noWrite && !(acc && readsZero n) then illegal
    else
      let num ← curNum
      let old := BitVec.ofNat 64 ((← get).csrRead num n)
      if noWrite then pure () else modState fun s => s.csrWrite num n (op.apply old v).toNat
      writeX rd old (if n = 2 && !acc then h.taintVl else noTaint)
      retire 4

/-- CSRRW (R140). -/
def execCsrrw (rd rs1 : BitVec 5) (csr : BitVec 11) (s : State) : Out :=
  settle (do csrInstr .write false rd csr (← readX rs1)) s
/-- CSRRWI (R140). -/
def execCsrrwi (rd uimm : BitVec 5) (csr : BitVec 11) (s : State) : Out :=
  settle (csrInstr .write false rd csr (uimm.setWidth 64)) s
/-- CSRRS (R140). -/
def execCsrrs (rd rs1 : BitVec 5) (csr : BitVec 11) (s : State) : Out :=
  settle (do csrInstr .set (rs1 == 0) rd csr (← readX rs1)) s
/-- CSRRSI (R140). -/
def execCsrrsi (rd uimm : BitVec 5) (csr : BitVec 11) (s : State) : Out :=
  settle (csrInstr .set (uimm == 0) rd csr (uimm.setWidth 64)) s
/-- CSRRC (R140). -/
def execCsrrc (rd rs1 : BitVec 5) (csr : BitVec 11) (s : State) : Out :=
  settle (do csrInstr .clear (rs1 == 0) rd csr (← readX rs1)) s
/-- CSRRCI (R140). -/
def execCsrrci (rd uimm : BitVec 5) (csr : BitVec 11) (s : State) : Out :=
  settle (csrInstr .clear (uimm == 0) rd csr (uimm.setWidth 64)) s

/-! ### PRIV (R138, R139) -/

/-- ECALL: cause 6 at its own address (R138). -/
def execEcall (s : State) : Out := settle (trap 6 0) s
/-- EBREAK: cause 7 at its own address (R138). -/
def execEbreak (s : State) : Out := settle (trap 7 0) s
/-- ERET (R138, R391): to user mode while PLEFT is 1 the window does not open (R402). -/
def execEret (s : State) : Out :=
  settle (do
    needSup
    let n ← curNum
    let pl := (← get).pleft n
    modHart fun h => let e := h.eret; { e with window := e.sup || !pl }) s
/-- WFI: over when an interrupt is pending, enabled or not, or a pre-emption is requested; what is then due is taken at the next
instruction (R138). -/
def execWfi (s : State) : Out :=
  settle (do
    needSup
    let n ← curNum
    let t ← get
    if t.timerPending n || t.bellPending n || (t.crewAt (crewOf n)).preempt then retire 4 else stall .wfi) s
/-- YIELD: a standing request that may be taken is taken with sepc at the next instruction (R138). -/
def execYield (s : State) : Out :=
  settle (do
    retire 4
    let c ← getCrew
    if c.preempt && (← getHart).mayTake then trap 14 0 else pure ()) s

/-- Every cached translation of a context dropped, or those that map one address (R139, R334). -/
def State.dropTlb (s : State) (ctx : Nat) (va : Option Nat) : State :=
  let hit (e : TlbEntry) : Bool := e.ctx == ctx && (match va with | none => true | some a => e.va ≤ a && a < e.va + e.size)
  let hitW (e : WalkEntry) : Bool :=
    e.ctx == ctx && (match va with | none => true | some a => e.va ≤ a % 2 ^ 57 && a % 2 ^ 57 < e.va + levelSpan e.level)
  { s with cores := s.cores.map fun c => { c with tlb := c.tlb.filter fun e => !hit e },
           dies := s.dies.map fun d => { d with tlb := d.tlb.filter (fun e => !hit e), walk := d.walk.filter fun e => !hitW e } }

/-- Accesses or engine commands of a context, other than the executing hart's own, that are not yet performed under its translations: those
under way at another device, posted writes not acknowledged, copies and Sluice work (R139). -/
def State.ctxBusy (s : State) (ctx : Nat) : Bool :=
  (List.range 512).any (fun h => h ≠ s.cur.val && (s.reqFor h).ctx = ctx && (s.hartAt h).remote.any RemoteReq.own) ||
  s.requests.any (fun r => r.ctx = ctx && r.isPosted) ||
  (List.range 512).any (fun h => (s.hartAt h).copies.any fun c => c.rq.ctx = ctx && s.copyBusy h c) ||
  s.subs.any fun u => u.rq.ctx = ctx && s.sluiceBusy u.hart
/-- Every earlier read of the harts of a context performed: their tags retire (R139, R207, R214). -/
def State.performCtx (s : State) (ctx : Nat) : State :=
  (List.range 512).foldl (fun s h => if (s.reqFor h).ctx = ctx then s.performTags h fun _ => true else s) s
/-- A translation of a context, or one that maps an address, is cached. -/
def State.cached (s : State) (ctx : Nat) (va : Option Nat) : Bool :=
  let t := s.dropTlb ctx va
  t.cores != s.cores || t.dies != s.dies

/-- TLBINV: the context's translations leave every TLB and walk cache, once the accesses and commands under them are performed and no pin
holds them (R78, R139); it waits for every one of the context. -/
def execTlbinv (rs1 : BitVec 5) (s : State) : Out :=
  settle (do
    needSup
    let h ← getHart
    waitTaint [h.xt rs1]
    let ctx := bits h.sxlat.toNat 63 48
    let va := if rs1 = 0 then none else some (h.xr rs1).toNat
    if (← get).ctxBusy ctx && (← get).cached ctx va then stall .remote
    modState fun s => ((s.performCtx ctx).performWhere (fun _ => true) 4).dropTlb ctx va
    retire 4) s

/-! ### Traps and register writes that are steps of their own -/

/-- A step on behalf of hart `h`: the hart in hand for its duration. -/
def State.as (s : State) (h : Nat) : State := { s with cur := Fin.ofNat 512 h }

/-- The hart issues: its crew is resident, it has neither ended nor left, and no checkpoint has stopped it (R426). -/
def State.issuing (s : State) (h : Nat) : Bool :=
  !s.stopping && (s.crewAt (crewOf h)).resident.isSome && !(s.hartAt h).ended && !(s.hartAt h).left

/-- A hart whose WFI has waited and is over: the WFI has retired (R138). -/
def State.wfiOver (s : State) (h : Nat) : State :=
  if (s.hartAt h).stalled = some .wfi && (s.timerPending h || s.bellPending h || (s.crewAt (crewOf h)).preempt) then
    (s.mapHart h fun x => { x.retire 4 with stalled := none }).count (crewItem (crewOf h) (1 + h % 2)) 1
  else s
/-- The cause of the first request or interrupt that a hart may take now: a pre-emption request, then the mailbox, then the timer (R394). A hart
that a checkpoint has stopped takes none (R426). -/
def State.dueOf (s : State) (h : Nat) : Option Nat :=
  let x := s.hartAt h
  let c := s.crewAt (crewOf h)
  if !x.mayTake then none
  else if !s.stopping && c.resident.isSome && c.preempt && !x.left then some 14
  else if s.issuing h && s.bellPending h && x.sstatus.getLsbD 16 then some 1
  else if s.issuing h && s.timerPending h && x.sstatus.getLsbD 17 then some 2
  else none
/-- A trap step of a hart: taken where it is the first that is due. -/
def dueStep (h cause : Nat) (int : Bool) (s : State) : Out :=
  let t := s.wfiOver h
  if t.dueOf h = some cause then .next (((t.as h).takeTrap cause int 0 false).mapHart h fun x => { x with ended := false }) else .next s

/-- TIMER_INTERRUPT: taken when pending, enabled and allowed, and nothing comes before it (R394). -/
def execTimerInterrupt (h : Nat) (s : State) : Out := dueStep h 2 true s
/-- MAILBOX_INTERRUPT: taken when pending, enabled and allowed, and no request comes before it (R394). -/
def execMailboxInterrupt (h : Nat) (s : State) : Out := dueStep h 1 true s
/-- PREEMPTION_TRAP: cause 14, stval 0, for a standing request; an ended hart takes it at the end address (R385, R394). -/
def execPreemptionTrap (h : Nat) (s : State) : Out := dueStep h 14 false s

/-- The end address (R370). -/
def endAddress : Word := 0xFFFF_FFFF_FFFF_F000

/-- END_OF_BODY: a user-mode fetch from the end address ends the body without a trap; the window closes (R370, R79). -/
def execEndOfBody (h : Nat) (s : State) : Out :=
  let x := s.hartAt h
  if s.issuing h && !x.sup && x.pc = endAddress then
    .next (s.mapHart h fun x => { x with ended := true, window := false })
  else .next s

/-- RESERVED_ENCODING: cause 4 with the encoding in hand in stval (R102 to R104). -/
def execReservedEncoding (s : State) : Out := settle illegal s
/-- FETCH_FAULT: cause 0, 1, 2, 3, 8 or 9 of a fetch, stval the parcel's address (R82, R103, R129). -/
def execFetchFault (cause : Nat) (addr : BitVec 64) (s : State) : Out := settle (trap cause addr.toNat) s

/-- QCFG_WRITE (R223). -/
def execQcfgWrite (h : Nat) (v : BitVec 64) (s : State) : Out := .next (s.csrWrite h 0x10A v.toNat)
/-- SSTATUS_LEAVE (R402). -/
def execSstatusLeave (h : Nat) (s : State) : Out := .next (s.leave h)
/-- VIOLOG_WRITE (R342). -/
def execViologWrite (h : Nat) (v : BitVec 64) (s : State) : Out := .next (s.setViolog h v.toNat)
/-- A window loaded into the fabric admission table, of at most 16 for each source device, or taken from it (R438). -/
def State.loadWindow (s : State) (w : Window) (present : Bool) : State :=
  let rest := s.admission.filter fun x => x ≠ w
  if !present then { s with admission := rest }
  else if 16 ≤ (rest.filter fun x => x.src = w.src).length then s else { s with admission := rest ++ [w] }
/-- REGISTER_WRITE: a write by the access codes of the register's fields (R8): a CSR's; a comparator, RW (R465); DONE and ERRLOG of the
mailbox and DENIED of a stream, W1C (R441, R455); a window of the admission table, present with bit 0 (R438). -/
def execRegisterWrite (place : RegPlace) (v : BitVec 64) (s : State) : Out :=
  .next (match place with
    | .csr h num => s.csrWrite h num.toNat v.toNat
    | .timer h => s.mapHart h fun x => { x with timecmp := v }
    | .mailbox => { s with mbxDone := s.mbxDone && !v.getLsbD 1, mbxErr := s.mbxErr && !v.getLsbD 2 }
    | .ideStatus stream => if v.getLsbD 0 then { s with denied := s.denied &&& ~~~ (1#16 <<< stream) } else s
    | .window src base limit read write ctx => s.loadWindow ⟨src, base, limit, read, write, ctx⟩ (v.getLsbD 0))

/-- HART_STALL_END: the hart issues its instruction again, which waits again if what it waits for has not come (R80). -/
def execHartStallEnd (h : Nat) (s : State) : Out := .next (s.mapHart h fun x => { x with stalled := none })
/-- TAG_RETIRE: once the tag's access is performed, the tag leaves every taint set (R214). -/
def execTagRetire (h tag : Nat) (s : State) : Out :=
  let v := hartView (h % 512)
  let ready (t : Tag) : Bool :=
    t.id == tag && !(s.hartAt h).run.any (fun r => r.tag = some tag || r.pops = some tag) && t.needs.all fun id => !s.writes.any fun w => w.id == id && !w.inView v
  .next (s.mapHart h fun x => x.retireTags ready)
/-- VIEW_ADVANCE: a write enters an agent's view, performed at a scope that contains it, or every view (R206, R208). -/
def execViewAdvance (wid : Nat) (view : Option View) (s : State) : Out :=
  .next { s with writes := dropDone (s.writes.map fun w =>
    if w.id = wid then (match view with | some v => w.enter v | none => { w with scope := max w.scope 5 }) else w) }
/-- TLB_EVICTION: a cached translation leaves its structure by replacement, unless a hart pins it (R78, R340). -/
def execTlbEviction (place : TlbPlace) (idx : Nat) (s : State) : Out :=
  .next (match place with
    | .core n =>
      match (s.coreAt n).tlb[idx]? with
      | some e => if s.pinned e.ctx (n % 64) then s else s.mapCore n fun c => { c with tlb := c.tlb.eraseIdx idx }
      | none => s
    | .die n =>
      match (s.dieAt n).tlb[idx]? with
      | some e => if s.pinnedDie e.ctx n then s else s.mapDie n fun d => { d with tlb := d.tlb.eraseIdx idx }
      | none => s
    | .walk n =>
      match (s.dieAt n).walk[idx]? with
      | some e => if s.pinnedDie e.ctx n then s else s.mapDie n fun d => { d with walk := d.walk.eraseIdx idx }
      | none => s)

end Sys2Proof.Machine
end

