-- ==== Sys2Proof/Machine/Sluice.lean ====
section
/-! DEFINITION. The Sluice: subscriptions, passes, fetches, deliveries and the merge unit (16_attention R282 to R294, R301,
R302; 02_numbers R51). -/

namespace Sys2Proof.Machine

/-! ### Groups and the merge buffer (R284, R286, R288) -/

def State.groupAt (s : State) (gseq : Nat) : Option Group := s.groups.find? fun g => g.gseq = gseq
/-- A group put back into the state, which keeps the order of formation. -/
def State.setGroup (s : State) (g : Group) : State :=
  if s.groups.any fun x => x.gseq = g.gseq then { s with groups := s.groups.map fun x => if x.gseq = g.gseq then g else x }
  else { s with groups := s.groups ++ [g] }
def State.mapGroup (s : State) (gseq : Nat) (f : Group → Group) : State :=
  { s with groups := s.groups.map fun x => if x.gseq = gseq then f x else x }
/-- GSEQ of a crew (R381). -/
def Crew.gseq (c : Crew) : Nat := c.groupid.toNat % 2 ^ 32
/-- The group of a crew, idle when it has none yet (R288). -/
def State.groupOf (s : State) (n : Nat) : Group :=
  let c := s.crewAt n
  (s.groupAt c.gseq).getD ⟨c.gseq, n / 32, (c.resident.map Resident.lid).getD 0, (c.resident.map Resident.ctx).getD 0,
    none, none, none, [], [], []⟩

/-- The bytes of one running state or merge slot, and QB (R284). -/
def MBind.stateSize (b : MBind) : Nat := b.hn * (8 + 4 * b.d)
def MBind.qb (b : MBind) : Nat := 64 + (b.slots + 1) * b.stateSize
/-- The size of the whole buffer (R286). -/
def MBind.size (b : MBind) : Nat := 64 + b.nq * b.qb
/-- The place of the byte at an offset of the buffer. -/
def MBind.pa (b : MBind) (off : Nat) : Nat :=
  let o := b.base % 0x1_0000 + off
  b.frames.getD (o / 0x1_0000) 0 + o % 0x1_0000
/-- The offset of the running state (k = 0) or of merge slot k − 1 of a query (R284). -/
def MBind.stateOff (b : MBind) (mq k : Nat) : Nat := 128 + b.qb * mq + k * b.stateSize

def State.mbGet (s : State) (b : MBind) (off n : Nat) : Nat := s.homeNat (b.pa off) n
def State.mbPut (s : State) (b : MBind) (off n v : Nat) : State := s.homeTake (b.pa off) n v

/-- Word 0 of a query record and its fields (R284). -/
def State.query (s : State) (b : MBind) (mq : Nat) : Nat := s.mbGet b (64 + b.qb * mq) 8
def State.setQuery (s : State) (b : MBind) (mq v : Nat) : State := s.mbPut b (64 + b.qb * mq) 8 v
def qF (v : Nat) : Nat := bits v 23 0
def qE (v : Nat) : Nat := bits v 47 24
def qBusy (v : Nat) : Bool := v.testBit 48
def qErr (v : Nat) : Bool := v.testBit 49
def qDone (v : Nat) : Bool := v.testBit 50

/-- A counter of a group's merge buffer raised: 0 FETCH, 1 DELIV, 2 REFETCH, 3 STRAG, 4 STALL, 5 REJECT (R284). -/
def State.mbCount (s : State) (gseq k n : Nat) : State :=
  match s.groupAt gseq with
  | none => s
  | some g =>
    match g.bind with
    | some b => (s.mbPut b (8 * k) 8 (s.mbGet b (8 * k) 8 + n)).count (dieItem g.die (s.ctxWorld g.ctx) k) n
    | none => s

/-- A partial or a page rejected: ERR of a query that is BUSY, and REJECT (R289, R294). -/
def State.mbReject (s : State) (gseq mq : Nat) : State :=
  match (s.groupAt gseq).bind Group.bind with
  | some b =>
    let v := s.query b mq
    let s := if mq < b.nq && qBusy v then s.setQuery b mq (putBits v 49 1 1) else s
    s.mbCount gseq 5 1
  | none => s

/-- A query of the binding is BUSY. -/
def State.anyBusy (s : State) (b : MBind) : Bool := (List.range b.nq).any fun j => qBusy (s.query b j)

/-! ### The merge (R51, R294) -/

def dec32 (c : Nat) : FVal := decodeIeee fp32 true c
/-- round_rne_fp32 (R36). -/
def r32 (v : FVal) : Nat := (packVal fp32 .rne v).1
/-- −∞ in FP32. -/
def negInf32 : Nat := 0xFF80_0000
/-- round_rne_fp32(a − b). -/
def sub32 (a b : Nat) : Nat := r32 (addVal .rne (dec32 a) (dec32 b).neg).1
/-- exp2_rne_fp32. -/
def exp32 (a : Nat) : Nat := r32 (exp2Val (dec32 a)).1
/-- round_rne_fp32(a × p + b × q), exact before its one rounding. -/
def mix32 (a p b q : Nat) : Nat := r32 (addVal .rne (mulVal (dec32 a) (dec32 p)).1 (mulVal (dec32 b) (dec32 q)).1).1

/-- The scales of a merge of running maximum m with m1, none when every score so far was masked (R51). -/
def mergeScales (m m1 : Nat) : Option (Nat × Nat × Nat) :=
  let n := (minMaxBits fp32 true m m1).1
  if n = negInf32 then none else some (n, exp32 (sub32 m n), exp32 (sub32 m1 n))

/-- Head h of merge slot `k` folded into the running state of query mq (R51). -/
def State.mergeHead (s : State) (b : MBind) (mq k h : Nat) : State :=
  let run := b.stateOff mq 0 + h * (8 + 4 * b.d)
  let slot := b.stateOff mq k + h * (8 + 4 * b.d)
  match mergeScales (s.mbGet b run 4) (s.mbGet b slot 4) with
  | none => s
  | some (n, so, s1) =>
    let mix (s : State) (o : Nat) : State := s.mbPut b (run + o) 4 (mix32 (s.mbGet b (run + o) 4) so (s.mbGet b (slot + o) 4) s1)
    let s := (List.range (b.d + 1)).foldl (fun s i => mix s (4 + 4 * i)) s
    s.mbPut b run 4 n

/-- F advanced past a page: at E the query becomes DONE and BUSY clears (R294). -/
def qAdvance (v : Nat) : Nat :=
  let v := putBits v 0 24 (qF v + 1)
  if qF v = qE v then putBits (putBits v 48 1 0) 50 1 1 else v

/-- Partials folded and empty pages passed while the frontier's page is there (R289, R294). -/
def State.mergeGo (gseq mq : Nat) : Nat → State → State
  | 0, s => s
  | k + 1, s =>
    match (s.groupAt gseq).bind Group.bind with
    | none => s
    | some b =>
      let v := s.query b mq
      let f := qF v
      if mq ≥ b.nq || !qBusy v then s
      else if b.empty.contains (mq, f) then
        let s := s.mapGroup gseq fun g => { g with bind := some { b with empty := b.empty.filter fun e => e != (mq, f) } }
        State.mergeGo gseq mq k (s.setQuery b mq (qAdvance v))
      else if b.full.contains (mq, f) then
        let s := (List.range b.hn).foldl (fun s h => s.mergeHead b mq (f % b.slots + 1) h) s
        let s := s.mapGroup gseq fun g => { g with bind := some { b with full := b.full.filter fun e => e != (mq, f) } }
        State.mergeGo gseq mq k (s.setQuery b mq (qAdvance v))
      else s

/-- The merge run for a query as far as it goes; 2^24 pages bound it. -/
def State.merge (s : State) (gseq mq : Nat) : State :=
  match (s.groupAt gseq).bind Group.bind with
  | some b => let v := s.query b mq; State.mergeGo gseq mq (qE v - qF v) s
  | none => s

/-- A logical page counted as merged empty; `bad` sets ERR and adds 1 to REJECT (R289). -/
def State.markEmpty (s : State) (gseq mq j : Nat) (bad : Bool) : State :=
  match (s.groupAt gseq).bind Group.bind with
  | none => s
  | some b =>
    let v := s.query b mq
    let s := if bad then s.mbReject gseq mq else s
    if !qBusy v || j < qF v || b.empty.contains (mq, j) then s
    else s.mapGroup gseq fun g => { g with bind := some { b with empty := (mq, j) :: b.empty } }

/-- A partial written into its merge slot: heads and dimensions that it does not carry are those of an empty partial. -/
def State.putPartial (s : State) (b : MBind) (p : Partial) : State :=
  let k := p.j % b.slots + 1
  (List.range b.hn).foldl (fun s h =>
    let at' := b.stateOff p.mq k + h * (8 + 4 * b.d)
    let s := s.mbPut b at' 4 (p.m1.getD h negInf32)
    let s := s.mbPut b (at' + 4) 4 (p.l1.getD h 0)
    (List.range b.d).foldl (fun s d => s.mbPut b (at' + 8 + 4 * d) 4 ((p.o1.getD h []).getD d 0)) s) s

/-- A partial placed in its merge slot, or discarded (R294). -/
def State.placePartial (s : State) (gseq : Nat) (p : Partial) : State :=
  match (s.groupAt gseq).bind Group.bind with
  | none => s
  | some b =>
    let v := s.query b p.mq
    if p.mq ≥ b.nq || !qBusy v || p.j < qF v || p.j ≥ qF v + b.slots ||
        b.full.any (fun e => e.1 = p.mq && e.2 % b.slots = p.j % b.slots) then s.mbReject gseq p.mq
    else
      let s := s.putPartial b p
      s.mapGroup gseq fun g => { g with bind := some { b with full := (p.mq, p.j) :: b.full } }

/-- PARTIAL_MERGE: the oldest partial of a query placed, and the merge run (R294). -/
def execPartialMerge (die gseq mq : Nat) (s : State) : Out :=
  .next (match s.groupAt gseq with
    | none => s
    | some g =>
      if g.die ≠ die % 8 then s
      else match g.inbox.findIdx? fun p => p.mq = mq with
        | none => s
        | some i =>
          match g.inbox[i]? with
          | none => s
          | some p =>
            (((s.setGroup { g with inbox := g.inbox.eraseIdx i }).placePartial gseq p).merge gseq mq).count
              (dieItem g.die (s.ctxWorld g.ctx) 6) 1)

/-! ### Subscriptions and passes (R287 to R289) -/

def State.subAt (s : State) (id : Nat) : Option Sub := s.subs.find? fun u => u.id = id
/-- The Sluice at work for a subscription: path S, the die's view (R204, R282). -/
def Sub.agent (u : Sub) : Agent := ⟨.engine u.hart .S u.id, .die (dieOf u.hart), u.rq, 4, u.hart, 2 ^ 64 + u.id, u.pc⟩
/-- The answers of other devices to a subscription's reads, used up. -/
def State.dropSubAnswers (s : State) (u : Sub) : State :=
  s.mapHart u.hart fun x => { x with remote := x.remote.filter fun r => r.ticket != 2 ^ 64 + u.id }
/-- The crew that a subscription's deliveries go to, while it is resident. -/
def State.subCrew (s : State) (u : Sub) : Option Nat :=
  ((List.range 32).map fun i => 32 * dieOf u.hart + i).find? fun n =>
    match (s.crewAt n).resident with
    | some x => x.lid = u.lid && x.place = u.place && !(s.crewAt n).ending
    | none => false
/-- The word of a subscription's query, 0 without a binding. -/
def State.subQuery (s : State) (u : Sub) : Nat :=
  match (s.groupAt u.gseq).bind Group.bind with
  | some b => s.query b u.mq
  | none => 0

/-- A refused, poisoned or failing read of the Sluice entered in the logs (R344, R346, R417, R453). -/
def State.sluiceFault (s : State) (u : Sub) (code va pa : Nat) : State :=
  let ag := u.agent
  if code = 1 || code = 9 then s.engLog ag 5 1 va
  else if code = 4 then s.logError 5 (unitOf pa) (s.locOf pa) u.rq.ctx pa
  else if code = 5 then (s.engLog ag 4 8 va).logError 15 (unitOf pa) (s.locOf pa) u.rq.ctx pa
  else s

/-- The block-table entries of a subscription read once, in ascending order: each with its value or its fault, or none while
another device's answer is awaited (R289). -/
def State.readTable (u : Sub) : Nat → Nat → State → List (Nat × Except (Nat × Nat × Nat) Nat) →
    State × Option (List (Nat × Except (Nat × Nat × Nat) Nat))
  | 0, _, s, acc => (s, some acc.reverse)
  | k + 1, j, s, acc =>
    match s.engBytes u.agent ((u.bt + 4 * j) % 2 ^ 64) 4 with
    | (s, .error .wait) => (s, none)
    | (s, .error (.code c va pa)) => State.readTable u k (j + 1) s ((j, .error (c, va, pa)) :: acc)
    | (s, .ok d) => State.readTable u k (j + 1) s ((j, .ok (leValue d)) :: acc)

/-- The tables of several subscriptions read. -/
def State.readTables : List Sub → State → List (Sub × List (Nat × Except (Nat × Nat × Nat) Nat)) →
    State × Option (List (Sub × List (Nat × Except (Nat × Nat × Nat) Nat)))
  | [], s, acc => (s, some acc.reverse)
  | u :: r, s, acc =>
    match State.readTable u u.count u.first s [] with
    | (s, none) => (s, none)
    | (s, some l) => State.readTables r s ((u, l) :: acc)

/-- The page that an entry names, none when it counts as merged empty, with the mark of an error (R289). -/
def State.entryPage (s : State) (u : Sub) (e : Nat) : Except Bool Nat :=
  if e = 0xFFFF_FFFF then .error false
  else match s.poolAt u.pool with
    | none => .error true
    | some p =>
      if e ≥ p.npages then .error true
      else
        let st := prState (s.pageRec p e)
        if st = 0 || st = 4 then .error true else .ok e

/-- A pair put on the list of its physical page (R289). -/
def addPair (x : Pair) : List (List Pair) → List (List Pair)
  | [] => [[x]]
  | l :: r =>
    if l.any fun y => y.pool = x.pool && y.page = x.page then (l ++ [x]) :: r else l :: addPair x r

/-- The entries of one subscription turned into pairs, or into pages merged empty. -/
def State.addEntries (u : Sub) (kind : PairKind) : List (Nat × Except (Nat × Nat × Nat) Nat) → State → List (List Pair) →
    State × List (List Pair)
  | [], s, acc => (s, acc)
  | (j, .error (c, va, pa)) :: r, s, acc =>
    State.addEntries u kind r ((s.sluiceFault u c va pa).markEmpty u.gseq u.mq j true) acc
  | (j, .ok e) :: r, s, acc =>
    match s.entryPage u e with
    | .error bad => State.addEntries u kind r (s.markEmpty u.gseq u.mq j bad) acc
    | .ok id => State.addEntries u kind r s (addPair ⟨u.id, j, u.pool, id, kind, 0, false⟩ acc)

/-- The schedule's key of a page: the smallest j of its pairs, then the page ID (R289). -/
def pageKey (l : List Pair) : Nat × Nat :=
  (l.foldl (fun a x => min a x.j) ((l.headD ⟨0, 0, 0, 0, .main, 0, false⟩).j), (l.headD ⟨0, 0, 0, 0, .main, 0, false⟩).page)
def keyLt (a b : Nat × Nat) : Bool := a.1 < b.1 || (a.1 = b.1 && a.2 < b.2)
/-- A page inserted in schedule order. -/
def insertPage (l : List Pair) : List (List Pair) → List (List Pair)
  | [] => [l]
  | m :: r => if keyLt (pageKey l) (pageKey m) then l :: m :: r else m :: insertPage l r

/-- The subscriber lists of some subscriptions in schedule order, or none while a device's answer is awaited (R289). -/
def State.buildPass (s : State) (us : List Sub) (kind : PairKind) : State × Option (List (List Pair)) :=
  match State.readTables us s [] with
  | (s, none) => (s, none)
  | (s, some tables) =>
    let s := us.foldl (fun s u => s.dropSubAnswers u) s
    let r := tables.foldl (fun (a : State × List (List Pair)) t => State.addEntries t.1 kind t.2 a.1 a.2) (s, [])
    let s := us.foldl (fun s u => s.merge u.gseq u.mq) r.1
    (s, some (r.2.foldl (fun acc l => insertPage l acc) []))

/-! ### The commands (R285 to R288) -/

/-- The answer of a SLUICE command. -/
def sluiceDone (rd : BitVec 5) (v : Nat) : M Unit := do
  writeX rd (BitVec.ofNat 64 v) noTaint
  retire 4

/-- The executing hart's command to the Sluice as an agent (R282); the Sluice reaches no scratchpad (R26, R203). -/
def sluiceAgent : M Agent := do
  let t ← get
  return ⟨.engine t.cur .S 0, .die (dieOf t.cur), { t.reqFor t.cur with scratch := false }, 4, t.cur, 0, t.me.pc.toNat⟩

/-- The leaf that the tables hold for an address, whatever R338 says of it, with its level. -/
def State.leafRaw (s : State) (va : Nat) : Nat → Nat → Option (Nat × Nat)
  | lvl, table =>
    let e := s.homeNat (table + 8 * walkIndex va lvl) 8
    if !eV e then none
    else if eLeaf e then some (e, lvl)
    else match lvl with
      | 0 => none
      | l + 1 => s.leafRaw va l (ePa e)
/-- An address is mapped onto the reserved part of a pool slot, or lies in a window of R26: elsewhere than a merge buffer may (R286). -/
def State.mapsReserved (s : State) (rq : Req) (va : Nat) : Bool :=
  (0xF0_0000_0000_0000 ≤ va && va < 0x100_0000_0000_0000) ||
  match s.leafRaw (va % 2 ^ 57) 4 (rq.root * 4096) with
  | some (e, lvl) =>
    let off := va % leafSize lvl
    let pa := ePa e + (if eTol e then off / 2 else off)
    !nonCanonical va && 0x200_0000_0000 ≤ pa && pa < 0x204_0000_0000 && !inPool pa
  | none => false
/-- The place of a merge buffer's page, whatever its permissions: pool SRAM of the die, or not, or the code that names none (R286). -/
def State.mbPlace (s : State) (ag : Agent) (die va : Nat) : State × Except Nat Bool :=
  match s.leafFor ag.rq va with
  | (s, .error c) => (s, .error c)
  | (s, .ok e) =>
    match s.leafLoc e va with
    | .ok (.local pa) => (s, .ok (inPool pa && poolDie pa = die))
    | .ok _ => (s, .ok false)
    | .error c => (s, .error c)
/-- The code of the place of a merge buffer's page, or its frame: 7 elsewhere than in the die's pool SRAM, then 2, 3, 1 (R286). -/
def State.mbFrame (s : State) (ag : Agent) (die va : Nat) : State × Except Nat Nat :=
  let code (s : State) (c : Nat) : State × Except Nat Nat :=
    if c = 1 then (s, .error (if s.mapsReserved ag.rq va then 7 else 1))
    else if c = 3 then
      match s.mbPlace ag die va with
      | (s, .ok false) => (s, .error 7)
      | (s, _) => (s, .error 3)
    else (s, .error c)
  match s.locate ag.rq va .read with
  | (s, .error c) => code s c
  | (s, .ok _) =>
    match s.locate ag.rq va .write with
    | (s, .error c) => code s c
    | (s, .ok (.local pa)) =>
      if inPool pa && poolDie pa = die then (if s.readRefused ag.rq.world pa 1 then (s, .error 1) else (s, .ok pa)) else (s, .error 7)
    | (s, .ok _) => (s, .error 7)

/-- The frames of the pages from a base. -/
def State.mbFrames (ag : Agent) (die : Nat) : Nat → Nat → State → List (Except Nat Nat) → State × List (Except Nat Nat)
  | 0, _, s, acc => (s, acc.reverse)
  | k + 1, va, s, acc =>
    match s.mbFrame ag die va with
    | (s, r) => State.mbFrames ag die k (va + 0x1_0000) s (r :: acc)

/-- The first code of several places, in the order 7, 2, 3, 1 (R285). -/
def placeCode (l : List (Except Nat Nat)) : Nat :=
  let has (c : Nat) : Bool := l.any fun r => match r with | .error e => e = c | .ok _ => false
  if has 7 then 7 else if has 2 then 2 else if has 3 then 3 else if has 1 then 1 else 0

/-- The ranges of a merge buffer that its home holds (R284). -/
def mbHeld : List Nat → Nat → Nat → Nat → Nat → List Held
  | [], _, _, _, _ => []
  | f :: r, off, n, ctx, gseq =>
    let len := min n (0x1_0000 - off)
    ⟨.merge, f + off, len, ctx, gseq⟩ :: mbHeld r 0 (n - len) ctx gseq

/-- The merge slots that a binding is charged with (R286). -/
def MBind.charge (b : MBind) : Nat := b.nq * b.slots

/-- A group's binding released: its memory no longer held, its slots refunded (R286, R341). -/
def State.releaseMb (s : State) (gseq : Nat) : State :=
  match s.groupAt gseq with
  | none => s
  | some g =>
    match g.bind with
    | none => s
    | some b =>
      let s := { s with held := s.held.filter fun h => !(h.kind == HeldKind.merge && h.aux == gseq) }
      let s := if g.ctx = 0 then s else s.ctxPut g.ctx 295 276 (s.ctxField g.ctx 295 276 - b.charge)
      s.setGroup { g with bind := none }

/-- A binding made: every query idle, the counters zero, the slots charged (R286). -/
def State.bindMb (s : State) (g : Group) (b : MBind) : State :=
  let s := (s.setGroup g).releaseMb g.gseq
  let s := s.setGroup { g with bind := some b }
  let s := { s with held := mbHeld b.frames (b.base % 0x1_0000) b.size g.ctx g.gseq ++ s.held }
  let s := if g.ctx = 0 then s else s.ctxPut g.ctx 295 276 (s.ctxField g.ctx 295 276 + b.charge)
  let s := (List.range 8).foldl (fun s k => s.mbPut b (8 * k) 8 0) s
  (List.range b.nq).foldl (fun s j => s.setQuery b j 0) s

/-- The configuration word of MBSET is in range (R286). -/
def mbConfigOk (c : Nat) : Bool :=
  bits c 63 37 = 0 && bits c 31 28 = 0 && bits c 23 23 = 0 && bits c 15 9 = 0 &&
  1 ≤ bits c 22 16 && bits c 22 16 ≤ 64 && 1 ≤ bits c 8 0 && bits c 8 0 ≤ 256

/-- MBSET (R285, R286). -/
def execMbset (rd rs1 rs2 : BitVec 5) (s : State) : Out :=
  settle (do
    let h ← getHart
    waitTaint [h.xt rs1, h.xt rs2]
    let n ← curNum
    let ag ← sluiceAgent
    let g := (← get).groupOf (crewOf n)
    let t ← get
    let busy := match g.bind with | some b => t.anyBusy b | none => false
    if rs1 = 0 then
      if busy then sluiceDone rd 5
      else
        modState fun s => s.releaseMb g.gseq
        sluiceDone rd 0
    else
      let base := (h.xr rs1).toNat
      let c := (h.xr rs2).toNat
      let b : MBind := { base := base, frames := [], nq := bits c 8 0, slots := bits c 22 16, hn := bits c 27 24 + 1,
                         d := 16 * (bits c 36 32 + 1), full := [], empty := [] }
      if base % 4096 ≠ 0 then sluiceDone rd 7
      else
        let size := b.size
        let frames ← liftOp fun s =>
          State.mbFrames ag (dieOf n) ((base % 0x1_0000 + size + 0xFFFF) / 0x1_0000) (base / 0x1_0000 * 0x1_0000) s []
        let code := placeCode frames
        if code ≠ 0 then
          if code = 1 then modState fun s => s.engLog ag 1 1 base else pure ()
          sluiceDone rd code
        else if !mbConfigOk c then sluiceDone rd 7
        else if busy then sluiceDone rd 5
        else
          let t ← get
          let old := match g.bind with | some b => b.charge | none => 0
          let fs := frames.filterMap fun r => match r with | .ok f => some f | .error _ => none
          if g.ctx ≠ 0 && t.ctxField g.ctx 295 276 - old + b.charge > t.ctxField g.ctx 231 212 then sluiceDone rd 9
          else
            modState fun s => s.bindMb g { b with frames := fs }
            sluiceDone rd 0) s

/-- The code of a subscription record's read (R285). -/
def sluiceCode (c : Nat) : Nat := if c = 2 then 2 else if c = 3 then 3 else 1

/-- What PGSUB of a layer meets in a domain: code 6, a main-pass subscription, or a late joiner (R288). -/
inductive JoinAs where
  | wrong | main (collecting : Nat) | late
  deriving DecidableEq, Repr

def Group.join (g : Group) (layer : Nat) : JoinAs :=
  match g.serving, g.collecting with
  | none, none => .main layer
  | none, some c => if c = layer then .main c else .wrong
  | some l, c =>
    if layer = l then .late
    else if layer = (l + 1) % 2 ^ 16 then .main (c.getD layer)
    else .wrong

/-- The operands of a subscription record, and their agreement with the pool and the buffer (R287). -/
def subOk (w0 w1 w2 w3 pd : Nat) (b : MBind) : Bool :=
  let count := bits w1 47 24
  w0 % 4 = 0 && 1 ≤ count && count ≤ 65536 && bits w1 23 0 + count ≤ 2 ^ 24 - 1 && bits w2 63 42 = 0 && bits w2 29 28 = 0 &&
  bits w2 35 30 + bits w2 41 36 + 1 ≤ pdHeads pd && bits w3 63 56 = 0 && bits w3 47 0 = 0 && bits w3 55 48 < b.nq &&
  pdHdim pd = b.d

/-- The subscriptions of a die whose query is not done (R285). -/
def State.liveSubs (s : State) (die : Nat) : Nat := (s.subs.filter fun u => dieOf u.hart = die && qBusy (s.subQuery u)).length

/-- A query started: F, E, BUSY and an empty running state (R287, R51). -/
def State.startQuery (s : State) (b : MBind) (u : Sub) : State :=
  let s := s.setQuery b u.mq (u.first + (u.first + u.count) * 2 ^ 24 + 2 ^ 48)
  (List.range b.hn).foldl (fun s h =>
    let at' := b.stateOff u.mq 0 + h * (8 + 4 * b.d)
    (List.range (b.d + 1)).foldl (fun s i => s.mbPut b (at' + 4 + 4 * i) 4 0) (s.mbPut b at' 4 negInf32)) s

/-- A pair belongs to a group. -/
def State.pairOf (s : State) (g : Group) (x : Pair) : Bool :=
  match s.subAt x.sub with
  | some u => u.gseq = g.gseq
  | none => false
/-- Nothing of a group is outstanding in the stages or to be resumed. -/
def State.settled (s : State) (g : Group) : Bool :=
  let d := s.dieAt g.die
  !(d.fetches.any fun f => f.pairs.any (s.pairOf g)) && !(d.delivs.any fun v => s.pairOf g v.pair) && !(d.resume.any (s.pairOf g))
/-- A pass has no page left to fetch. -/
def Pass.spent (p : Pass) : Bool := p.todo.isEmpty && p.extra.isEmpty && p.late.isEmpty
/-- The first pass ends once all its deliveries are complete, and only then the next layer is fetched; an empty pass ends at once
(R288). -/
def State.passSettle (s : State) (gseq : Nat) : State :=
  match s.groupAt gseq with
  | none => s
  | some g => if (g.passes.head?.map Pass.spent).getD false && s.settled g then s.setGroup { g with passes := g.passes.dropWhile Pass.spent } else s

/-- The pairs and deliveries of some subscriptions dropped with the subscriptions, and the passes ended whose last deliveries these were
(R288, R376). -/
def State.dropSubs (s : State) (gone : Sub → Bool) : State :=
  let ids := (s.subs.filter gone).map fun u => u.id
  let keep (x : Pair) : Bool := !ids.contains x.sub
  let fetch (d : Die) (f : Fetch) : Fetch :=
    { f with pairs := f.pairs.filter keep,
             left := f.left - (f.pairs.filter fun x => !keep x).length -
               (d.delivs.filter fun v => v.fetch = f.id && !keep v.pair).length }
  let s : State := { s with
    subs := s.subs.filter fun u => !ids.contains u.id,
    groups := s.groups.map fun g =>
      { g with csubs := g.csubs.filter (fun i => !ids.contains i),
               passes := g.passes.map fun p =>
                 { p with todo := (p.todo.map fun l => l.filter keep).filter (fun l => !l.isEmpty),
                          extra := p.extra.filter keep, late := p.late.filter fun i => !ids.contains i } } }
  let s : State := (List.range 8).foldl (fun s die =>
    let d := s.dieAt die
    let fs := d.fetches.map (fetch d)
    let fin := fs.filter fun f => f.left = 0
    let s := s.mapDie die fun d => { d with fetches := fs.filter (fun f => f.left ≠ 0),
                                            delivs := d.delivs.filter (fun v => keep v.pair), resume := d.resume.filter keep }
    fin.foldl (fun s f => match s.poolAt f.pool with | some p => s.inflLower p f.page | none => s) s) s
  s.groups.foldl (fun s g => s.passSettle g.gseq) s

/-- A subscription accepted: the query starts, and it joins its pass (R287, R288). -/
def State.subscribe (s : State) (g : Group) (b : MBind) (u : Sub) (how : JoinAs) : State :=
  let s := s.dropSubs fun x => x.gseq = g.gseq && x.mq = u.mq
  let g := (s.groupAt g.gseq).getD g
  let b := { b with full := b.full.filter (fun e => e.1 != u.mq), empty := b.empty.filter fun e => e.1 != u.mq }
  let s := ({ s with subs := s.subs ++ [u], nextSub := s.nextSub + 1 }).startQuery b u
  match how with
  | .late =>
    let ps : List Pass := g.passes.map fun p => if p.layer = u.layer then { p with late := p.late ++ [u.id] } else p
    let ps : List Pass := if ps.any (fun p => p.late.contains u.id) then ps else ps ++ [⟨u.layer, [], [], [u.id]⟩]
    s.setGroup { g with bind := some b, passes := ps }
  | .main c => s.setGroup { g with bind := some b, collecting := some c, csubs := g.csubs ++ [u.id] }
  | .wrong => s

/-- PGSUB (R285, R287, R288). -/
def execPgsub (rd rs1 rs2 : BitVec 5) (s : State) : Out :=
  settle (do
    let h ← getHart
    waitTaint [h.xt rs1, h.xt rs2]
    let n ← curNum
    let ag ← sluiceAgent
    let va := (h.xr rs1).toNat
    if va % 32 ≠ 0 then sluiceDone rd 7
    else
      match ← liftOp fun s => s.engBytes ag va 32 with
      | .error .wait => stall .remote
      | .error (.code c a pa) =>
        modState fun s => s.cmdFault ag c a pa
        sluiceDone rd (sluiceCode c)
      | .ok rec =>
        let w (k : Nat) : Nat := leValue ((rec.drop (8 * k)).take 8)
        match ← liftOp fun s => s.poolSeen ag (h.xr rs2).toNat with
        | .error c => sluiceDone rd c
        | .ok p =>
          let t ← get
          let g := t.groupOf (crewOf n)
          let pd := t.poolDesc p
          match g.bind with
          | none => sluiceDone rd 4
          | some b =>
            let u : Sub := {
              id := t.nextSub, gseq := g.gseq, lid := ((← getCrew).resident.map Resident.lid).getD 0,
              place := ((← getCrew).resident.map Resident.place).getD 0, hart := n, rq := ag.rq, pc := h.pc.toNat, pool := p.pa,
              bt := w 0, layer := bits (w 1) 63 48, first := bits (w 1) 23 0, count := bits (w 1) 47 24,
              nkv := bits (w 2) 41 36 + 1, kvb := bits (w 2) 35 30, q := bits (w 2) 27 24, pos := bits (w 2) 23 0,
              mq := bits (w 3) 55 48, late := decide (g.join (bits (w 1) 63 48) = .late) }
            let c := (← getCrew).chute u.q
            let how := g.join u.layer
            if !subOk (w 0) (w 1) (w 2) (w 3) pd b then sluiceDone rd 7
            else if !c.copyFed || c.isToken then sluiceDone rd 8
            else if qBusy (t.query b u.mq) then sluiceDone rd 5
            else if how = .wrong then sluiceDone rd 6
            else if t.liveSubs (dieOf n) ≥ 1024 then sluiceDone rd 9
            else
              modState fun s => s.subscribe g b u how
              sluiceDone rd (if how = .late then 0x100 else 0)) s

/-- PGOPEN (R285, R288, R289). -/
def execPgopen (rd rs1 : BitVec 5) (s : State) : Out :=
  settle (do
    let h ← getHart
    waitTaint [h.xt rs1]
    let n ← curNum
    let v := (h.xr rs1).toNat
    if v ≥ 2 ^ 16 then sluiceDone rd 7
    else
      let g := (← get).groupOf (crewOf n)
      let ok := match g.serving, g.collecting with
        | none, none => true
        | none, some c => c == v
        | some l, _ => v == (l + 1) % 2 ^ 16
      if !ok then sluiceDone rd 6
      else
        let us := g.csubs.filterMap fun i => s.subAt i
        match ← liftOp fun s => s.buildPass us .main with
        | none => stall .remote
        | some todo =>
          modState fun s =>
            let g := (s.groupAt g.gseq).getD g
            (s.setGroup { g with serving := some v, collecting := none, csubs := [], passes := g.passes ++ [⟨v, todo, [], []⟩] }).passSettle g.gseq
          sluiceDone rd (us.length % 2 ^ 16 * 2 ^ 16)) s

/-! ### Fetching (R282, R289, R291, R292) -/

/-- The page of a pair is handed over and may not be scheduled yet (R289). -/
def State.heldOver (s : State) (x : Pair) : Bool :=
  match s.poolAt x.pool with
  | some p => prState (s.pageRec p x.page) = 3
  | none => false
/-- A pair's crew is resident. -/
def State.pairResident (s : State) (x : Pair) : Bool :=
  match s.subAt x.sub with
  | some u => (s.subCrew u).isSome
  | none => false
/-- The pair with the smallest j. -/
def minPair : List Pair → Option Pair
  | [] => none
  | x :: r =>
    match minPair r with
    | none => some x
    | some y => if y.j < x.j then some y else some x

/-- Two pairs whose deliveries go to one chute of one crew. -/
def State.sameChute (s : State) (x y : Pair) : Bool :=
  match s.subAt x.sub, s.subAt y.sub with
  | some u, some v => u.lid = v.lid && u.place = v.place && u.q = v.q && dieOf u.hart = dieOf v.hart
  | _, _ => false
/-- The first remainder in the list that may be fetched: its crew is resident, its page is not handed over, and no remainder for its chute
stands before it (R302). -/
def State.firstResume (s : State) (g : Group) : List Pair → List Pair → Option Pair
  | _, [] => none
  | seen, x :: r =>
    if s.pairOf g x && s.pairResident x && !s.heldOver x && !seen.any (s.sameChute x) then some x
    else State.firstResume s g (x :: seen) r
/-- What a domain would fetch next: the pairs of one page, and whether they are refetches. Remainders that pre-emption cut come first, then
the main pass in schedule order, then missed pairs and late joiners, each page for all that wait on it (R289, R291, R292, R302). -/
def State.nextFetchOf (s : State) (g : Group) : Option (List Pair × Bool) :=
  match s.firstResume g [] (s.dieAt g.die).resume with
  | some x => some ([x], true)
  | none =>
    match g.passes with
    | [] => none
    | p :: _ =>
      match p.todo.find? fun l => !(l.any s.heldOver) with
      | some l => some (l, false)
      | none =>
        if !p.todo.isEmpty then none
        else
          match minPair (p.extra.filter fun x => !s.heldOver x) with
          | none => none
          | some x => some (p.extra.filter fun y => y.pool = x.pool && y.page = x.page, x.kind ≠ .late)

/-- The domain whose turn it is: in ascending GSEQ after the last one served, the first with a page to fetch (R282). -/
def State.nextDomain (s : State) (die : Nat) : Option (Group × List Pair × Bool) :=
  let gs := s.groups.filter fun g => g.die = die
  let turn := (s.dieAt die).turn
  let order := gs.filter (fun g => g.gseq > turn) ++ gs.filter fun g => g.gseq ≤ turn
  order.findSome? fun g => (s.nextFetchOf g).map fun r => (g, r.1, r.2)

/-- The lowest stage buffer not in use (R282). -/
def Die.freeStage (d : Die) : Option Nat := (List.range 8).find? fun i => !d.fetches.any fun f => f.stage = some i

/-- Pairs leave the lists that they wait in. -/
def State.takePairs (s : State) (g : Group) (l : List Pair) : State :=
  let s := s.mapDie g.die fun d => { d with resume := d.resume.filter fun x => !l.contains x }
  s.mapGroup g.gseq fun g =>
    { g with passes := match g.passes with
        | p :: r => { p with todo := p.todo.filter (fun m => m != l), extra := p.extra.filter fun x => !l.contains x } :: r
        | [] => [] }

/-- A chute that a resumed crew keeps for the remainder of a delivery (R226, R239). -/
def Chute.keptFor (c : Chute) (x : Pair) : Bool :=
  match c.feeder with
  | some (.sluice u j _ _) => x.kind = .resume && u = x.sub && j = x.j
  | _ => false

/-- A remainder that will not come leaves the chute kept for it (R226, R239). -/
def State.unkeep (s : State) (x : Pair) : State :=
  match s.subAt x.sub with
  | some u => match s.subCrew u with
    | some n => s.mapCrew n fun w => w.mapChute u.q fun c => if c.keptFor x then { c with feeder := none, head := 0 } else c
    | none => s
  | none => s

/-- One page fetched into a free stage: read on path S, INFL raised, FETCH counted; a read that fails, or a page that has become free or freed
since the pass was built, counts as merged empty for each of its subscribers (R278, R289, R346, R417, R453). -/
def State.sluiceFetch (s : State) (die : Nat) (g : Group) (l : List Pair) : State :=
  match (s.dieAt die).freeStage, l with
  | some st, x :: _ =>
    match s.subAt x.sub with
    | none => s.takePairs g l
    | some u =>
      let spoil (s : State) : State :=
        let s := (s.takePairs g l).mapDie die fun d => { d with turn := g.gseq }
        let s := l.foldl (fun s y => match s.subAt y.sub with
          | some v => ((s.unkeep y).markEmpty v.gseq v.mq y.j true).merge v.gseq v.mq
          | none => s) s
        s.passSettle g.gseq
      match s.poolAt x.pool with
      | none => spoil s
      | some p =>
        let pd := s.poolDesc p
        let st' := prState (s.pageRec p x.page)
        if st' = 0 || st' = 4 then spoil s
        else match s.engBytes u.agent ((pdBase pd + pdPageBytes pd * x.page) % 2 ^ 64) (pdPageBytes pd) with
        | (s, .error .wait) => s
        | (s, .error (.code c va pa)) => spoil ((s.dropSubAnswers u).sluiceFault u c va pa)
        | (s, .ok data) =>
          let s := (s.dropSubAnswers u).takePairs g l
          let s := (s.inflRaise p x.page).mbCount g.gseq 0 1
          s.mapDie die fun d =>
            { d with turn := g.gseq, nextFetch := d.nextFetch + 1,
                     fetches := d.fetches ++ [⟨d.nextFetch, some st, x.pool, x.page, data, l, l.length, s.clocksOf die⟩] }
  | _, _ => s

/-- SLUICE_FETCH: the next page of a main pass or of late joiners (R289, R292). -/
def execSluiceFetch (die : Nat) (s : State) : Out :=
  .next (match s.nextDomain (die % 8) with
    | some (g, l, false) => s.sluiceFetch (die % 8) g l
    | _ => s)
/-- SLUICE_REFETCH: a page fetched again for the pairs that missed it (R291, R302). -/
def execSluiceRefetch (die : Nat) (s : State) : Out :=
  .next (match s.nextDomain (die % 8) with
    | some (g, l, true) => s.sluiceFetch (die % 8) g l
    | _ => s)

/-- LATE_JOINER_SERVICE: the late joiners' tables read, once the main pass has scheduled its pages (R289, R292). -/
def execLateJoinerService (die : Nat) (s : State) : Out :=
  let ready (g : Group) : Bool := g.die = die % 8 && (match g.passes with | p :: _ => p.todo.isEmpty && !p.late.isEmpty | [] => false)
  .next (match s.groups.find? ready with
    | none => s
    | some g =>
      match g.passes with
      | [] => s
      | p :: _ =>
        match s.buildPass (p.late.filterMap fun i => s.subAt i) .late with
        | (s, none) => s
        | (s, some todo) =>
          (s.mapGroup g.gseq fun g =>
            { g with passes := match g.passes with
                | p :: r => { p with late := [], extra := p.extra ++ todo.flatten } :: r
                | [] => [] }).passSettle g.gseq)

/-! ### Delivery (R290, R291, R293) -/

/-- The entries of each half of a delivery (R290). -/
def halfEntries (pd nkv : Nat) : Nat := 8 * nkv * pdHdim pd * pdEsz pd
/-- Entry i of a delivery (R290, R272). -/
def delivEntry (pd : Nat) (u : Sub) (data : List Byte) (j i : Nat) : Nat :=
  let b := pdEsz pd
  if i = 0 then j * 2 ^ 40 + u.pos * 2 ^ 16
  else if i = 1 then
    u.mq * 2 ^ 48 + pdVScale pd * 2 ^ 40 + pdKScale pd * 2 ^ 32 + pdFmt pd * 2 ^ 30 + u.nkv * 2 ^ 16 + pdHdim pd
  else
    let n := halfEntries pd u.nkv
    let half := (i - 2) / n
    let at' := (i - 2) % n * 8
    let row := u.nkv * pdHdim pd * b
    let src := half * (pdPageBytes pd / 2) + (at' / row * pdHeads pd + u.kvb) * pdHdim pd * b + at' % row
    leValue ((data.drop src).take 8)

/-- A delivery complete: the counters, STRAG for every delivery to a late joiner and REFETCH for one made again, and the fetch's last
delivery lowers INFL and frees the stage (R284, R289, R292). -/
def State.delivered (s : State) (die : Nat) (fid : Nat) (x : Pair) (gseq : Nat) (made : Bool) : State :=
  let s := if made && !x.counted then s.mbCount gseq 1 1 else s
  let s := if made && (s.subAt x.sub).any Sub.late then s.mbCount gseq 3 1 else s
  let s := if made && (x.kind = .refetch || x.kind = .resume) then s.mbCount gseq 2 1 else s
  let s := s.mapDie die fun d =>
    { d with fetches := d.fetches.map fun f => if f.id = fid then { f with left := f.left - 1 } else f }
  match (s.dieAt die).fetches.find? fun f => f.id = fid with
  | none => s
  | some f =>
    if f.left ≠ 0 then s.passSettle gseq
    else
      let s := s.mapDie die fun d => { d with fetches := d.fetches.filter fun f => f.id ≠ fid }
      let s := match s.poolAt f.pool with
        | some p => s.inflLower p f.page
        | none => s
      s.passSettle gseq

/-- The pairs of a subscription in the stages, with their fetches. -/
def Die.staged (d : Die) (sub : Nat) : List (Nat × Pair) :=
  d.fetches.flatMap fun f => (f.pairs.filter fun x => x.sub = sub).map fun x => (f.id, x)

/-- The pair whose delivery a subscription may begin: the remainder of a cut delivery into its chute first, whichever of the crew's
subscriptions it belongs to; missed pairs and late joiners in ascending j; always inside the window (R291 to R293, R302). -/
def State.nextPair (s : State) (die : Nat) (g : Group) (u : Sub) : Option (Nat × Pair) :=
  let d := s.dieAt die
  let v := s.subQuery u
  let slots := (g.bind.map MBind.slots).getD 0
  let staged := d.staged u.id
  let extras := match g.passes with | p :: _ => p.extra.filter fun x => x.sub = u.id | [] => []
  let mates (x : Pair) : Bool := s.sameChute ⟨u.id, 0, 0, 0, .main, 0, false⟩ x
  let rest := (d.fetches.flatMap fun f => f.pairs.filter fun x => x.kind = .resume && mates x) ++ d.resume.filter mates
  let open' (e : Nat × Pair) : Bool := e.2.j < qF v + slots
  match rest with
  | x :: _ => staged.find? fun e => e.2 = x && open' e
  | [] =>
    let least := ((staged.map Prod.snd).filter fun x => x.kind ≠ .main) ++ extras
    staged.find? fun e => open' e && (e.2.kind = .main || least.all fun x => e.2.j ≤ x.j)

/-- A subscription's next two entries appended to its chute, or its next delivery begun (R226, R290). -/
def State.deliver (s : State) (die sub : Nat) : State :=
  match s.subAt sub with
  | none => s
  | some u =>
    match s.groupAt u.gseq, s.subCrew u with
    | some g, some n =>
      if dieOf u.hart ≠ die then s
      else
        match (s.dieAt die).delivs.find? fun v => v.pair.sub = sub with
        | some v =>
          match (s.dieAt die).fetches.find? fun f => f.id = v.fetch, s.poolAt v.pair.pool with
          | some f, some p =>
            let k := min 2 (v.last - v.pos)
            let c := (s.crewAt n).chute u.q
            if c.free < k then s
            else
              let pd := s.poolDesc p
              let es : List ChEntry := (List.range k).map fun i =>
                ⟨BitVec.ofNat 64 (delivEntry pd u f.data v.pair.j (v.pos + i)), false, .sluice sub v.pair.j v.pair.page (v.pos + i)⟩
              let fin := v.pos + k ≥ v.last
              let s := s.mapCrew n fun x => x.mapChute u.q fun y =>
                { y.append es with feeder := if fin then none else some (.sluice sub v.pair.j v.pair.page 0) }
              if fin then
                (s.mapDie die fun d => { d with delivs := d.delivs.filter fun w => w != v }).delivered die v.fetch v.pair u.gseq true
              else
                s.mapDie die fun d => { d with delivs := d.delivs.map fun w => if w = v then { v with pos := v.pos + k } else w }
          | _, _ => s
        | none =>
          match s.nextPair die g u with
          | none => s
          | some (fid, x) =>
            let c := (s.crewAt n).chute u.q
            let unstage (s : State) : State := s.mapDie die fun d =>
              { d with fetches := d.fetches.map fun f => if f.id = fid then { f with pairs := f.pairs.filter fun y => y != x } else f }
            if x.j < qF (s.subQuery u) && x.kind ≠ .resume then (unstage s).delivered die fid x u.gseq false
            else if (c.feeder.isSome && !c.keptFor x) || c.isToken then s
            else
              match s.poolAt x.pool with
              | none => s
              | some p =>
                let last := 2 + 2 * halfEntries (s.poolDesc p) u.nkv
                ((unstage s).mapDie die fun d => { d with delivs := d.delivs ++ [⟨fid, x, x.start, last⟩] }).mapCrew n
                  fun y => y.mapChute u.q fun z => { z with feeder := some (.sluice sub x.j x.page 0) }
    | _, _ => s

/-- SLUICE_DELIVERY (R290). -/
def execSluiceDelivery (die sub : Nat) (s : State) : Out := .next (s.deliver (die % 8) sub)

/-- The stage to reclaim: all eight in use, a page waiting, held for 4,096 clocks, the earliest fetch, then the lower number
(R291). -/
def State.reclaimable (s : State) (die : Nat) : Option Fetch :=
  let d := s.dieAt die
  if d.freeStage.isSome || (s.nextDomain die).isNone then none
  else
    (d.fetches.filter fun f => f.stage.isSome && decide (f.clock + 4096 ≤ s.clocksOf die)).foldl (fun a f =>
      match a with
      | none => some f
      | some g => if f.clock < g.clock || (f.clock = g.clock && decide (f.stage.getD 0 < g.stage.getD 0)) then some f else some g) none

/-- STAGE_RECLAIM: the deliveries not begun are marked missed (R291). -/
def execStageReclaim (die : Nat) (s : State) : Out :=
  .next (match s.reclaimable (die % 8) with
    | none => s
    | some f =>
      let missed := f.pairs.map fun x => if x.kind = .resume then x else { x with kind := PairKind.refetch }
      let s := s.mapDie (die % 8) fun d => { d with resume := missed.filter (fun x => x.kind = .resume) ++ d.resume }
      let s := missed.foldl (fun s x =>
        if x.kind = .resume then s
        else match s.subAt x.sub with
          | none => s
          | some u => s.mapGroup u.gseq fun g =>
              { g with passes := match g.passes with
                  | p :: r => { p with extra := p.extra ++ [x] } :: r
                  | [] => [⟨u.layer, [], [x], []⟩] }) s
      let left := f.left - f.pairs.length
      let s := s.mapDie (die % 8) fun d =>
        { d with fetches := if left = 0 then d.fetches.filter fun x => x.id ≠ f.id
                            else d.fetches.map fun x => if x.id = f.id then { x with stage := none, pairs := [], left := left } else x }
      if left = 0 then (match s.poolAt f.pool with | some p => s.inflLower p f.page | none => s) else s)

/-! ### Stalls of the window, and pre-emption (R284, R293, R302) -/

/-- The staged pairs of a die that the window holds back, with their groups. -/
def State.heldBack (s : State) (die : Nat) : List Nat :=
  (s.dieAt die).fetches.flatMap fun f => f.pairs.filterMap fun x =>
    match s.subAt x.sub with
    | none => none
    | some u =>
      match (s.groupAt u.gseq).bind Group.bind with
      | some b => if x.j ≥ qF (s.query b u.mq) + b.slots then some u.gseq else none
      | none => none

/-- The clocks of a wait added to STALL (R284). -/
def State.stallTick (s : State) (die clocks : Nat) : State :=
  if clocks = 0 then s else (s.heldBack die).foldl (fun s g => s.mbCount g 4 clocks) s

/-- The Sluice entries of a chute, oldest first, one for each delivery: subscription, logical page, page ID, first entry
present. -/
def firstEntries (es : List ChEntry) : List (Nat × Nat × Nat × Nat) :=
  es.foldl (fun acc e => match e.src with
    | .sluice u j p i => if acc.any (fun a => a.1 = u && a.2.1 = j) then acc else acc ++ [(u, j, p, i)]
    | _ => acc) []

/-- At a switch-out the crew's deliveries are cut: each begun delivery, and each whose entries were still in a chute, is rolled
back to the first entry not removed, in the order of each chute and before an older remainder of it (R302, R403). -/
def State.sluicePark (s : State) (n : Nat) : State :=
  let die := n / 32
  let c := s.crewAt n
  match c.resident with
  | none => s
  | some r =>
    let mine := s.subs.filter fun u => u.lid = r.lid && u.place = r.place && dieOf u.hart = die
    let cuts := (List.range 16).flatMap fun q =>
      let present := (firstEntries ((c.chute q).entries)).filter fun a => mine.any fun u => u.id = a.1
      let begun := (s.dieAt die).delivs.filter fun v =>
        (mine.any fun u => u.id = v.pair.sub && u.q = q) && !present.any fun a => a.1 = v.pair.sub && a.2.1 = v.pair.j
      (present.map fun a =>
        let counted := !(s.dieAt die).delivs.any fun v => v.pair.sub = a.1 && v.pair.j = a.2.1
        let pool := ((mine.find? fun u => u.id = a.1).map Sub.pool).getD 0
        (⟨a.1, a.2.1, pool, a.2.2.1, .resume, a.2.2.2, counted⟩ : Pair)) ++
      begun.map fun v => { v.pair with kind := PairKind.resume, start := v.pos }
    let gone := (s.dieAt die).delivs.filter fun v => mine.any fun u => u.id = v.pair.sub
    let s := s.mapDie die fun d => { d with delivs := d.delivs.filter (fun v => !gone.contains v), resume := cuts ++ d.resume }
    gone.foldl (fun s v => match s.subAt v.pair.sub with
      | some u => s.delivered die v.fetch v.pair u.gseq false
      | none => s) s

end Sys2Proof.Machine
end

