-- ==== Sys2Proof/Machine/Attention.lean ====
section
/-! DEFINITION. The attention chain: VASCORE, VAEXP, VAACC and VAFIN (16_attention R283, R295 to R300). -/

namespace Sys2Proof.Machine

/-! ### attncfg and the headers (R283, R290) -/

def Hart.acWlo (h : Hart) : Nat := bits h.attncfg.toNat 63 40
def Hart.acScale (h : Hart) : FVal := decodeIeee bf16 true (bits h.attncfg.toNat 39 24)
def Hart.acFmt (h : Hart) : Nat := bits h.attncfg.toNat 23 22
def Hart.acHn (h : Hart) : Nat := bits h.attncfg.toNat 15 12 + 1
def Hart.acGsh (h : Hart) : Nat := bits h.attncfg.toNat 11 9
def Hart.acD (h : Hart) : Nat := 16 * (bits h.attncfg.toNat 8 4 + 1)

def hdrJ (w : Word) : Nat := bits w.toNat 63 40
def hdrPos (w : Word) : Nat := bits w.toNat 39 16
def hdrMq (w : Word) : Nat := bits w.toNat 55 48
def hdrVScale (w : Word) : Nat := bits w.toNat 47 40
def hdrKScale (w : Word) : Nat := bits w.toNat 39 32
def hdrFmt (w : Word) : Nat := bits w.toNat 31 30
def hdrNkv (w : Word) : Nat := bits w.toNat 23 16
def hdrD (w : Word) : Nat := bits w.toNat 9 0

/-- The bytes of a key or value element of a format (R271). -/
def kvBytes (fmt : Nat) : Nat := if fmt = 0 then 2 else 1
/-- The value of a key or value element (R44, R270). -/
def kvDecode (fmt b : Nat) : FVal := if fmt = 0 then decodeIeee bf16 true b else if fmt = 1 then decodeE4M3 b else decodeTap 8 b

/-- The entries of one slot of either half (R290). -/
def Chain.slotEntries (c : Chain) : Nat := hdrNkv c.hdr1 * hdrD c.hdr1 * kvBytes (hdrFmt c.hdr1) / 8
/-- Token position 64j + s lies inside the window (R297). -/
def Hart.inWindow (h : Hart) (s : Nat) : Bool :=
  let t := 64 * hdrJ h.chain.hdr0 + s
  decide (h.acWlo ≤ t) && decide (t ≤ hdrPos h.chain.hdr0)

/-- Score or weight of slot s and head h; the chain buffer with one replaced (R295, R302). -/
def Chain.score (c : Chain) (s h : Nat) : Nat := getField c.buf (32 * (16 * s + h)) 32
def Chain.setScore (c : Chain) (s h v : Nat) : Chain := { c with buf := setField c.buf (32 * (16 * s + h)) 32 v }

/-- Element (head, dim) of a slot's entries; `free` stands for one that the entries do not hold, because attncfg was changed
after the header was taken (log 2). -/
def kvElem (fmt d : Nat) (free : Nat) (data : List Byte) (head dim : Nat) : FVal :=
  let b := kvBytes fmt
  let at' := (head * d + dim) * b
  if at' + b ≤ data.length then kvDecode fmt (leValue ((data.drop at').take b)) else kvDecode fmt (free % 2 ^ (8 * b))

/-- The exact sum of a list of values, +0 for none. -/
def sumVals : List FVal → FVal
  | [] => .fin false 0 0
  | a :: r => exactSum a r

/-- One score (R297). -/
def scoreOf (h : Hart) (q : Nat → FVal) (k : Nat → FVal) (head : Nat) : Nat :=
  let d := h.acD
  let terms := (List.range d).map fun i => (mulVal (q (head * d + i)) (k i)).1
  r32 (mulVal (mulVal h.acScale (decodeE8M0 (hdrKScale h.chain.hdr1))).1 (sumVals terms)).1

/-- The scores of one slot in the chain buffer (R297). -/
def Hart.scoreSlot (h : Hart) (vs2 : BitVec 5) (free : Nat) (data : List Byte) (s : Nat) : Hart :=
  let q (i : Nat) : FVal := decodeIeee h.fmt true (h.elem vs2 h.ew i)
  let k (head i : Nat) : FVal := kvElem (hdrFmt h.chain.hdr1) (hdrD h.chain.hdr1) free data (head / 2 ^ h.acGsh) i
  let c := (List.range h.acHn).foldl (fun (c : Chain) head =>
    c.setScore s head (if h.inWindow s then scoreOf h q (k head) head else negInf32)) h.chain
  { h with chain := { c with cursor := s + 1 } }

/-- The terms of one slot added to the accumulators (R299). -/
def Hart.accSlot (h : Hart) (free : Nat) (data : List Byte) (s : Nat) : Hart :=
  let c := h.chain
  let sc := decodeE8M0 (hdrVScale c.hdr1)
  let v (head i : Nat) : FVal := kvElem (hdrFmt c.hdr1) (hdrD c.hdr1) free data (head / 2 ^ h.acGsh) i
  let o1 := if h.inWindow s then
      (List.range h.acHn).foldl (fun (o : Vector (BitVec 16384) 16) head =>
        let w := (mulVal (dec32 (c.score s head)) sc).1
        let row := (List.range h.acD).foldl (fun (r : BitVec 16384) i =>
          setField r (32 * i) 32 (r32 (addVal .rne (dec32 (getField r (32 * i) 32)) (mulVal w (v head i)).1).1))
          (o[Fin.ofNat 16 head])
        o.set (Fin.ofNat 16 head) row) c.o1
    else c.o1
  { h with chain := { c with o1 := o1, cursor := s + 1 } }

/-- The weights of one head (R298). -/
def Hart.weighHead (h : Hart) (c : Chain) (head : Nat) : Chain :=
  let inside := (List.range 64).filter h.inWindow
  let m := match inside with
    | [] => negInf32
    | s :: r => r.foldl (fun m t => (minMaxBits fp32 true m (c.score t head)).1) (c.score s head)
  let step (a : Chain × Nat) (s : Nat) : Chain × Nat :=
    let w := if m = negInf32 || !h.inWindow s then 0 else exp32 (sub32 (a.1.score s head) m)
    (a.1.setScore s head w, r32 (addVal .rne (dec32 a.2) (dec32 w)).1)
  let r := (List.range 64).foldl step (c, 0)
  { r.1 with m1 := r.1.m1.set (Fin.ofNat 16 head) (BitVec.ofNat 32 m), l1 := r.1.l1.set (Fin.ofNat 16 head) (BitVec.ofNat 32 r.2) }

/-! ### The instructions (R296) -/

/-- An instruction of the chain without elements ends: vstart is left 0. -/
def chainDone : M Unit := do
  modHart fun h => { h with vstart := 0 }
  retire 4

/-- Entries taken whole from the chute once there are `n` of them and none is poisoned (R296). -/
def chainTake (q n : Nat) : M (List ChEntry) := do
  let c := (← getCrew).chute q
  if c.entries.length < n then stall (.chute q)
  let es := c.entries.take n
  if es.any fun e => e.poison then trapReg 9 q
  modCrew fun x => x.mapChute q fun y => { y with entries := y.entries.drop n, head := if n = 0 then y.head else 0 }
  return es

/-- The bytes of some entries. -/
def entryBytes (es : List ChEntry) : List Byte := es.flatMap fun e => leBytesOf 8 e.bits.toNat

/-- Slots from the cursor on, each taken whole; what is done before a wait or a trap stays done (R295, R397). -/
def chainSlots (q : Nat) (f : Nat → List Byte → Nat → Hart → Hart) : List Nat → M Unit
  | [] => pure ()
  | s :: r => do
    let n := (← getHart).chain.slotEntries
    let es ← chainTake q n
    let free ← liftOp fun s => let d := s.draw; (d.2, d.1)
    modHart (f (Config.freeWord free).toNat (entryBytes es) s)
    chainSlots q f r

/-- The slots not yet done. -/
def slotsFrom (cursor : Nat) : List Nat := (List.range (64 - cursor)).map fun i => cursor + i

/-- VASCORE (R296, R297). -/
def execVascore (vs2 : BitVec 5) (q : BitVec 4) (s : State) : Out :=
  settle (do
    vecIssue fun h => h.sew == 4 || h.sew == 6
    let h ← getHart
    let n := q.toNat
    if h.vln = 0 then chainDone
    else
      if h.vln < h.acHn * h.acD || h.acGsh > 4 || h.acFmt = 3 || h.chain.phase > 1 then illegal
      if !((← getCrew).chute n).copyFed then trap 11 n
      match (List.range (h.acHn * h.acD)).find? fun i => h.elemBad vs2 h.ew i with
      | some i => trapReg 9 i
      | none => pure ()
      if h.chain.phase = 0 then
        match ((← getCrew).chute n).entries with
        | a :: b :: _ =>
          if a.poison || b.poison then trapReg 9 n
          if hdrFmt b.bits ≠ h.acFmt || hdrD b.bits ≠ h.acD || hdrNkv b.bits < (h.acHn + 2 ^ h.acGsh - 1) / 2 ^ h.acGsh then
            trap 11 b.bits.toNat
          modCrew fun x => x.mapChute n fun y => { y with entries := y.entries.drop 2, head := 0 }
          modHart fun h => { h with chain := { h.chain with phase := 1, cursor := 0, hdr0 := a.bits, hdr1 := b.bits } }
        | _ => stall (.chute n)
      chainSlots n (fun free data s h => h.scoreSlot vs2 free data s) (slotsFrom (← getHart).chain.cursor)
      modHart fun h => { h with chain := { h.chain with phase := 2 } }
      chainDone) s

/-- VAEXP (R298). -/
def execVaexp (s : State) : Out :=
  settle (do
    vecIssue fun _ => true
    let h ← getHart
    if h.vln = 0 then chainDone
    else
      if h.chain.phase ≠ 2 then illegal
      modHart fun h => { h with chain := { (List.range h.acHn).foldl h.weighHead h.chain with phase := 3 } }
      chainDone) s

/-- The partial of a page (R299). -/
def Hart.partial' (h : Hart) (n : Nat) : Partial :=
  let c := h.chain
  { mq := hdrMq c.hdr1, j := hdrJ c.hdr0, hart := n,
    m1 := (List.range h.acHn).map fun i => (c.m1[Fin.ofNat 16 i]).toNat,
    l1 := (List.range h.acHn).map fun i => (c.l1[Fin.ofNat 16 i]).toNat,
    o1 := (List.range h.acHn).map fun i => (List.range h.acD).map fun d => getField (c.o1[Fin.ofNat 16 i]) (32 * d) 32 }

/-- VAACC (R299). -/
def execVaacc (q : BitVec 4) (s : State) : Out :=
  settle (do
    vecIssue fun _ => true
    let h ← getHart
    let n := q.toNat
    if h.vln = 0 then chainDone
    else
      if h.chain.phase ≠ 3 && h.chain.phase ≠ 4 then illegal
      if !((← getCrew).chute n).copyFed then trap 11 n
      if h.chain.phase = 3 then
        modHart fun h => { h with chain := { h.chain with phase := 4, cursor := 0, o1 := Vector.replicate 16 0 } }
      chainSlots n (fun free data s h => h.accSlot free data s) (slotsFrom (← getHart).chain.cursor)
      let num ← curNum
      let p := (← getHart).partial' num
      modState fun s =>
        let g := s.groupOf (crewOf num)
        s.setGroup { g with inbox := g.inbox ++ [p] }
      modHart fun h => { h with chain := { h.chain with phase := 0 } }
      chainDone) s

/-- Element i of a query's normalised output at a format (R300). -/
def State.finElem (s : State) (b : MBind) (mq d : Nat) (f : FFmt) (i : Nat) : Nat :=
  let v := s.query b mq
  let at' := b.stateOff mq 0 + i / d * (8 + 4 * b.d)
  let l := dec32 (s.mbGet b (at' + 4) 4)
  if qErr v then f.canon
  else if l.isZero || (!qBusy v && !qDone v) then 0
  else (packVal f .rne (divVal (dec32 (s.mbGet b (at' + 8 + 4 * (i % d)) 4)) l).1).1

/-- VAFIN (R300). The query becomes idle, its DONE and ERR clear, so that a further VAFIN returns +0 (log 52). -/
def execVafin (rs1 : BitVec 5) (vd : BitVec 5) (s : State) : Out :=
  settle (do
    let r : VRegs := { srcX := [rs1], dstV := [vd] }
    vecIssue fun h => h.isFloat
    let h ← getHart
    if h.vst ≥ h.vln then vecEmpty r
    else
      let g := (← get).groupOf (crewOf (← curNum))
      let x := (h.xr rs1).toNat
      let n := h.acHn * h.acD
      match g.bind with
      | none => illegal
      | some b =>
        if h.vln < n || x ≥ b.nq || h.acHn > b.hn || h.acD ≠ b.d then illegal
        if qBusy ((← get).query b x) then stall .vafin
        let t ← get
        let srcs := h.vecSources r
        modHart fun h => (idxRange h.vst n).foldl (fun h i => h.setElem vd h.ew i (t.finElem b x b.d h.fmt i)) h
        modState fun s => s.setQuery b x (putBits (s.query b x) 49 2 0)
        vecDone r (h.wholeReg r) [] srcs) s

end Sys2Proof.Machine
end

