-- ==== Sys2Proof/Machine/Index.lean ====
section
/-! DEFINITION. Index objects, cursors, and the INDEX and VINDEX instructions (18_index R305 to R326). -/

namespace Sys2Proof.Machine

/-! ### Objects (R305, R306) -/

/-- The header's fields, from its 128 bytes as a number (R306). -/
def ixState (d : Nat) : Nat := bits d 1 0
def ixWorld (d : Nat) : Nat := bits d 7 4
def ixWide (d : Nat) : Bool := d.testBit 11
def ixNmatch (d : Nat) : Nat := bits d 15 12
def ixOwner (d : Nat) : Nat := bits d 31 16
def ixCap (d : Nat) : Nat := bits d 95 64
def ixLen (d : Nat) : Nat := bits d 127 96
def ixMatch (d i : Nat) : Nat := bits d (16 * i + 143) (16 * i + 128)
/-- The size of a region (R305). -/
def ixSize (cap : Nat) : Nat := 128 + 64 * cap

/-- The place of the byte at an offset of a region. -/
def IxObj.at' (o : IxObj) (k : Nat) : Nat :=
  let a := o.off + k
  o.frames.getD (a / 0x1_0000) 0 + a % 0x1_0000
/-- The object bound at an address, and the one that a slot or a cursor still names: none once it is void (R309). -/
def State.ixAt (s : State) (pa : Nat) : Option IxObj := s.indexes.find? fun o => o.pa = pa
def State.ixLive (s : State) (pa gen : Nat) : Option IxObj := s.indexes.find? fun o => o.pa = pa && o.gen = gen
/-- The header of a bound object. -/
def State.ixHdr (s : State) (o : IxObj) : Nat := s.homeNat o.pa 128
/-- The view of the Vein that serves an object: that of die HOME (R204, R307). -/
def ixView (d : Nat) : View := .die (bits d 10 8)
/-- The text of a bound object, as the Vein that serves it reads it (R305, R307). -/
def State.ixText (s : State) (o : IxObj) : List Nat :=
  (List.range (ixLen (s.ixHdr o))).map fun i => leValue (s.viewBytes (ixView (s.ixHdr o)) .home (o.at' (128 + 4 * i)) 4)
/-- A write of a Vein into a region, an access of path X for a hart: the views of the Veins, which apply the commands in one order, hold it at
once, every other comes to hold it as R206 gives (R307). A frame that takes no further write refuses it (R451). -/
def State.veinPut (s : State) (pa n val : Nat) : State :=
  if s.spentIn pa n then s.noteSpent (s.tagOf pa) pa n
  else
    let t := s.writeBytes (.engine s.cur .X 0) pa (leBytesOf n val) 0
    (List.range 8).foldl (fun t d => t.enterAll [s.nextWrite] (.die d)) t
/-- Tokens appended at the home (R319). -/
def State.ixAppend (s : State) (o : IxObj) (toks : List Nat) : State :=
  let n := ixLen (s.ixHdr o)
  let s := toks.zipIdx.foldl (fun s t => s.veinPut (o.at' (128 + 4 * (n + t.2))) 4 t.1) s
  s.veinPut (o.pa + 12) 4 (n + toks.length)

/-! ### What stops an access to a bound object: code 1 (R314, R417, R448, R451, R453) -/

/-- The lines of a region from byte `k` on, `n` bytes: a region begins at a multiple of 4 KiB (R305). -/
def IxObj.lines (o : IxObj) (k n : Nat) : List Nat := (linesOf k n).map fun l => o.at' (64 * l)
/-- The first line of an object's first `n` bytes that its Vein may not read for a world: 1 another world's frame, 5 a MAC failure, 4 poison,
and its place. -/
def State.ixBad (s : State) (world : Nat) (o : IxObj) (n : Nat) : Option (Nat × Nat) :=
  (o.lines 0 n).findSome? fun pa =>
    if s.tagOf pa != world then some (1, pa) else if s.macBad pa then some (5, pa) else if s.poisoned pa then some (4, pa) else none
/-- The same of its header and text. -/
def State.ixTextBad (s : State) (world : Nat) (o : IxObj) : Option (Nat × Nat) := s.ixBad world o (128 + 4 * ixLen (s.ixHdr o))
/-- The same of the first slot of a cursor whose text is read, those of a match length that `need` names, with the object's place. -/
def State.ixSlotsBad (s : State) (world : Nat) (c : Cursor) (need : Nat → Bool) : Option (Nat × Nat × Nat) :=
  c.slots.toList.findSome? fun
    | .empty => none
    | .attached p g m => if need m then (s.ixLive p g).bind fun o => (s.ixTextBad world o).map fun e => (e.1, e.2, o.pa) else none
/-- The same of the header of a cursor's own index. -/
def State.ixOwnBad (s : State) (world : Nat) (c : Cursor) : Option (Nat × Nat × Nat) :=
  (c.own.bind fun x => s.ixLive x.1 x.2).bind fun o => (s.ixBad world o 128).map fun e => (e.1, e.2, o.pa)
/-- The first line that an append of `k` tokens may not write: another world's frame, a MAC failure, which a write of a part cannot mend, or a
MAJOR that is spent, in the text or in the header (R448, R451, R453). -/
def State.ixShut (s : State) (world : Nat) (o : IxObj) (k : Nat) : Option (Nat × Nat) :=
  (o.pa :: o.lines (128 + 4 * ixLen (s.ixHdr o)) (4 * k)).findSome? fun pa =>
    if s.tagOf pa != world then some (1, pa) else if s.macBad pa then some (5, pa) else if s.majorSpent pa then some (1, pa) else none

/-- R308: a context of a world may attach an object; `own` asks for the owner itself. -/
def ixAllowed (d ctx world : Nat) (own : Bool) : Bool :=
  ixWorld d = world &&
  (ixOwner d = ctx || (!own && (ixWide d || (List.range (min 8 (ixNmatch d))).any fun i => ixMatch d i = ctx)))

/-! ### Matching and proposals (R311, R312) -/

/-- The last m elements of a list. -/
def lastOf (m : Nat) (l : List Nat) : List Nat := l.drop (l.length - m)
/-- The latest start, below k, at which a pattern stands in a text. -/
def lastStart (t pat : List Nat) : Nat → Option Nat
  | 0 => none
  | k + 1 => if (t.drop k).take pat.length = pat then some k else lastStart t pat k
/-- The start of the most recent occurrence in the matching text T[0 .. n−2] (R311). -/
def occurs (t pat : List Nat) : Option Nat :=
  let mt := t.take (t.length - 1)
  lastStart mt pat (mt.length + 1 - pat.length)
/-- The largest m, from k downward, such that the last m tokens of the window occur; 0 if there is none (R311). -/
def longest (t window : List Nat) : Nat → Nat
  | 0 => 0
  | k + 1 => if (occurs t (lastOf (k + 1) window)).isSome then k + 1 else longest t window k

/-- A cursor fed one token: the history extended, every attached slot advanced (R309, R311). -/
def State.ixFeed (s : State) (c : Cursor) (tok : Nat) : Cursor :=
  let w := lastOf 256 (c.window ++ [tok])
  let n := min (c.hlen + 1) (2 ^ 48 - 1)
  { c with window := w, hlen := n,
           slots := c.slots.map fun
             | .empty => .empty
             | .attached p g m =>
               match s.ixLive p g with
               | some o => .attached p g (longest (s.ixText o) w (min (m + 1) (min n 256)))
               | none => .attached p g m }

/-- The match length of a slot that is attached and not void. -/
def State.slotM (s : State) : Slot → Option Nat
  | .empty => none
  | .attached p g m => if (s.ixLive p g).isSome then some m else none

/-- The candidate of a slot: its match length and its continuation (R312). -/
def State.candidate (s : State) (window : List Nat) (minm l : Nat) : Slot → Option (Nat × List Nat)
  | .empty => none
  | .attached p g m =>
    match s.ixLive p g with
    | none => none
    | some o =>
      if m < max minm 1 then none
      else
        let t := s.ixText o
        match occurs t (lastOf m window) with
        | none => none
        | some i => some (m, (t.drop (i + m)).take l)

/-- A candidate inserted by M descending, after those of the same M (R312). -/
def insertCand (x : Nat × List Nat) : List (Nat × List Nat) → List (Nat × List Nat)
  | [] => [x]
  | y :: r => if y.1 ≥ x.1 then y :: insertCand x r else x :: y :: r
/-- The proposals of a cursor, at most `p` (R312). -/
def State.proposals (s : State) (c : Cursor) (minm l p : Nat) : List (List Nat) :=
  let cand := (c.slots.toList.filterMap (s.candidate c.window minm l)).foldl (fun acc x => insertCand x acc) []
  (cand.take p).map Prod.snd

/-! ### Commands (R307, R313, R314) -/

def Crew.cursor (c : Crew) (i : Nat) : Cursor := c.cursors[Fin.ofNat 8 i]
def Crew.setCursor (c : Crew) (i : Nat) (x : Cursor) : Crew := { c with cursors := c.cursors.set (Fin.ofNat 8 i) x }

/-- The executing hart's command to the Vein: path X, the die's view (R204, R307). -/
def veinAgent : M Agent := do
  let t ← get
  return ⟨.engine t.cur .X 0, .die (dieOf t.cur), t.reqFor t.cur, 3, t.cur, 0, t.me.pc.toNat⟩

/-- An access to an object that is stopped, entered in the logs with an address; a spent MAJOR is reported as well (R314, R346, R417, R451, R453). -/
def State.ixFault (s : State) (ag : Agent) (va : Nat) (e : Nat × Nat) : State :=
  (if e.1 = 1 then s.noteSpent ag.rq.world e.2 1 else s).cmdFault ag e.1 va e.2

/-- The place of a region's byte, or the code 2, 3 or 1, which is logged: this module's HBM, LP6 or pool SRAM, and no tolerant
page (R305, R314). -/
def State.ixPlace (s : State) (ag : Agent) (va : Nat) (acc : Acc) : State × Except Nat Nat :=
  let refuse (s : State) : State × Except Nat Nat := (s.engLog ag 1 1 va, .error 1)
  match s.locate ag.rq va acc with
  | (s, .error 1) => refuse s
  | (s, .error c) => (s, .error c)
  | (s, .ok (.local pa)) => if inMemory pa && !s.readRefused ag.rq.world pa 1 then (s, .ok pa) else refuse s
  | (s, .ok _) => refuse s

/-- The address of an object: aligned to 4 KiB, then its place, and the header of an object bound there, which its Vein must be able to read
(R305, R314). -/
def ixAddr (ag : Agent) (va : Nat) : M (Except Nat Nat) := do
  if va % 4096 ≠ 0 then return .error 7
  else
    match ← liftOp fun s => s.ixPlace ag va .read with
    | .error c => return .error c
    | .ok pa =>
      let t ← get
      match (t.ixAt pa).bind fun o => t.ixBad ag.rq.world o 128 with
      | some e =>
        modState fun s => s.ixFault ag va e
        return .error 1
      | none => return .ok pa

/-- A telemetry item of the die's Vein raised for the executing hart's world (28_worlds R456). -/
def veinCount (i n : Nat) : M Unit := modState fun s => s.count (dieItem (dieOf s.cur) (s.reqFor s.cur).world i) n

/-- The result of an index command: (VALUE << 8) | CODE (R313). -/
def ixDone (rd : BitVec 5) (v code : Nat) : M Unit := do
  veinCount 7 1
  writeX rd (BitVec.ofNat 64 (v * 2 ^ 8 + code)) noTaint
  retire 4

/-- A refusal by R308, entered in the violation log (R308, R344). -/
def ixDenied (ag : Agent) (va : Nat) : M Unit := modState fun s =>
  (s.engLog ag 2 5 va).count (dieItem (dieOf ag.hart) ag.rq.world 11) 1

/-- The bound object at a place that the executing context may use, or the code 4 or 5. -/
def ixObject (ag : Agent) (va pa : Nat) (own : Bool) : M (Except Nat IxObj) := do
  let t ← get
  match t.ixAt pa with
  | none => return .error 4
  | some o =>
    if ixAllowed (t.ixHdr o) ag.rq.ctx ag.rq.world own then return .ok o
    else
      ixDenied ag va
      return .error 5

/-- The frames of a region's pages, readable and writable, or the first code (R305). -/
def State.ixFrames (ag : Agent) : Nat → Nat → State → List Nat → State × Except Nat (List Nat)
  | 0, _, s, acc => (s, .ok acc.reverse)
  | k + 1, va, s, acc =>
    match s.ixPlace ag va .read with
    | (s, .error c) => (s, .error c)
    | (s, .ok _) =>
      match s.ixPlace ag va .write with
      | (s, .error c) => (s, .error c)
      | (s, .ok pa) => State.ixFrames ag k (va + 0x1_0000) s (pa :: acc)

/-- The ranges of a region that its home holds (R306). -/
def ixHeld : List Nat → Nat → Nat → Nat → Nat → List Held
  | [], _, _, _, _ => []
  | f :: r, off, n, ctx, gen =>
    let len := min n (0x1_0000 - off)
    ⟨.index, f + off, len, ctx, gen⟩ :: ixHeld r 0 (n - len) ctx gen

/-- The header may be bound: its ranges and its reserved bits (R306, R315). -/
def ixHdrOk (d : Nat) : Bool :=
  ixState d ≠ 3 && bits d 3 2 = 0 && bits d 1023 256 = 0 && 64 ≤ ixCap d && ixCap d ≤ 4194304 && ixCap d % 64 = 0 && ixNmatch d ≤ 8 && ixLen d ≤ ixCap d

/-- An object bound: OWNER, WORLD, HOME, GEN and STATE set beside CAP and LEN as the Vein read them, the region held, the quota charged
(R315, R341). -/
def State.ixBind (s : State) (ctx world home pa off : Nat) (frames : List Nat) (d : Nat) : State :=
  let gen := (s.nextBind + 1) % 2 ^ 32
  let w := 1 + world % 16 * 2 ^ 4 + home % 8 * 2 ^ 8 + (if ixWide d then 2 ^ 11 else 0) + ixNmatch d * 2 ^ 12 + ctx * 2 ^ 16 + gen * 2 ^ 32
  let s := s.veinPut pa 16 (w + ixCap d * 2 ^ 64 + ixLen d * 2 ^ 96)
  let s := if ctx = 0 then s else s.ctxPut ctx 275 264 (s.ctxField ctx 275 264 + 1)
  { s with nextBind := gen, indexes := ⟨pa, gen, ctx, off, frames⟩ :: s.indexes,
           held := ixHeld frames off (ixSize (ixCap d)) ctx gen ++ s.held }

/-- An object torn down: STATE 10, and every slot that names it void (R310, R315). -/
def State.ixTearDown (s : State) (o : IxObj) : State :=
  let d := s.ixHdr o
  let s := s.veinPut o.pa 8 (putBits (bits d 63 0) 0 2 2)
  let s := if o.ctx = 0 then s else s.ctxPut o.ctx 275 264 (s.ctxField o.ctx 275 264 - 1)
  { s with indexes := s.indexes.filter fun x => x != o,
           held := s.held.filter fun h => !(h.kind == HeldKind.index && h.aux == o.gen && h.ctx == o.ctx) }

/-- The code of a fault of the Vein's read of a region (R314). -/
def veinCode (c : Nat) : Nat := if c = 2 then 2 else if c = 3 then 3 else 1

/-- The binding of a region, at the Vein (R315). The answer is VALUE and CODE; none while another device is awaited. -/
def ixBindCmd (ag : Agent) (die va pa : Nat) : M (Nat × Nat) := do
  match ← liftOp fun s => s.engBytes ag va 128 with
  | .error .wait => return (0, 1)
  | .error (.code c a p) =>
    modState fun s => s.cmdFault ag c a p
    return (0, veinCode c)
  | .ok hdr =>
    let d := leValue hdr
    if ixState d = 1 || ((← get).ixAt pa).isSome then return (0, 8)
    else if !ixHdrOk d then return (0, 7)
    else
      let off := va % 0x1_0000
      let pages := (off + ixSize (ixCap d) + 0xFFFF) / 0x1_0000
      match ← liftOp fun s => State.ixFrames ag pages (va - off) s [] with
      | .error c => return (0, c)
      | .ok frames =>
        let t ← get
        if (ixHeld frames off (ixSize (ixCap d)) 0 0).any fun h => t.writeRefused ag.rq.world h.pa h.len then
          modState fun s => ((ixHeld frames off (ixSize (ixCap d)) 0 0).foldl (fun s h => s.noteSpent ag.rq.world h.pa h.len) s).engLog ag 1 1 va
          return (0, 1)
        else
          match ← liftOp fun s => s.engBytes ag (va + 128) (4 * ixLen d) with
          | .error .wait => return (0, 1)
          | .error (.code c a p) =>
            modState fun s => s.cmdFault ag c a p
            return (0, veinCode c)
          | .ok text =>
            let t ← get
            let ctx := ag.rq.ctx
            if (List.range (ixLen d)).any fun i => leValue ((text.drop (4 * i)).take 4) ≥ 2 ^ 24 then return (0, 7)
            else if ctx ≠ 0 && t.ctxField ctx 275 264 ≥ t.ctxField ctx 211 200 then return (0, 6)
            else
              modState fun s => s.ixBind ctx ag.rq.world die pa off frames d
              return (ixLen d, 0)

/-- IXINIT (R315). -/
def execIxinit (rd rs1 rs2 : BitVec 5) (s : State) : Out :=
  settle (do
    let h ← getHart
    waitTaint [h.xt rs1, h.xt rs2]
    let ag ← veinAgent
    let va := (h.xr rs1).toNat
    let mode := (h.xr rs2).toNat
    match ← ixAddr ag va with
    | .error c => ixDone rd 0 c
    | .ok pa =>
      if mode > 1 then ixDone rd 0 7
      else if mode = 1 then
        let r ← ixBindCmd ag (dieOf (← curNum)) va pa
        ixDone rd r.1 r.2
      else
        match ← ixObject ag va pa true with
        | .error c => ixDone rd 0 c
        | .ok o =>
          match (← get).ixShut ag.rq.world o 0 with
          | some e =>
            modState fun s => s.ixFault ag va e
            ixDone rd 0 1
          | none =>
            modState fun s => s.ixTearDown o
            ixDone rd 0 0) s

/-- IXCUR (R310, R316): VALUE is the cursor's HLEN after the command, a refused one included; a cursor word above 7 names none, and gives 0. -/
def execIxcur (rd rs1 rs2 : BitVec 5) (s : State) : Out :=
  settle (do
    let h ← getHart
    waitTaint [h.xt rs1, h.xt rs2]
    let ag ← veinAgent
    let va := (h.xr rs1).toNat
    let w := (h.xr rs2).toNat
    let k ← getCrew
    let kept := if w > 7 then 0 else (k.cursor w).hlen
    match ← (if rs1 = 0 then pure (.ok 0) else ixAddr ag va) with
    | .error c => ixDone rd kept c
    | .ok pa =>
      if w > 7 then ixDone rd 0 7
      else if rs1 = 0 then
        modCrew fun c => c.setCursor w Cursor.free
        ixDone rd 0 0
      else
        match ← ixObject ag va pa true with
        | .error c => ixDone rd kept c
        | .ok o =>
          let u ← get
          match u.ixTextBad ag.rq.world o with
          | some e =>
            modState fun s => s.ixFault ag va e
            ixDone rd kept 1
          | none =>
            let t := u.ixText o
            modCrew fun c => c.setCursor w { Cursor.free with own := some (o.pa, o.gen), hlen := t.length, window := lastOf 256 t }
            ixDone rd t.length 0) s

/-- A slot word: bits [2:0], [9:8] and bit 12 (ALL), which IXDET alone reads; every other bit is zero (R313). -/
def slotWordOk (w : Nat) : Bool := bits w 7 3 = 0 && bits w 11 10 = 0 && decide (w < 2 ^ 13)

/-- IXATT (R311, R317). -/
def execIxatt (rd rs1 rs2 : BitVec 5) (s : State) : Out :=
  settle (do
    let h ← getHart
    waitTaint [h.xt rs1, h.xt rs2]
    let ag ← veinAgent
    acquireNow
    let va := (h.xr rs1).toNat
    let w := (h.xr rs2).toNat
    match ← ixAddr ag va with
    | .error c => ixDone rd 0 c
    | .ok pa =>
      if !slotWordOk w then ixDone rd 0 7
      else
        match ← ixObject ag va pa false with
        | .error c => ixDone rd 0 c
        | .ok o =>
          let u ← get
          match u.ixTextBad ag.rq.world o with
          | some e =>
            modState fun s => s.ixFault ag va e
            ixDone rd 0 1
          | none =>
            let c := (← getCrew).cursor (w % 8)
            let m := longest (u.ixText o) c.window (min c.hlen 256)
            modCrew fun x => x.setCursor (w % 8) { c with slots := c.slots.set (Fin.ofNat 4 (bits w 9 8)) (.attached o.pa o.gen m) }
            ixDone rd m 0) s

/-- IXDET (R318). -/
def execIxdet (rd rs1 : BitVec 5) (s : State) : Out :=
  settle (do
    let h ← getHart
    waitTaint [h.xt rs1]
    let w := (h.xr rs1).toNat
    if !slotWordOk w then ixDone rd 0 7
    else
      modCrew fun x =>
        let c := x.cursor (w % 8)
        x.setCursor (w % 8) { c with slots := if w.testBit 12 then Vector.replicate 4 .empty
                                             else c.slots.set (Fin.ofNat 4 (bits w 9 8)) .empty }
      ixDone rd 0 0) s

/-- LEN of the object bound at a place, 0 without one. -/
def State.lenAt (s : State) (pa : Nat) : Nat := ((s.ixAt pa).map fun o => ixLen (s.ixHdr o)).getD 0

/-- IXEXT (R319). -/
def execIxext (rd rs1 rs2 : BitVec 5) (s : State) : Out :=
  settle (do
    let h ← getHart
    waitTaint [h.xt rs1, h.xt rs2]
    let ag ← veinAgent
    let va := (h.xr rs1).toNat
    let tok := (h.xr rs2).toNat
    match ← ixAddr ag va with
    | .error c => ixDone rd 0 c
    | .ok pa =>
      let n := (← get).lenAt pa
      if tok ≥ 2 ^ 24 then ixDone rd n 7
      else
        match ← ixObject ag va pa true with
        | .error c => ixDone rd 0 c
        | .ok o =>
          if n + 1 > ixCap ((← get).ixHdr o) then ixDone rd n 6
          else
            match (← get).ixShut ag.rq.world o 1 with
            | some e =>
              modState fun s => s.ixFault ag va e
              ixDone rd n 1
            | none =>
              modState fun s => s.ixAppend o [tok]
              veinCount 8 1
              ixDone rd (n + 1) 0) s

/-- IXMATCH (R311, R320). -/
def execIxmatch (rd rs1 rs2 : BitVec 5) (s : State) : Out :=
  settle (do
    let h ← getHart
    waitTaint [h.xt rs1, h.xt rs2]
    acquireNow
    let ag ← veinAgent
    let w := (h.xr rs1).toNat
    let tok := (h.xr rs2).toNat
    if w > 7 || tok ≥ 2 ^ 24 then ixDone rd 0 7
    else
      let t ← get
      let c := (← getCrew).cursor w
      match t.ixSlotsBad ag.rq.world c fun _ => true with
      | some e =>
        modState fun s => s.ixFault ag e.2.2 (e.1, e.2.1)
        ixDone rd 0 1
      | none =>
        let c := t.ixFeed c tok
        modCrew fun x => x.setCursor w c
        veinCount 9 1
        ixDone rd ((c.slots.toList.filterMap t.slotM).foldl max 0) 0) s

/-- One item of a cursor (R321). -/
def State.ixStat (s : State) (c : Cursor) (sel : Nat) : Option Nat :=
  match sel with
  | 0 => some c.accN
  | 1 => some c.accT
  | 2 => some c.propT
  | 3 => some c.hlen
  | 8 =>
    match c.own with
    | none => some 0xFFFF_FFFF
    | some (p, g) =>
      match s.ixLive p g with
      | some o => some (ixLen (s.ixHdr o))
      | none => some 0xFFFF_FFFF
  | _ => if sel < 8 then some ((s.slotM (c.slots[Fin.ofNat 4 (sel - 4)])).getD 0xFFFF_FFFF) else none

/-- IXSTAT (R321). -/
def execIxstat (rd rs1 rs2 : BitVec 5) (s : State) : Out :=
  settle (do
    let h ← getHart
    waitTaint [h.xt rs1, h.xt rs2]
    let w := (h.xr rs1).toNat
    let t ← get
    let c := (← getCrew).cursor (w % 8)
    let sel := (h.xr rs2).toNat
    let ag ← veinAgent
    match t.ixStat c sel with
    | none => ixDone rd 0 7
    | some v =>
      if w > 7 then ixDone rd 0 7
      else
        match (if sel = 8 then t.ixOwnBad ag.rq.world c else none) with
        | some e =>
          modState fun s => s.ixFault ag e.2.2 (e.1, e.2.1)
          ixDone rd 0 1
        | none => ixDone rd v 0) s

/-! ### Proposing and accepting (R322 to R326) -/

/-- CUR, P, L, MINM and APP of a configuration word, or none when it is invalid (R322). -/
def ixConfig (v : Nat) (acc : Bool) : Option (Nat × Nat × Nat × Nat × Bool) :=
  if bits v 63 32 = 0 && bits v 23 17 = 0 && bits v 15 15 = 0 && bits v 7 6 = 0 && bits v 3 3 = 0 &&
      1 ≤ bits v 14 8 && bits v 14 8 ≤ 64 && (acc || !v.testBit 16) then
    some (bits v 2 0, bits v 5 4 + 1, bits v 14 8, bits v 31 24, v.testBit 16)
  else none

/-- The pad of a proposal (R324). -/
def ixPad : Nat := 0xFFFF_FFFF

/-- The course of a VINDEX instruction up to its effect: legality, vl = 0, vstart, and the waits (R323). `true` answers that
it acts. -/
def vindexIssue (r : VRegs) (srcX : List (BitVec 5)) : M Bool := do
  vecIssue fun h => h.sew == 2
  let h ← getHart
  if h.vst ≥ h.vln then
    vecEmpty r
    return false
  else
    if h.vst ≠ 0 then illegal
    waitTaint (h.vecSources { r with srcX := srcX })
    return true

/-- The elements of the proposals of IXPROP (R324). -/
def propElems (last l : Nat) (props : List (List Nat)) (p : Nat) : List Nat :=
  (List.range p).flatMap fun j => last :: ((List.range l).map fun k => (props.getD j []).getD k ixPad)

/-- IXPROP (R312, R324). -/
def execIxprop (rd rs1 : BitVec 5) (vd : BitVec 5) (s : State) : Out :=
  settle (do
    let r : VRegs := { dstV := [vd] }
    if !(← vindexIssue r [rs1]) then pure ()
    else
      acquireNow
      let h ← getHart
      let srcs := h.vecSources { r with srcX := [rs1] }
      let tnt := unionTaint h.issued [] srcs
      match ixConfig (h.xr rs1).toNat false with
      | none =>
        writeX rd (BitVec.ofNat 64 (7 * 2 ^ 32)) tnt
        vecEmpty r
      | some (cur, p, l, minm, _) =>
        if p * (l + 1) > h.vln then
          writeX rd (BitVec.ofNat 64 (7 * 2 ^ 32)) tnt
          vecEmpty r
        else
          let t ← get
          let c := (← getCrew).cursor cur
          let ag ← veinAgent
          match t.ixSlotsBad ag.rq.world c fun m => decide (max minm 1 ≤ m) with
          | some e =>
            modState fun s => s.ixFault ag e.2.2 (e.1, e.2.1)
            veinCount 7 1
            writeX rd (BitVec.ofNat 64 (2 ^ 32)) tnt
            vecEmpty r
          | none =>
            let props := t.proposals c minm l p
            let lens := props.map List.length
            let elems := propElems (c.window.getLast?.getD ixPad) l props p
            modHart fun h => elems.zipIdx.foldl (fun h e => h.setElem vd 32 e.2 e.1) h
            modCrew fun x => x.setCursor cur { c with propT := (c.propT + lens.sum) % 2 ^ 48 }
            veinCount 7 1
            veinCount 10 1
            modState fun s => s.count (crewItem (crewOf s.cur) 18) lens.sum
            writeX rd (BitVec.ofNat 64 (lens.zipIdx.foldl (fun a e => a + e.1 * 2 ^ (8 * e.2)) 0)) tnt
            vecDone r (h.vln == h.vlmax) [] srcs) s

/-- a_j of one proposal, and the elements read for it: (register, index), in ascending order (R325). -/
def acceptGo (v2 v1 : Nat → Nat) (base l : Nat) : Nat → Nat → List (Bool × Nat) → Nat × List (Bool × Nat)
  | 0, a, acc => (a, acc)
  | k + 1, a, acc =>
    if a ≥ l then (a, acc)
    else if v2 (base + a + 1) = ixPad then (a, acc ++ [(true, base + a + 1)])
    else if v2 (base + a + 1) = v1 (base + a) then
      acceptGo v2 v1 base l k (a + 1) (acc ++ [(true, base + a + 1), (false, base + a)])
    else (a, acc ++ [(true, base + a + 1), (false, base + a)])

/-- The accepted tokens appended to the own index and fed to the cursor, one by one (R325). -/
def State.ixAccept (o : IxObj) : List Nat → State → Cursor → State × Cursor
  | [], s, c => (s, c)
  | t :: r, s, c =>
    let s := s.ixAppend o [t]
    State.ixAccept o r s (s.ixFeed c t)

/-- The append of IXACC: its code, with the state and the cursor (R325). An object that its Vein may not read or write gives code 1: the own
index's header before the codes that need LEN, the lines written and the texts of the slots after them (R314). -/
def State.ixApp (s : State) (ag : Agent) (c : Cursor) (acc : List Nat) : State × Cursor × Nat :=
  let w := ag.rq.world
  match c.own with
  | none => (s, c, 9)
  | some (p, g) =>
    match s.ixLive p g with
    | none => (s, c, 4)
    | some o =>
      let d := s.ixHdr o
      let stop (e : Nat × Nat) (va : Nat) : State × Cursor × Nat := (s.ixFault ag va e, c, 1)
      match s.ixBad w o 128 with
      | some e => stop e o.pa
      | none =>
        if acc.getLast?.getD 0 ≥ 2 ^ 24 then (s, c, 7)
        else if ixLen d + acc.length > ixCap d then (s, c, 6)
        else
          match s.ixShut w o acc.length with
          | some e => stop e o.pa
          | none =>
            let r := State.ixAccept o acc s c
            match r.1.ixSlotsBad w c fun _ => true with
            | some e => stop (e.1, e.2.1) e.2.2
            | none => (r.1, r.2, 0)

/-- The lowest index of the largest number. -/
def argMax (l : List Nat) : Nat := (l.idxOf? (l.foldl max 0)).getD 0

/-- IXACC (R325). -/
def execIxacc (vs2 vs1 : BitVec 5) (rd : BitVec 5) (s : State) : Out :=
  settle (do
    let r : VRegs := { srcV := [vs2, vs1] }
    if !(← vindexIssue r [rd]) then pure ()
    else
      let h ← getHart
      let tnt := unionTaint h.issued [] (h.vecSources { r with srcX := [rd] })
      let finish (v : Nat) : M Unit := do
        writeX rd (BitVec.ofNat 64 v) tnt
        vecEmpty r
      match ixConfig (h.xr rd).toNat true with
      | none => finish (7 * 2 ^ 16)
      | some (cur, p, l, _, app) =>
        if p * (l + 1) > h.vln then finish (7 * 2 ^ 16)
        else
          let v2 (i : Nat) : Nat := h.elem vs2 32 i
          let v1 (i : Nat) : Nat := h.elem vs1 32 i
          let runs := (List.range p).map fun j => acceptGo v2 v1 (j * (l + 1)) l l 0 []
          let as := runs.map Prod.fst
          let j := argMax as
          let a := as.getD j 0
          let bonus := j * (l + 1) + a
          let reads := (runs.flatMap Prod.snd) ++ [(false, bonus)]
          let bad := (reads.filter fun e => h.elemBad (if e.1 then vs2 else vs1) 32 e.2).map Prod.snd
          match bad with
          | b :: bs => trapReg 9 (bs.foldl min b)
          | [] => pure ()
          noteLatent r h fun _ => reads.map fun e => (if e.1 then vs2 else vs1, 32, e.2)
          let acc := ((List.range a).map fun k => v2 (j * (l + 1) + 1 + k)) ++ [v1 bonus]
          let c := (← getCrew).cursor cur
          let c := { c with accN := (c.accN + 1) % 2 ^ 48, accT := (c.accT + a) % 2 ^ 48 }
          let ag ← veinAgent
          let (c, code) ← (if app then liftOp fun s => let r := s.ixApp ag c acc; (r.1, r.2) else pure (c, 0))
          modCrew fun x => x.setCursor cur c
          veinCount 7 1
          modState fun s => s.count (crewItem (crewOf s.cur) 17) a
          if app && code = 0 then veinCount 8 acc.length else pure ()
          finish (code * 2 ^ 16 + j * 2 ^ 8 + a)) s

/-- IXEXTV (R326). -/
def execIxextv (km : BitVec 3) (vs2 : BitVec 5) (rs1 : BitVec 5) (rd : BitVec 5) (s : State) : Out :=
  settle (do
    let r : VRegs := { km := km, srcV := [vs2] }
    if !(← vindexIssue r [rs1]) then pure ()
    else
      let h ← getHart
      let act := (List.range h.vln).filter fun i => h.maskOn km i
      match act.find? fun i => h.elemBad vs2 32 i with
      | some i => trapReg 9 i
      | none => pure ()
      let ag ← veinAgent
      let va := (h.xr rs1).toNat
      let toks := act.map fun i => h.elem vs2 32 i
      let finish (v code : Nat) : M Unit := do
        veinCount 7 1
        writeX rd (BitVec.ofNat 64 (v * 2 ^ 8 + code)) noTaint
        vecEmpty r
      match ← ixAddr ag va with
      | .error c => finish 0 c
      | .ok pa =>
        let n := (← get).lenAt pa
        noteLatent r h fun _ => act.map fun i => (vs2, 32, i)
        if toks.any fun t => decide (t ≥ 2 ^ 24) then finish n 7
        else
          match ← ixObject ag va pa true with
          | .error c => finish 0 c
          | .ok o =>
            if n + toks.length > ixCap ((← get).ixHdr o) then finish n 6
            else
              let u ← get
              match (if toks.isEmpty then none else u.ixShut ag.rq.world o toks.length) with
              | some e =>
                modState fun s => s.ixFault ag va e
                finish n 1
              | none =>
                modState fun s => s.ixAppend o toks
                veinCount 8 toks.length
                finish (n + toks.length) 0) s

end Sys2Proof.Machine
end

