-- ==== Sys2Proof/Machine/Matrix.lean ====
section
/-! DEFINITION. The tile instructions, the lease, and the matrix section of the crew save area (14_matrix R253 to R269). -/

namespace Sys2Proof.Machine

/-! ### The matrix section (R267) -/

/-- Bytes with `v` laid over those from `off` on. -/
def overlay (bs : List Byte) (off : Nat) (v : List Byte) : List Byte := bs.take off ++ v ++ bs.drop (off + v.length)

/-- The control word (R267). -/
def MxArray.control (a : MxArray) (held : Bool) : Nat :=
  if held then 1 + (if a.act.poison then 2 else 0) + (if a.shd.poison then 4 else 0) + a.act.fmt % 8 * 8 + a.shd.fmt % 8 * 64 else 0
/-- The cursor word (R267). -/
def MxArray.cursors (a : MxArray) : Nat :=
  ([0, 1, 2, 3].map fun t => (a.scur[Fin.ofNat 4 t] % 64 + a.dcur[Fin.ofNat 4 t] % 64 * 2 ^ 8) * 2 ^ (16 * t)).sum

/-- The 299,008 bytes of the section for a lease holder (R267). -/
def MxArray.save (a : MxArray) : List Byte :=
  leBytesOf 8 (a.control true) ++ leBytesOf 8 a.cursors ++ List.replicate 16 0 ++
  ([0, 1, 2, 3].flatMap fun t => leBytesOf 8 (a.rowPoison[Fin.ofNat 4 t]).toNat) ++ List.replicate 960 0 ++
  leBytesOf 1536 a.act.scales.toNat ++ leBytesOf 1536 a.shd.scales.toNat ++
  leBytesOf 49152 a.act.weights.toNat ++ leBytesOf 49152 a.shd.weights.toNat ++
  ([0, 1, 2, 3].flatMap fun t => leBytesOf 49152 (a.tiles[Fin.ofNat 4 t]).toNat)

/-- The array read back from a section (R267 to R269). -/
def MxArray.load (b : List Byte) : MxArray :=
  let num (off n : Nat) : Nat := leValue ((b.drop off).take n)
  let c := num 0 8
  let k := num 8 8
  { act := ⟨bits c 5 3, BitVec.ofNat _ (num 4096 49152), BitVec.ofNat _ (num 1024 1536), c.testBit 1⟩,
    shd := ⟨bits c 8 6, BitVec.ofNat _ (num 53248 49152), BitVec.ofNat _ (num 2560 1536), c.testBit 2⟩,
    tiles := Vector.ofFn fun (t : Fin 4) => BitVec.ofNat _ (num (102400 + 49152 * t) 49152),
    rowPoison := Vector.ofFn fun (t : Fin 4) => BitVec.ofNat _ (num (32 + 8 * t) 8),
    scur := Vector.ofFn fun (t : Fin 4) => k / 2 ^ (16 * t.val) % 64,
    dcur := Vector.ofFn fun (t : Fin 4) => k / 2 ^ (16 * t.val + 8) % 64,
    loadBad := c.testBit 2 }

/-! ### The lease (R253, R254, R269) -/

/-- The crew of a core that holds the lease. -/
def State.leaseHolder (s : State) (core : Nat) : Option Nat :=
  ([0, 1, 2, 3].map fun i => 4 * core + i).find? fun n => (s.crewAt n).lease = .held

/-- A lease given back: the queue drained, the array zeroed, no condition left (R253, R254). -/
def State.leaseRelease (s : State) (n : Nat) : State :=
  let s := s.mxDrain n
  let s := if (s.crewAt n).lease = .held then s.mxClear n else s
  let s := s.mapCore (n / 4) fun c => { c with leaseQueue := c.leaseQueue.filter fun m => m != n }
  s.mapCrew n fun c => { c with lease := .none, leaseWait := false, revoked := false }

/-- A lease revoked: the array state is discarded (R253). Entries posted before it are executed first (log 20). -/
def State.leaseRevoke (s : State) (n : Nat) : State :=
  let s := (s.mxDrain n).mxClear n
  s.mapCrew n fun c => { c with lease := .none, revoked := true }

/-- The head of the lease queue granted: the array zeroed, or restored from the section at `va`; a failed restore revokes
(R253, R269). -/
def State.leaseGrant (s : State) (core : Nat) : State :=
  match s.leaseHolder core, (s.coreAt core).leaseQueue with
  | none, n :: r =>
    let s := (s.mapCore core fun c => { c with leaseQueue := r }).mxClear n
    let c := s.crewAt n
    if c.lease = .restore then
      match c.resident with
      | none => s.mapCrew n fun c => { c with lease := .none }
      | some x =>
        match State.hwRead (s.crewReq n x.ctx) 4674 s (c.msave.toNat + 73728) 299008 [] with
        | (s, .ok b) => (s.mapArray n fun _ => MxArray.load b).mapCrew n fun c => { c with lease := .held, revoked := false }
        | (s, .error _) => s.leaseRevoke n
    else s.mapCrew n fun c => { c with lease := .held, leaseWait := false, revoked := false }
  | _, _ => s

/-- LEASE_GRANT (R253). -/
def execLeaseGrant (core : Nat) (s : State) : Out := .next (s.leaseGrant (core % 64))

/-! ### Issue (R103, R257) -/

/-- Role and first use (R103). -/
def tileRole : M Unit := do
  needExecute
  let h ← getHart
  if h.vstate = 0 then fun s => .error (.trap 5 false s.ir.toNat false) s else pure ()

/-- Role, first use, and the lease (R103, R253, R269). -/
def tileIssue : M Unit := do
  tileRole
  let c ← getCrew
  match c.lease with
  | .held => pure ()
  | .restore => stall .lease
  | .none => trap 13 (if c.revoked then 1 else 0)

/-- An entry posted; a full queue waits for the array's next entry (R257, log 5). -/
def tilePost (e : MxEntry) : M Unit := do
  let c ← getCrew
  match c.mqueue with
  | first :: r =>
    if c.mqueue.length ≥ 64 then
      modState fun s => (s.mxExec (crewOf s.cur) first).mapCrew (crewOf s.cur) fun c => { c with mqueue := r }
    else pure ()
  | [] => pure ()
  modCrew fun c => { c with mqueue := c.mqueue ++ [e] }
  retire 8

/-- The format of the active plane once every posted entry has executed (R257). -/
def State.planeFmt (s : State) (n : Nat) : Nat :=
  let a := s.arrayOf n
  if ((s.crewAt n).mqueue.filter fun e => e = .swap).length % 2 = 1 then a.shd.fmt else a.act.fmt

/-- MCFG.ACQ (R254). -/
def execMcfgAcq (s : State) : Out :=
  settle (do
    tileRole
    let c ← getCrew
    if c.lease = .none then
      if c.leaseWait then stall .lease
      else
        modState fun s => (s.mapCrew (crewOf s.cur) fun c => { c with leaseWait := true }).mapCore (coreOf s.cur) fun k =>
          { k with leaseQueue := k.leaseQueue ++ [crewOf s.cur] }
        stall .lease
    else retire 8) s
/-- MCFG.REL (R254). -/
def execMcfgRel (s : State) : Out :=
  settle (do
    tileRole
    modState fun s => s.leaseRelease (crewOf s.cur)
    retire 8) s
/-- MCFG.SET (R254): no wait for taint. -/
def execMcfgSet (rs1 : BitVec 5) (s : State) : Out :=
  settle (do
    tileIssue
    tilePost (.set (← readX rs1))) s
/-- MSWAP (R261). -/
def execMswap (s : State) : Out := settle (do tileIssue; tilePost .swap) s
/-- MZERO (R265). -/
def execMzero (tile : BitVec 2) (s : State) : Out := settle (do tileIssue; tilePost (.zero tile.toNat)) s
/-- MWAIT (R265). -/
def execMwait (s : State) : Out := settle (do tileIssue; mxSync; retire 8) s

/-- MSTRM: the checks of R262, then posting. -/
def execMstrm (va vsc : BitVec 5) (tile : BitVec 2) (rows : BitVec 4) (fmt : BitVec 3) (s : State) : Out :=
  settle (do
    tileIssue
    let h ← getHart
    let f := fmt.toNat
    let k := mxK f
    let nr := if rows = 0 then h.vln / k else rows.toNat
    let plane := (← get).planeFmt (crewOf (← curNum))
    if (rows = 0 && vtFmt h.vt != some f) || nr * k * mxWidth f > 1024 * h.lanes.length || (h.bl = 0 && vsc != 0) ||
        ((f == 4) != (plane == 4)) then illegal
    tilePost (.strm va vsc tile.toNat nr f h.bl h.issued)) s

/-- MDRAIN: the checks of R264, then posting; vd is named as a destination at issue. -/
def execMdrain (vd : BitVec 5) (tile : BitVec 2) (rows : BitVec 4) (fmt : BitVec 3) (epi : BitVec 2) (vb : BitVec 5) (s : State) : Out :=
  settle (do
    tileIssue
    let h ← getHart
    let f := fmt.toNat
    let nr := if rows = 0 then h.vln / 192 else rows.toNat
    if nr * 192 * mxWidth f > 1024 * h.lanes.length || (epi != 0 && decide (h.lanes.length < 6)) || (rows = 0 && vtFmt h.vt != some f) then illegal
    modHart fun h => h.markDirty { dstV := [vd] }
    tilePost (.drain vd vb tile.toNat nr f epi.toNat h.issued)) s

/-! ### MLDS (R260) -/

/-- The units of a weight format's stream. -/
def mldsUnits (fmt : Nat) : Nat := if fmt = 3 then 2400 else 3168

/-- 16 bytes of the stream written into the shadow plane at unit u. -/
def Plane.putUnit (p : Plane) (u v : Nat) : Plane :=
  if u < 96 then { p with scales := setField p.scales (128 * u) 128 v }
  else { p with weights := setField p.weights (128 * (u - 96)) 128 v }

/-- Units taken while the chute holds two entries: the shadow plane, whether a poisoned entry was taken, the chute, and the
next unit. -/
def mldsGo (units : Nat) : Nat → Nat → Plane → Bool → Chute → Plane × Bool × Chute × Nat
  | 0, u, p, bad, c => (p, bad, c, u)
  | k + 1, u, p, bad, c =>
    if u ≥ units then (p, bad, c, u)
    else
      match c.entries with
      | a :: b :: r =>
        let w := a.poison || b.poison
        mldsGo units k (u + 1) ({ p.putUnit u (a.bits.toNat + b.bits.toNat * 2 ^ 64) with poison := p.poison || w }) (bad || w)
          { c with entries := r, head := 0 }
      | _ => (p, bad, c, u)

/-- MLDS (R260): posted entries take effect first, among them every MSWAP (log 5). A partly consumed head entry is removed unread; one that
is still to be fetched again after a resume is waited for (11_chutes_copies R239). -/
def execMlds (q : BitVec 4) (fmt : BitVec 3) (s : State) : Out :=
  settle (do
    tileIssue
    let n := q.toNat
    if !((← getCrew).chute n).copyFed then trap 11 n
    mxSync
    modCrew fun c => c.mapChute n fun x => if x.head != 0 && !x.entries.isEmpty then x.pop else x
    let h ← getHart
    let w ← curNum
    let units := mldsUnits fmt.toNat
    let a := (← get).arrayOf (crewOf w)
    let start := if h.vst = 0 then false else a.loadBad
    let (p, bad, c, u) := mldsGo units units h.vst { a.shd with fmt := fmt.toNat } start ((← getCrew).chute n)
    modCrew fun x => x.mapChute n fun _ => c
    if bad && !start then modState fun s => s.logError 5 6 (coreOf s.cur) (bits s.me.sxlat.toNat 63 48) 0 else pure ()
    if u < units then
      modState fun s => s.mapArray (crewOf w) fun a => { a with shd := p, loadBad := bad }
      modHart fun h => { h with vstart := BitVec.ofNat 12 u }
      stall (.chute n)
    else
      modState fun s => s.mapArray (crewOf w) fun a => { a with shd := { p with poison := bad }, loadBad := false }
      let tag ← readTag
      modHart fun h => { h with vstart := 0, taintP := h.taintP.set (1 : Fin 2) (.tags [tag]) }
      retire 8) s

/-! ### Execution as steps of their own (R257) -/

/-- The head of the lease holder's queue executed when it is of a kind. -/
def State.mxHead (s : State) (core : Nat) (kind : MxEntry → Bool) : State :=
  match s.leaseHolder core with
  | none => s
  | some n =>
    match (s.crewAt n).mqueue with
    | e :: r => if kind e then (s.mxExec n e).mapCrew n fun c => { c with mqueue := r } else s
    | [] => s

/-- MSTRM_EXECUTE (R262). -/
def execMstrmExecute (core : Nat) (s : State) : Out :=
  .next (s.mxHead (core % 64) fun e => match e with | .strm _ _ _ _ _ _ _ => true | _ => false)
/-- MDRAIN_EXECUTE (R264). -/
def execMdrainExecute (core : Nat) (s : State) : Out :=
  .next (s.mxHead (core % 64) fun e => match e with | .drain _ _ _ _ _ _ _ => true | _ => false)
/-- MZERO_EXECUTE (R265). -/
def execMzeroExecute (core : Nat) (s : State) : Out :=
  .next (s.mxHead (core % 64) fun e => match e with | .zero _ => true | _ => false)
/-- MSWAP_EXECUTE (R261). -/
def execMswapExecute (core : Nat) (s : State) : Out := .next (s.mxHead (core % 64) fun e => e = .swap)
/-- MCFG_SET_EXECUTE (R254). -/
def execMcfgSetExecute (core : Nat) (s : State) : Out :=
  .next (s.mxHead (core % 64) fun e => match e with | .set _ => true | _ => false)

end Sys2Proof.Machine
end

