-- ==== Sys2Proof/Machine/VecInt.lean ====
section
/-! DEFINITION. Integer vector arithmetic, comparisons and mask registers (07_vector_compute R159 to R161, R168). -/

namespace Sys2Proof.Machine

/-! ### Element functions on s bits (R29, R159, R160) -/

def vSignedMin (s a b : Nat) : Nat := if toSigned s a ≤ toSigned s b then a else b
def vSignedMax (s a b : Nat) : Nat := if toSigned s a ≤ toSigned s b then b else a
/-- An exact result clamped to the signed range of s bits (R29). -/
def vClamp (s : Nat) (i : Int) : Nat := ofSigned s (max (- 2 ^ (s - 1)) (min i (2 ^ (s - 1) - 1)))
def vSra (s a b : Nat) : Nat := ofSigned s (toSigned s a / 2 ^ (b % s))
/-- Quotient and remainder of R29. -/
def vDivS (s a b : Nat) : Nat := if b = 0 then 2 ^ s - 1 else ofSigned s ((toSigned s a).tdiv (toSigned s b))
def vRemS (s a b : Nat) : Nat := if b = 0 then a else ofSigned s ((toSigned s a).tmod (toSigned s b))
def vDivU (s a b : Nat) : Nat := if b = 0 then 2 ^ s - 1 else a / b
def vRemU (a b : Nat) : Nat := if b = 0 then a else a % b

/-! ### Shapes -/

/-- The registers of a two-source instruction. -/
def regs2 (ok : BitVec 2) (km : BitVec 3) (vs2 src vd : BitVec 5) (extra : List (BitVec 5)) : VRegs :=
  { km := km, srcV := vs2 :: extra ++ srcRegsV ok src, srcX := srcRegsX ok src, dstV := [vd] }

/-- vd.e[i] := g a b (R158). -/
def vbin (legal : Hart → Bool) (signed : Bool) (g : Nat → Nat → Nat → Nat) (ok : BitVec 2) (km : BitVec 3)
    (vs2 src vd : BitVec 5) : M Unit :=
  vecRun (regs2 ok km vs2 src vd []) ok src signed legal (fun x i => [(vs2, x.ew, i)]) (fun _ _ => true) (actMask km)
    fun b x i => x.setElem vd x.ew i (g x.ew (x.elem vs2 x.ew i) (b x i))

/-- vd.e[i] := g a b d, with the old element of vd a source. -/
def vtri (legal : Hart → Bool) (g : Nat → Nat → Nat → Nat → Nat) (ok : BitVec 2) (km : BitVec 3) (vs2 src vd : BitVec 5) : M Unit :=
  vecRun (regs2 ok km vs2 src vd [vd]) ok src true legal (fun x i => [(vs2, x.ew, i), (vd, x.ew, i)]) (fun _ _ => true) (actMask km)
    fun b x i => x.setElem vd x.ew i (g x.ew (x.elem vs2 x.ew i) (b x i) (x.elem vd x.ew i))

/-- Bit i of kd := g a b (R161). -/
def vcmp (signed : Bool) (g : Nat → Nat → Nat → Bool) (ok : BitVec 2) (km : BitVec 3) (vs2 src : BitVec 5) (kd : BitVec 3) : M Unit :=
  vecRun { km := km, srcV := vs2 :: srcRegsV ok src, srcX := srcRegsX ok src, dstK := [kd.toNat] } ok src signed Hart.isInt
    (fun x i => [(vs2, x.ew, i)]) (fun _ _ => true) (actMask km)
    fun b x i => x.setK kd.toNat i (g x.ew (x.elem vs2 x.ew i) (b x i))

/-- VADD (R159). -/
def execVadd (ok : BitVec 2) (km : BitVec 3) (vs2 src vd : BitVec 5) (s : State) : Out :=
  settle (vbin Hart.isInt true (fun s a b => (a + b) % 2 ^ s) ok km vs2 src vd) s

/-- VSUB (R159). -/
def execVsub (ok : BitVec 2) (km : BitVec 3) (vs2 src vd : BitVec 5) (s : State) : Out :=
  settle (vbin Hart.isInt true (fun s a b => (a + 2 ^ s - b) % 2 ^ s) ok km vs2 src vd) s

/-- VRSUB (R159). -/
def execVrsub (ok : BitVec 2) (km : BitVec 3) (vs2 src vd : BitVec 5) (s : State) : Out :=
  settle (vbin Hart.isInt true (fun s a b => (b + 2 ^ s - a) % 2 ^ s) ok km vs2 src vd) s

/-- VMIN (R159). -/
def execVmin (ok : BitVec 2) (km : BitVec 3) (vs2 src vd : BitVec 5) (s : State) : Out :=
  settle (vbin Hart.isInt true (vSignedMin) ok km vs2 src vd) s

/-- VMAX (R159). -/
def execVmax (ok : BitVec 2) (km : BitVec 3) (vs2 src vd : BitVec 5) (s : State) : Out :=
  settle (vbin Hart.isInt true (vSignedMax) ok km vs2 src vd) s

/-- VMINU (R159). -/
def execVminu (ok : BitVec 2) (km : BitVec 3) (vs2 src vd : BitVec 5) (s : State) : Out :=
  settle (vbin Hart.isInt true (fun _ a b => if a ≤ b then a else b) ok km vs2 src vd) s

/-- VMAXU (R159). -/
def execVmaxu (ok : BitVec 2) (km : BitVec 3) (vs2 src vd : BitVec 5) (s : State) : Out :=
  settle (vbin Hart.isInt true (fun _ a b => if a ≤ b then b else a) ok km vs2 src vd) s

/-- VAND (R159). -/
def execVand (ok : BitVec 2) (km : BitVec 3) (vs2 src vd : BitVec 5) (s : State) : Out :=
  settle (vbin Hart.isInt true (fun _ a b => a &&& b) ok km vs2 src vd) s

/-- VOR (R159). -/
def execVor (ok : BitVec 2) (km : BitVec 3) (vs2 src vd : BitVec 5) (s : State) : Out :=
  settle (vbin Hart.isInt true (fun _ a b => a ||| b) ok km vs2 src vd) s

/-- VXOR (R159). -/
def execVxor (ok : BitVec 2) (km : BitVec 3) (vs2 src vd : BitVec 5) (s : State) : Out :=
  settle (vbin Hart.isInt true (fun _ a b => a ^^^ b) ok km vs2 src vd) s

/-- VSLL (R159). -/
def execVsll (ok : BitVec 2) (km : BitVec 3) (vs2 src vd : BitVec 5) (s : State) : Out :=
  settle (vbin Hart.isInt false (fun s a b => a * 2 ^ (b % s) % 2 ^ s) ok km vs2 src vd) s

/-- VSRL (R159). -/
def execVsrl (ok : BitVec 2) (km : BitVec 3) (vs2 src vd : BitVec 5) (s : State) : Out :=
  settle (vbin Hart.isInt false (fun s a b => a / 2 ^ (b % s)) ok km vs2 src vd) s

/-- VSRA (R159). -/
def execVsra (ok : BitVec 2) (km : BitVec 3) (vs2 src vd : BitVec 5) (s : State) : Out :=
  settle (vbin Hart.isInt false (vSra) ok km vs2 src vd) s

/-- VSADD (R159). -/
def execVsadd (ok : BitVec 2) (km : BitVec 3) (vs2 src vd : BitVec 5) (s : State) : Out :=
  settle (vbin Hart.isInt true (fun s a b => vClamp s (toSigned s a + toSigned s b)) ok km vs2 src vd) s

/-- VSSUB (R159). -/
def execVssub (ok : BitVec 2) (km : BitVec 3) (vs2 src vd : BitVec 5) (s : State) : Out :=
  settle (vbin Hart.isInt true (fun s a b => vClamp s (toSigned s a - toSigned s b)) ok km vs2 src vd) s

/-- VMERGE (R159): km selects, and only the selected operand is read. -/
def execVmerge (ok : BitVec 2) (km : BitVec 3) (vs2 src vd : BitVec 5) (s : State) : Out :=
  settle (vecRun (regs2 ok km vs2 src vd []) ok src true (fun _ => true)
    (fun x i => if x.maskOn km i then [] else [(vs2, x.ew, i)]) (fun x i => x.maskOn km i) (fun _ _ => true)
    fun b x i => x.setElem vd x.ew i (if x.maskOn km i then b x i else x.elem vs2 x.ew i)) s

/-- VMUL (R160). -/
def execVmul (ok : BitVec 2) (km : BitVec 3) (vs2 src vd : BitVec 5) (s : State) : Out :=
  settle (vbin Hart.isInt true (fun s a b => a * b % 2 ^ s) ok km vs2 src vd) s

/-- VMULH (R160). -/
def execVmulh (ok : BitVec 2) (km : BitVec 3) (vs2 src vd : BitVec 5) (s : State) : Out :=
  settle (vbin Hart.isInt true (fun s a b => ofSigned s (toSigned s a * toSigned s b / 2 ^ s)) ok km vs2 src vd) s

/-- VMULHU (R160). -/
def execVmulhu (ok : BitVec 2) (km : BitVec 3) (vs2 src vd : BitVec 5) (s : State) : Out :=
  settle (vbin Hart.isInt true (fun s a b => a * b / 2 ^ s % 2 ^ s) ok km vs2 src vd) s

/-- VDIV (R160). -/
def execVdiv (ok : BitVec 2) (km : BitVec 3) (vs2 src vd : BitVec 5) (s : State) : Out :=
  settle (vbin Hart.isInt true (vDivS) ok km vs2 src vd) s

/-- VDIVU (R160). -/
def execVdivu (ok : BitVec 2) (km : BitVec 3) (vs2 src vd : BitVec 5) (s : State) : Out :=
  settle (vbin Hart.isInt true (vDivU) ok km vs2 src vd) s

/-- VREM (R160). -/
def execVrem (ok : BitVec 2) (km : BitVec 3) (vs2 src vd : BitVec 5) (s : State) : Out :=
  settle (vbin Hart.isInt true (vRemS) ok km vs2 src vd) s

/-- VREMU (R160). -/
def execVremu (ok : BitVec 2) (km : BitVec 3) (vs2 src vd : BitVec 5) (s : State) : Out :=
  settle (vbin Hart.isInt true (fun _ a b => vRemU a b) ok km vs2 src vd) s

/-- VMACC (R160): the old element of vd is an addend. -/
def execVmacc (ok : BitVec 2) (km : BitVec 3) (vs2 src vd : BitVec 5) (s : State) : Out :=
  settle (vtri Hart.isInt (fun s a b d => (d + a * b) % 2 ^ s) ok km vs2 src vd) s

/-- VMV (R160): every SEW. -/
def execVmv (ok : BitVec 2) (km : BitVec 3) (src vd : BitVec 5) (s : State) : Out :=
  settle (vecRun { km := km, srcV := srcRegsV ok src, srcX := srcRegsX ok src, dstV := [vd] } ok src true (fun _ => true)
    (fun _ _ => []) (fun _ _ => true) (actMask km) fun b x i => x.setElem vd x.ew i (b x i)) s

/-- VID (R160). -/
def execVid (km : BitVec 3) (vd : BitVec 5) (s : State) : Out :=
  settle (vecRun { km := km, dstV := [vd] } 2 0 true Hart.isInt (fun _ _ => []) (fun _ _ => false) (actMask km)
    fun _ x i => x.setElem vd x.ew i (i % 2 ^ x.ew)) s

/-- VMSEQ (R161). -/
def execVmseq (ok : BitVec 2) (km : BitVec 3) (vs2 src : BitVec 5) (kd : BitVec 3) (s : State) : Out :=
  settle (vcmp true (fun _ a b => a == b) ok km vs2 src kd) s

/-- VMSNE (R161). -/
def execVmsne (ok : BitVec 2) (km : BitVec 3) (vs2 src : BitVec 5) (kd : BitVec 3) (s : State) : Out :=
  settle (vcmp true (fun _ a b => a != b) ok km vs2 src kd) s

/-- VMSLT (R161). -/
def execVmslt (ok : BitVec 2) (km : BitVec 3) (vs2 src : BitVec 5) (kd : BitVec 3) (s : State) : Out :=
  settle (vcmp true (fun s a b => decide (toSigned s a < toSigned s b)) ok km vs2 src kd) s

/-- VMSLTU (R161). -/
def execVmsltu (ok : BitVec 2) (km : BitVec 3) (vs2 src : BitVec 5) (kd : BitVec 3) (s : State) : Out :=
  settle (vcmp false (fun _ a b => decide (a < b)) ok km vs2 src kd) s

/-- VMSLE (R161). -/
def execVmsle (ok : BitVec 2) (km : BitVec 3) (vs2 src : BitVec 5) (kd : BitVec 3) (s : State) : Out :=
  settle (vcmp true (fun s a b => decide (toSigned s a ≤ toSigned s b)) ok km vs2 src kd) s

/-- VMSLEU (R161). -/
def execVmsleu (ok : BitVec 2) (km : BitVec 3) (vs2 src : BitVec 5) (kd : BitVec 3) (s : State) : Out :=
  settle (vcmp false (fun _ a b => decide (a ≤ b)) ok km vs2 src kd) s

/-- VMSGT (R161). -/
def execVmsgt (ok : BitVec 2) (km : BitVec 3) (vs2 src : BitVec 5) (kd : BitVec 3) (s : State) : Out :=
  settle (vcmp true (fun s a b => decide (toSigned s b < toSigned s a)) ok km vs2 src kd) s

/-- VMSGTU (R161). -/
def execVmsgtu (ok : BitVec 2) (km : BitVec 3) (vs2 src : BitVec 5) (kd : BitVec 3) (s : State) : Out :=
  settle (vcmp false (fun _ a b => decide (b < a)) ok km vs2 src kd) s

/-! ### Mask registers (R168) -/

/-- A logical form on the bits vstart to vl-1 of kd (R168). -/
def klogic (g : Bool → Bool → Bool) (ks2 ks1 : Nat) (kd : BitVec 3) (srcs : List Nat) : M Unit :=
  vecRun { srcK := srcs, dstK := [kd.toNat] } 2 0 true (fun _ => true) (fun _ _ => []) (fun _ _ => false) (fun _ _ => true)
    fun _ x i => x.setK kd.toNat i (g ((x.kr ks2).getLsbD i) ((x.kr ks1).getLsbD i))

/-- KAND (R168). -/
def execKand (ks2 ks1 kd : BitVec 3) (s : State) : Out :=
  settle (klogic (fun a b => a && b) ks2.toNat ks1.toNat kd [ks2.toNat, ks1.toNat]) s
/-- KOR (R168). -/
def execKor (ks2 ks1 kd : BitVec 3) (s : State) : Out :=
  settle (klogic (fun a b => a || b) ks2.toNat ks1.toNat kd [ks2.toNat, ks1.toNat]) s
/-- KXOR (R168). -/
def execKxor (ks2 ks1 kd : BitVec 3) (s : State) : Out :=
  settle (klogic (fun a b => a != b) ks2.toNat ks1.toNat kd [ks2.toNat, ks1.toNat]) s
/-- KANDN (R168): ks2 AND NOT ks1. -/
def execKandn (ks2 ks1 kd : BitVec 3) (s : State) : Out :=
  settle (klogic (fun a b => a && !b) ks2.toNat ks1.toNat kd [ks2.toNat, ks1.toNat]) s
/-- KNOT (R168). -/
def execKnot (ks1 kd : BitVec 3) (s : State) : Out :=
  settle (klogic (fun _ b => !b) ks1.toNat ks1.toNat kd [ks1.toNat]) s

/-- KFROMV (R168): any bit of element i set. -/
def execKfromv (km : BitVec 3) (vs1 : BitVec 5) (kd : BitVec 3) (s : State) : Out :=
  settle (vecRun { km := km, srcV := [vs1], dstK := [kd.toNat] } 2 0 true (fun _ => true) (fun x i => [(vs1, x.ew, i)])
    (fun _ _ => false) (actMask km) fun _ x i => x.setK kd.toNat i (x.elem vs1 x.ew i != 0)) s
/-- VFROMK (R168): integer SEW only. -/
def execVfromk (km : BitVec 3) (ks1 : BitVec 3) (vd : BitVec 5) (s : State) : Out :=
  settle (vecRun { km := km, srcK := [ks1.toNat], dstV := [vd] } 2 0 true Hart.isInt (fun _ _ => []) (fun _ _ => false)
    (actMask km) fun _ x i => x.setElem vd x.ew i (if (x.kr ks1.toNat).getLsbD i then 1 else 0)) s

/-- A count over a mask register into x[rd]: no elements, vstart left 0, the taint of ks1 and vl (R168). With 0 < vl ≤ vstart the answer is
the real count, as R55 and R168 ignore vstart, where R156 would give 0 and -1 (log 109). -/
def kcount (g : (Nat → Bool) → Nat → Word) (ks1 : BitVec 3) (rd : BitVec 5) : M Unit := do
  vecIssue fun _ => true
  let h ← getHart
  writeX rd (g (fun i => (h.kr ks1.toNat).getLsbD i) h.vln) (unionTaint h.issued [] [h.taintK[ks1.toNat]'ks1.isLt, h.taintVl])
  modHart fun h => { h with vstart := 0 }
  retire 4

/-- KPOP (R168). -/
def execKpop (ks1 : BitVec 3) (rd : BitVec 5) (s : State) : Out :=
  settle (kcount (fun b n => BitVec.ofNat 64 ((List.range n).filter b).length) ks1 rd) s
/-- KFIRST (R168): -1 when no bit is set. -/
def execKfirst (ks1 : BitVec 3) (rd : BitVec 5) (s : State) : Out :=
  settle (kcount (fun b n => match (List.range n).find? b with | some i => BitVec.ofNat 64 i | none => ~~~ 0#64) ks1 rd) s

end Sys2Proof.Machine
end

