-- ==== Sys2Proof/Machine/VecFloat.lean ====
section
/-! DEFINITION. Floating-point vector arithmetic, comparisons, classes and conversions (07_vector_compute R161 to R167). -/

namespace Sys2Proof.Machine

/-- An element as an exact value of the SEW format. -/
def Hart.fval (h : Hart) (b : Nat) : FVal := decodeIeee h.fmt true b

/-- A float instruction that rounds by frm is legal at a float SEW with a mode in frm (R34, R152). -/
def floatRnd (h : Hart) : Bool := h.isFloat && h.frmOk

/-- An exact value rounded by frm, with the operation's own flags (R36). -/
def Hart.round (h : Hart) (r : FVal × FFlags) : Nat × FFlags :=
  let p := packVal h.fmt h.rnd r.1
  (p.1, p.2 ||| r.2)

/-- vd.e[i] := g a b with flags (R162). -/
def vfbin (legal : Hart → Bool) (g : Hart → Nat → Nat → Nat × FFlags) (ok : BitVec 2) (km : BitVec 3) (vs2 src vd : BitVec 5) : M Unit :=
  vecRun (regs2 ok km vs2 src vd []) ok src true legal (fun x i => [(vs2, x.ew, i)]) (fun _ _ => true) (actMask km)
    fun b x i => let r := g x (x.elem vs2 x.ew i) (b x i); (x.setElem vd x.ew i r.1).addFlags r.2

/-- vd.e[i] := g a b d with flags, vd a source (R162). -/
def vftri (g : Hart → FVal → FVal → FVal → FVal × FFlags) (ok : BitVec 2) (km : BitVec 3) (vs2 src vd : BitVec 5) : M Unit :=
  vecRun (regs2 ok km vs2 src vd [vd]) ok src true floatRnd (fun x i => [(vs2, x.ew, i), (vd, x.ew, i)]) (fun _ _ => true) (actMask km)
    fun b x i =>
      let r := x.round (g x (x.fval (x.elem vs2 x.ew i)) (x.fval (b x i)) (x.fval (x.elem vd x.ew i)))
      (x.setElem vd x.ew i r.1).addFlags r.2

/-- vd.e[i] := g b with flags: the one-source forms (R162 to R164). -/
def vfun (legal : Hart → Bool) (g : Hart → Nat → Nat × FFlags) (ok : BitVec 2) (km : BitVec 3) (src vd : BitVec 5) : M Unit :=
  vecRun { km := km, srcV := srcRegsV ok src, srcX := srcRegsX ok src, dstV := [vd] } ok src true legal
    (fun _ _ => []) (fun _ _ => true) (actMask km)
    fun b x i => let r := g x (b x i); (x.setElem vd x.ew i r.1).addFlags r.2

/-- Bit i of kd := g a b with flags (R161). -/
def vfcmp (g : FVal → FVal → Bool × FFlags) (ok : BitVec 2) (km : BitVec 3) (vs2 src : BitVec 5) (kd : BitVec 3) : M Unit :=
  vecRun { km := km, srcV := vs2 :: srcRegsV ok src, srcX := srcRegsX ok src, dstK := [kd.toNat] } ok src true Hart.isFloat
    (fun x i => [(vs2, x.ew, i)]) (fun _ _ => true) (actMask km)
    fun b x i => let r := g (x.fval (x.elem vs2 x.ew i)) (x.fval (b x i)); (x.setK kd.toNat i r.1).addFlags r.2

/-- A comparison's result and flags: false with a NaN unless `ne`; IVO for a signalling NaN, or for any when not quiet (R37). -/
def cmpFlags (quiet ne : Bool) (p : Ordering → Bool) (a b : FVal) : Bool × FFlags :=
  if a.isNan || b.isNan then (ne, if quiet then sigFlag a ||| sigFlag b else flIVO) else (p (cmpVal a b), 0)

/-- VFADD (R162). -/
def execVfadd (ok : BitVec 2) (km : BitVec 3) (vs2 src vd : BitVec 5) (s : State) : Out :=
  settle (vfbin floatRnd (fun h a b => h.round (addVal h.rnd (h.fval a) (h.fval b))) ok km vs2 src vd) s

/-- VFSUB (R162). -/
def execVfsub (ok : BitVec 2) (km : BitVec 3) (vs2 src vd : BitVec 5) (s : State) : Out :=
  settle (vfbin floatRnd (fun h a b => h.round (addVal h.rnd (h.fval a) (h.fval b).neg)) ok km vs2 src vd) s

/-- VFMUL (R162). -/
def execVfmul (ok : BitVec 2) (km : BitVec 3) (vs2 src vd : BitVec 5) (s : State) : Out :=
  settle (vfbin floatRnd (fun h a b => h.round (mulVal (h.fval a) (h.fval b))) ok km vs2 src vd) s

/-- VFDIV (R162). -/
def execVfdiv (ok : BitVec 2) (km : BitVec 3) (vs2 src vd : BitVec 5) (s : State) : Out :=
  settle (vfbin floatRnd (fun h a b => h.round (divVal (h.fval a) (h.fval b))) ok km vs2 src vd) s

/-- VFMIN (R37, R162). -/
def execVfmin (ok : BitVec 2) (km : BitVec 3) (vs2 src vd : BitVec 5) (s : State) : Out :=
  settle (vfbin Hart.isFloat (fun h a b => minMaxBits h.fmt false a b) ok km vs2 src vd) s

/-- VFMAX (R37, R162). -/
def execVfmax (ok : BitVec 2) (km : BitVec 3) (vs2 src vd : BitVec 5) (s : State) : Out :=
  settle (vfbin Hart.isFloat (fun h a b => minMaxBits h.fmt true a b) ok km vs2 src vd) s

/-- Sign injection: the magnitude of a with a sign; the canonical NaN when a is NaN, no flag (R162). -/
def signInject (h : Hart) (sg : Bool → Bool → Bool) (a b : Nat) : Nat × FFlags :=
  let f := h.fmt
  let top := f.eb + f.fb
  if (h.fval a).isNan then (f.canon, 0)
  else (a % 2 ^ top + (if sg (a.testBit top) (b.testBit top) then 2 ^ top else 0), 0)

/-- VFSGNJ (R162). -/
def execVfsgnj (ok : BitVec 2) (km : BitVec 3) (vs2 src vd : BitVec 5) (s : State) : Out :=
  settle (vfbin Hart.isFloat (fun h a b => signInject h (fun _ y => y) a b) ok km vs2 src vd) s

/-- VFSGNJN (R162). -/
def execVfsgnjn (ok : BitVec 2) (km : BitVec 3) (vs2 src vd : BitVec 5) (s : State) : Out :=
  settle (vfbin Hart.isFloat (fun h a b => signInject h (fun _ y => !y) a b) ok km vs2 src vd) s

/-- VFSGNJX (R162). -/
def execVfsgnjx (ok : BitVec 2) (km : BitVec 3) (vs2 src vd : BitVec 5) (s : State) : Out :=
  settle (vfbin Hart.isFloat (fun h a b => signInject h (fun x y => x != y) a b) ok km vs2 src vd) s

/-- VFMACC (R162): fused. -/
def execVfmacc (ok : BitVec 2) (km : BitVec 3) (vs2 src vd : BitVec 5) (s : State) : Out :=
  settle (vftri (fun h a b d => fmaVal h.rnd a b d) ok km vs2 src vd) s

/-- −(a × b) − d, fused: an exact zero has the turned sign of the exact zero of a × b + d (R162). -/
def nmaccVal (mode : Rnd) (a b d : FVal) : FVal × FFlags :=
  match fmaVal mode a b d with
  | (.fin n 0 e, fl) => (.fin (!n) 0 e, fl)
  | _ => fmaVal mode a.neg b d.neg
/-- VFNMACC (R162): fused. -/
def execVfnmacc (ok : BitVec 2) (km : BitVec 3) (vs2 src vd : BitVec 5) (s : State) : Out :=
  settle (vftri (fun h a b d => nmaccVal h.rnd a b d) ok km vs2 src vd) s

/-- VFMSAC (R162): fused. -/
def execVfmsac (ok : BitVec 2) (km : BitVec 3) (vs2 src vd : BitVec 5) (s : State) : Out :=
  settle (vftri (fun h a b d => fmaVal h.rnd a b d.neg) ok km vs2 src vd) s

/-- VFSQRT (R162). -/
def execVfsqrt (ok : BitVec 2) (km : BitVec 3) (src vd : BitVec 5) (s : State) : Out :=
  settle (vfun floatRnd (fun h b => h.round (sqrtVal (h.fval b))) ok km src vd) s

/-- VFRCP (R162). -/
def execVfrcp (ok : BitVec 2) (km : BitVec 3) (src vd : BitVec 5) (s : State) : Out :=
  settle (vfun floatRnd (fun h b => h.round (divVal (.fin false 1 0) (h.fval b))) ok km src vd) s

/-- VFEXP2 (R162). -/
def execVfexp2 (ok : BitVec 2) (km : BitVec 3) (src vd : BitVec 5) (s : State) : Out :=
  settle (vfun floatRnd (fun h b => h.round (exp2Val (h.fval b))) ok km src vd) s

/-- VFCLASS (R163). -/
def execVfclass (ok : BitVec 2) (km : BitVec 3) (src vd : BitVec 5) (s : State) : Out :=
  settle (vfun Hart.isFloat (fun h b => (classCode h.fmt b, 0)) ok km src vd) s

/-- VMFEQ (R37, R161). -/
def execVmfeq (ok : BitVec 2) (km : BitVec 3) (vs2 src : BitVec 5) (kd : BitVec 3) (s : State) : Out :=
  settle (vfcmp (cmpFlags true false (fun o => o == .eq)) ok km vs2 src kd) s

/-- VMFNE (R37, R161). -/
def execVmfne (ok : BitVec 2) (km : BitVec 3) (vs2 src : BitVec 5) (kd : BitVec 3) (s : State) : Out :=
  settle (vfcmp (cmpFlags true true (fun o => o != .eq)) ok km vs2 src kd) s

/-- VMFLT (R37, R161). -/
def execVmflt (ok : BitVec 2) (km : BitVec 3) (vs2 src : BitVec 5) (kd : BitVec 3) (s : State) : Out :=
  settle (vfcmp (cmpFlags false false (fun o => o == .lt)) ok km vs2 src kd) s

/-- VMFLE (R37, R161). -/
def execVmfle (ok : BitVec 2) (km : BitVec 3) (vs2 src : BitVec 5) (kd : BitVec 3) (s : State) : Out :=
  settle (vfcmp (cmpFlags false false (fun o => o != .gt)) ok km vs2 src kd) s

/-! ### Conversions (R164 to R167) -/

/-- VFCVT.F.X (R38, R164). -/
def execVfcvtFX (ok : BitVec 2) (km : BitVec 3) (src vd : BitVec 5) (s : State) : Out :=
  settle (vfun floatRnd (fun h b =>
    let i := toSigned h.ew b
    h.round (.fin (decide (i < 0)) i.natAbs 0, 0)) ok km src vd) s
/-- VFCVT.X.F (R38, R164). -/
def execVfcvtXF (ok : BitVec 2) (km : BitVec 3) (src vd : BitVec 5) (s : State) : Out :=
  settle (vfun floatRnd (fun h b => toIntBits h.rnd h.ew (h.fval b)) ok km src vd) s

/-- The narrower side of VFWCVT and VFNCVT by its fmt field: a float of 16 bits or a narrow format (R95). -/
inductive Narrow where
  | half (f : FFmt)
  | code (f : NFmt)
  deriving DecidableEq, Repr

def Narrow.width : Narrow → Nat
  | .half _ => 16
  | .code f => f.width
def Narrow.value : Narrow → Nat → FVal
  | .half f, b => decodeIeee f true b
  | .code f, b => decodeNarrow f b

/-- The legal pairs of R165: the SEW of vtype, and fmt. -/
def narrowSide (sew : Nat) (fmt : BitVec 5) : Option Narrow :=
  let code := fmt.toNat % 8
  let nf := fmt.toNat / 8
  if code = 7 then (if 4 ≤ sew && sew ≤ 6 then some (.code (nfOf nf)) else none)
  else if (code = 4 || code = 5) && nf = 0 && sew = 6 then some (.half (sewFmt code))
  else none

/-- VFWCVT (R165): the narrow side is vs1, compact; exact. -/
def execVfwcvt (ok : BitVec 2) (km : BitVec 3) (fmt src vd : BitVec 5) (s : State) : Out :=
  let side (h : Hart) : Narrow := (narrowSide h.sew fmt).getD (.half bf16)
  settle (vecRun { km := km, srcV := [src], dstV := [vd] } 2 0 true
    (fun h => (narrowSide h.sew fmt).isSome && src != vd && ok != 3)
    (fun h i => [(src, (side h).width, i)]) (fun _ _ => false) (actMask km)
    fun _ x i =>
      let v := (side x).value (x.elem src (side x).width i)
      (x.setElem vd x.ew i (packVal x.fmt .rne v).1).addFlags (sigFlag v)) s

/-- VFNCVT (R165): the narrow side is vd, compact; FP16 and BF16 round by frm, the codes by R45 and R46. -/
def execVfncvt (ok : BitVec 2) (km : BitVec 3) (fmt src vd : BitVec 5) (s : State) : Out :=
  let side (h : Hart) : Narrow := (narrowSide h.sew fmt).getD (.half bf16)
  settle (vecRun { km := km, srcV := srcRegsV ok src, dstV := [vd] } ok src true
    (fun h => match narrowSide h.sew fmt with
      | none => false
      | some (.half _) => h.frmOk && (ok = 3 || src != vd)
      | some (.code _) => ok = 3 || src != vd)
    (fun _ _ => []) (fun _ _ => true) (actMask km)
    fun b x i =>
      let v := x.fval (b x i)
      let r := match side x with
        | .half f => let p := packVal f x.rnd v; (p.1, p.2 ||| sigFlag v)
        | .code f => encodeNarrow f v
      (x.setElem vd (side x).width i r.1).addFlags r.2) s

/-- One block of VQNT: its scale, then its codes (R166). -/
def quantBlock (km : BitVec 3) (vsc vd : BitVec 5) (f : NFmt) (bl : Nat) (b : Hart → Nat → Nat) (h0 : Hart) (h : Hart) (j : Nat) : Hart :=
  let act := (idxRange (j * bl) ((j + 1) * bl)).filter fun i => h0.vst ≤ i && h0.maskOn km i
  if act.isEmpty then h
  else
    let vals := act.map fun i => h.fval (b h i)
    let c := blockScale vals f
    let h := h.setElem vsc 8 j c
    act.foldl (fun h i => let r := quantiseVal (h.fval (b h i)) c f; (h.setElem vd f.width i r.1).addFlags r.2) h

/-- The blocks in ascending order until one holds a poisoned active element; the answer is that element (R166, R172). -/
def quantLoop (bad : Hart → Nat → Option Nat) (f : Hart → Nat → Hart) : List Nat → Hart → Hart × Option (Nat × Nat)
  | [], h => (h, none)
  | j :: r, h => match bad h j with | some i => (h, some (j, i)) | none => quantLoop bad f r (f h j)

/-- VQNT (R166). -/
def execVqnt (ok : BitVec 2) (km : BitVec 3) (vsc src vd : BitVec 5) (s : State) : Out :=
  let r : VRegs := { km := km, srcV := srcRegsV ok src, dstV := [vd, vsc] }
  settle (do
    vecIssue fun h => h.isFloat && h.bl != 0 && vd != vsc && (ok = 3 || (vd != src && vsc != src))
    let h ← getHart
    if h.vst ≥ h.vln then vecEmpty r
    else
      let (n, c) ← chuteTrim (chuteOf ok src)
      let bl := h.bl
      let f := nfOf (vtNf h.vt)
      let acts (j : Nat) : List Nat := (idxRange (j * bl) ((j + 1) * bl)).filter fun i => h.vst ≤ i && h.maskOn km i
      let badAt (x : Hart) (i : Nat) : Bool :=
        match c with
        | some c => c.elemBad h.ew (i - h.vst)
        | none => x.elemBad src h.ew i
      let blocks := idxRange (h.vst / bl) (n / bl)
      modHart fun x => x.markDirty r
      if c.isSome then
        match (idxRange h.vst n).find? fun i => h.maskOn km i && badAt h i with
        | some i => trapReg 9 i
        | none => pure ()
      let srcs := h.vecSources r
      let full := h.wholeReg r && n = h.vln
      let own ← popTag c
      trimVl n own
      let (h', stop) := quantLoop (fun x j => (acts j).find? (badAt x))
        (quantBlock km vsc vd f bl (operandB h c ok src true h.ew) h) blocks (← getHart)
      modHart fun _ => h'
      match stop with
      | some (j, i) => vecPoison r (j * bl) i
      | none =>
        match chuteOf ok src with
        | some q => modCrew fun x => x.mapChute q fun x => x.consume h.ew (n - h.vst)
        | none => pure ()
        noteLatent r h fun _ => if ok = 3 then [] else ((idxRange h.vst n).filter (h.maskOn km)).map fun i => (src, h.ew, i)
        vecDone r full own srcs) s

/-- VDEQ (R167): compact NF codes in vs1, one scale byte per block in vsc, RNE. -/
def execVdeq (ok : BitVec 2) (km : BitVec 3) (vsc src vd : BitVec 5) (s : State) : Out :=
  settle (vecRun { km := km, srcV := [src, vsc], dstV := [vd] } 2 0 true
    (fun h => h.isFloat && h.bl != 0 && vd != src && vd != vsc && ok != 3)
    (fun h i => [(src, (nfOf (vtNf h.vt)).width, i), (vsc, 8, i / h.bl)]) (fun _ _ => false) (fun h i => h.maskOn km i)
    fun _ x i =>
      let f := nfOf (vtNf x.vt)
      let r := dequantiseVal (x.elem src f.width i) (x.elem vsc 8 (i / x.bl)) f x.fmt
      (x.setElem vd x.ew i r.1).addFlags r.2) s

end Sys2Proof.Machine
end

