-- ==== Sys2Proof/Machine/VecPerm.lean ====
section
/-! DEFINITION. Vector configuration, lane grants, permutation, reduction and vector chute transfers (03_crews R64 to R72,
07_vector_compute R148 to R151, 08_vector_data R191 to R201). -/

namespace Sys2Proof.Machine

/-! ### Lane groups (R65, R68) -/

/-- Logical group j of every register zeroed, its poison dropped. -/
def Hart.zeroGroup (h : Hart) (j : Nat) : Hart :=
  { h with v := h.v.map fun r => setField r (1024 * j) 1024 0, vpoison := h.vpoison.map fun p => setField p (128 * j) 128 0 }

/-- The highest logical groups of hart `h` released until it holds `want` (R68). -/
def State.shrink (s : State) (h want : Nat) : Nat → State
  | 0 => s
  | k + 1 =>
    let x := s.hartAt h
    if x.lanes.length > want then
      let g := x.lanes.getLast?.getD 0
      let s := s.mapHart h fun x => ({ x with lanes := x.lanes.dropLast } : Hart).zeroGroup (x.lanes.length - 1)
      let s := s.mapCore (coreOf h) fun c => { c with lanes := c.lanes.set (Fin.ofNat 16 g) { c.lanes[Fin.ofNat 16 g] with owner := none } }
      State.shrink s h want k
    else s

/-- The lowest free group of a world on a core. -/
def Core.freeLane (c : Core) (world : Nat) : Option Nat :=
  (List.range 16).find? fun g => let l := c.lanes[Fin.ofNat 16 g]; l.owner.isNone && l.world == world

/-- Free groups of the hart's world granted in ascending order until it holds `want` (R68). -/
def State.grow (s : State) (h want : Nat) : Nat → State
  | 0 => s
  | k + 1 =>
    let x := s.hartAt h
    if x.lanes.length < want then
      match (s.coreAt (coreOf h)).freeLane (bits x.sxlat.toNat 43 40) with
      | none => s
      | some g =>
        let s := s.mapHart h fun x => ({ x with lanes := x.lanes ++ [g] } : Hart).zeroGroup x.lanes.length
        let s := s.mapCore (coreOf h) fun c =>
          { c with lanes := c.lanes.set (Fin.ofNat 16 g) { c.lanes[Fin.ofNat 16 g] with owner := some h } }
        State.grow s h want k
    else s

/-- lane_grant (R68). -/
def State.laneGrant (s : State) (h req : Nat) : State :=
  let want := min req (s.hartAt h).lgquota.toNat
  (s.shrink h want 16).grow h want 16

/-- VSETVL and VSETVLI after their decoding: `avl` none asks for VLMAX (R150). -/
def setVl (rd : BitVec 5) (rs : List (BitVec 5)) (avl : Option Word) (vt : Word) : M Unit := do
  vecIssue fun _ => decide (vt.toNat < 2 ^ 11)
  let n ← curNum
  modState fun s => s.laneGrant n (vtLg vt.toNat + 1)
  let h ← getHart
  let vlmax := 1024 * h.lanes.length / elemWidth vt.toNat
  let m := match avl with | none => vlmax | some a => min a.toNat vlmax
  let m := if blockLen vt.toNat = 0 then m else m - m % blockLen vt.toNat
  let t ← joinX rs []
  modHart fun h => ({ h with vtype := BitVec.ofNat 11 vt.toNat, vl := BitVec.ofNat 12 m, vstart := 0, taintVl := t } : Hart).setX rd
    (BitVec.ofNat 64 m) t
  retire 4

/-- VSETVL (R150). -/
def execVsetvl (rd rs1 rs2 : BitVec 5) (s : State) : Out :=
  settle (do
    let h ← getHart
    setVl rd [rs1, rs2] (if rs1 = 0 then none else some (h.xr rs1)) (h.xr rs2)) s
/-- VSETVLI (R150). -/
def execVsetvli (rd rs1 : BitVec 5) (vt : BitVec 11) (s : State) : Out :=
  settle (do
    let h ← getHart
    setVl rd [rs1] (if rs1 = 0 then none else some (h.xr rs1)) (vt.setWidth 64)) s

/-! ### Permutation (R191 to R196) -/

/-- Whether one of some elements read, as (register, width, index), is poisoned. -/
def anyBad (h : Hart) (rd : List (BitVec 5 × Nat × Nat)) : Bool := rd.any fun e => h.elemBad e.1 e.2.1 e.2.2
/-- A permutation: every source element is checked before any is written, sources are read as they stood at issue, and
active elements whose value is none keep theirs (R191). `reads` names the elements that active element i reads. A poison trap's stval is
the destination index whose read is poisoned: R191 does not say which index it is (log 107). A poisoned entry of a chute stops the instruction with
no element active as well, with stval vstart: R172 and R193 do not say (log 107). -/
def permRun (r : VRegs) (legal : Hart → Bool) (q : Option Nat) (act : Hart → Nat → Bool)
    (reads : Nat → Hart → Nat → List (BitVec 5 × Nat × Nat)) (val : Nat → Hart → Nat → Option Nat) : M Unit := do
  vecIssue legal
  let h ← getHart
  if h.vst ≥ h.vln then vecEmpty r
  else
    let rng := (idxRange h.vst h.vln).filter (act h)
    let c ← match q with
      | none => pure none
      | some q => do
        let c := (← getCrew).chute q
        if c.avail h.ew = 0 then stall (.chute q) else pure (some c)
    let o := match c with | some c => c.elem h.ew 0 | none => 0
    modHart fun x => x.markDirty r
    match c with
    | some c => if c.elemBad h.ew 0 then trapReg 9 (rng.headD h.vst) else pure ()
    | none => pure ()
    match rng.find? fun i => anyBad h (reads o h i) with
    | some i => trapReg 9 i
    | none =>
      let srcs := h.vecSources r
      noteLatent r h fun _ => rng.flatMap (reads o h)
      let own ← popTag c
      modHart fun x => rng.foldl (fun x i => match val o h i with | some v => x.setElem (r.dstV.headD 0) h.ew i v | none => x) x
      match q with
      | some q => modCrew fun x => x.mapChute q fun x => x.consume h.ew 1
      | none => pure ()
      vecDone r (h.wholeReg r) own srcs

/-- The operand o or x of a slide, when it does not come from a chute (R193). -/
def slideOperand (ok : BitVec 2) (src : BitVec 5) (full : Bool) (o : Nat) (h : Hart) : Nat :=
  if ok = 3 then o
  else if ok = 0 then h.elem src h.ew 0
  else if ok = 1 then (if full then (h.xr src).toNat else (h.xr src).toNat % 2 ^ h.ew)
  else src.toNat

/-- Element 0 of vs1, when the operand is read from it. -/
def operandRead (ok : BitVec 2) (src : BitVec 5) (h : Hart) : List (BitVec 5 × Nat × Nat) := if ok = 0 then [(src, h.ew, 0)] else []
/-- Element j of a register, when it lies below vl. -/
def readBelow (r : BitVec 5) (h : Hart) (j : Nat) : List (BitVec 5 × Nat × Nat) := if j < h.vln then [(r, h.ew, j)] else []

/-- A slide: `from'` gives the source index of element i, `fill` its value where there is no source (R193). -/
def slide (up : Bool) (full : Bool) (from' : Nat → Hart → Nat → Option Nat) (fill : Nat → Hart → Nat → Option Nat)
    (ok : BitVec 2) (km : BitVec 3) (vs2 src vd : BitVec 5) : M Unit :=
  permRun (regs2 ok km vs2 src vd []) (fun _ => !up || (vd != vs2 && (ok != 0 || vd != src))) (chuteOf ok src) (actMask km)
    (fun o h i => operandRead ok src h ++ (match from' (slideOperand ok src full o h) h i with
      | some j => readBelow vs2 h j
      | none => []))
    fun o h i =>
      let x := slideOperand ok src full o h
      match from' x h i with
      | some j => some (if j < h.vln then h.elem vs2 h.ew j else 0)
      | none => fill x h i

/-- VSLIDEUP (R193). -/
def execVslideup (ok : BitVec 2) (km : BitVec 3) (vs2 src vd : BitVec 5) (s : State) : Out :=
  settle (slide true true (fun o _ i => if i ≥ o then some (i - o) else none) (fun _ _ _ => none) ok km vs2 src vd) s
/-- VSLIDEDOWN (R193). -/
def execVslidedown (ok : BitVec 2) (km : BitVec 3) (vs2 src vd : BitVec 5) (s : State) : Out :=
  settle (slide false true (fun o _ i => some (i + o)) (fun _ _ _ => none) ok km vs2 src vd) s
/-- VSLIDE1UP (R193). -/
def execVslide1up (ok : BitVec 2) (km : BitVec 3) (vs2 src vd : BitVec 5) (s : State) : Out :=
  settle (slide true false (fun _ _ i => if i = 0 then none else some (i - 1)) (fun x h _ => some (x % 2 ^ h.ew)) ok km vs2 src vd) s
/-- VSLIDE1DOWN (R193). -/
def execVslide1down (ok : BitVec 2) (km : BitVec 3) (vs2 src vd : BitVec 5) (s : State) : Out :=
  settle (slide false false (fun _ h i => if i + 1 = h.vln then none else some (i + 1)) (fun x h _ => some (x % 2 ^ h.ew)) ok km vs2 src vd) s

/-- VRGATHER (R194). -/
def execVrgather (ok : BitVec 2) (km : BitVec 3) (vs2 src vd : BitVec 5) (s : State) : Out :=
  let idx (h : Hart) (i : Nat) : Nat :=
    if ok = 0 then h.elem src h.ew i else if ok = 1 then (h.xr src).toNat else src.toNat
  settle (permRun (regs2 ok km vs2 src vd []) (fun _ => vd != vs2 && (ok != 0 || vd != src)) none (actMask km)
    (fun _ h i => (if ok = 0 then [(src, h.ew, i)] else []) ++ readBelow vs2 h (idx h i))
    fun _ h i => some (if idx h i < h.vln then h.elem vs2 h.ew (idx h i) else 0)) s

/-- vstart is 0, or at or above vl (R191, R197). -/
def wholeStart (h : Hart) : Bool := h.vst = 0 || h.vst ≥ h.vln
/-- The set bits of a mask below i. -/
def maskBelow (h : Hart) (k i : Nat) : Nat := ((List.range i).filter fun j => (h.kr k).getLsbD j).length

/-- VCOMPRESS (R195): element t of vd takes the t-th element kept. -/
def execVcompress (km : BitVec 3) (vs1 vd : BitVec 5) (s : State) : Out :=
  let kept (h : Hart) : List Nat := (List.range h.vln).filter (h.maskOn km)
  settle (permRun { km := km, srcV := [vs1], dstV := [vd] } (fun h => vd != vs1 && wholeStart h) none
    (fun h i => i < (kept h).length || h.maskOn km i)
    (fun _ h i => if h.maskOn km i then [(vs1, h.ew, i)] else [])
    fun _ h i => (kept h)[i]?.map (h.elem vs1 h.ew)) s
/-- VEXPAND (R195). -/
def execVexpand (km : BitVec 3) (vs1 vd : BitVec 5) (s : State) : Out :=
  settle (permRun { km := km, srcV := [vs1], dstV := [vd] } (fun h => vd != vs1 && wholeStart h) none (actMask km)
    (fun _ h i => [(vs1, h.ew, maskBelow h km.toNat i)])
    fun _ h i => some (h.elem vs1 h.ew (maskBelow h km.toNat i))) s
/-- VIOTA (R195). -/
def execViota (km ks1 : BitVec 3) (vd : BitVec 5) (s : State) : Out :=
  settle (permRun { km := km, srcK := [ks1.toNat], dstV := [vd] } (fun h => h.isInt && wholeStart h) none (actMask km)
    (fun _ _ _ => []) fun _ h i => some (maskBelow h ks1.toNat i % 2 ^ h.ew)) s

/-- VMVXS (R196): element 0 sign-extended; nothing at vl = 0 (R156). -/
def execVmvxs (vs2 rd : BitVec 5) (s : State) : Out :=
  settle (do
    vecIssue fun _ => true
    let h ← getHart
    if h.vst ≥ h.vln then vecEmpty {}
    else
      if h.elemBad vs2 h.ew 0 then trapReg 9 0
      noteLatent { srcV := [vs2] } h fun _ => [(vs2, h.ew, 0)]
      writeX rd (BitVec.ofNat 64 (ofSigned 64 (toSigned h.ew (h.elem vs2 h.ew 0))))
        (unionTaint h.issued [] (h.vecSources { srcV := [vs2] }))
      vecDone {} false [] []) s
/-- VMVSX (R196): element 0 only; it lies below a vstart above 0 and then keeps its value (R191). -/
def execVmvsx (rs1 vd : BitVec 5) (s : State) : Out :=
  settle (permRun { srcX := [rs1], dstV := [vd] } (fun _ => true) none (fun _ i => i = 0) (fun _ _ _ => [])
    fun _ h _ => some ((h.xr rs1).toNat % 2 ^ h.ew)) s

/-! ### Reduction (R197 to R199) -/

/-- A reduction of the active elements into vd.e[0], with the flags of its steps (R197). -/
def reduce (legal : Hart → Bool) (step : Hart → Nat → Nat → Nat × FFlags) (ok : BitVec 2) (km : BitVec 3) (vs2 src vd : BitVec 5) : M Unit := do
  let r := regs2 ok km vs2 src vd []
  vecIssue fun h => legal h && wholeStart h
  let h ← getHart
  if h.vst ≥ h.vln then vecEmpty r
  else
    let act := (List.range h.vln).filter (h.maskOn km)
    modHart fun x => x.markDirty r
    if anyBad h (operandRead ok src h) then trapReg 9 0
    match act.find? (h.elemBad vs2 h.ew) with
    | some i => trapReg 9 i
    | none =>
      noteLatent r h fun _ => operandRead ok src h ++ act.map fun i => (vs2, h.ew, i)
      let init := if ok = 0 then h.elem src h.ew 0 else (h.xr src).toNat % 2 ^ h.ew
      let res := act.foldl (fun (a : Nat × FFlags) i => let t := step h a.1 (h.elem vs2 h.ew i); (t.1, a.2 ||| t.2)) (init, 0)
      let srcs := h.vecSources r
      modHart fun x => (x.setElem vd h.ew 0 res.1).addFlags res.2
      vecDone r false [] srcs

/-- VREDSUM (R198). -/
def execVredsum (ok : BitVec 2) (km : BitVec 3) (vs2 src vd : BitVec 5) (s : State) : Out :=
  settle (reduce Hart.isInt (fun h a b => ((a + b) % 2 ^ h.ew, 0)) ok km vs2 src vd) s

/-- VREDMAX (R198). -/
def execVredmax (ok : BitVec 2) (km : BitVec 3) (vs2 src vd : BitVec 5) (s : State) : Out :=
  settle (reduce Hart.isInt (fun h a b => (vSignedMax h.ew a b, 0)) ok km vs2 src vd) s

/-- VREDMIN (R198). -/
def execVredmin (ok : BitVec 2) (km : BitVec 3) (vs2 src vd : BitVec 5) (s : State) : Out :=
  settle (reduce Hart.isInt (fun h a b => (vSignedMin h.ew a b, 0)) ok km vs2 src vd) s

/-- VREDMAXU (R198). -/
def execVredmaxu (ok : BitVec 2) (km : BitVec 3) (vs2 src vd : BitVec 5) (s : State) : Out :=
  settle (reduce Hart.isInt (fun _ a b => (max a b, 0)) ok km vs2 src vd) s

/-- VREDMINU (R198). -/
def execVredminu (ok : BitVec 2) (km : BitVec 3) (vs2 src vd : BitVec 5) (s : State) : Out :=
  settle (reduce Hart.isInt (fun _ a b => (min a b, 0)) ok km vs2 src vd) s

/-- VFREDSUM (R198). -/
def execVfredsum (ok : BitVec 2) (km : BitVec 3) (vs2 src vd : BitVec 5) (s : State) : Out :=
  settle (reduce floatRnd (fun h a b => h.round (addVal h.rnd (h.fval a) (h.fval b))) ok km vs2 src vd) s

/-- VFREDMAX (R198). -/
def execVfredmax (ok : BitVec 2) (km : BitVec 3) (vs2 src vd : BitVec 5) (s : State) : Out :=
  settle (reduce Hart.isFloat (fun h a b => minMaxBits h.fmt true a b) ok km vs2 src vd) s

/-- VFREDMIN (R198). -/
def execVfredmin (ok : BitVec 2) (km : BitVec 3) (vs2 src vd : BitVec 5) (s : State) : Out :=
  settle (reduce Hart.isFloat (fun h a b => minMaxBits h.fmt false a b) ok km vs2 src vd) s

/-- The segments of elements 0 to vl-1: each with its active elements (R199). -/
def segments (h : Hart) (km : BitVec 3) (ks1 : Nat) : List (List Nat) :=
  (List.range h.vln).foldl (fun (acc : List (List Nat)) i =>
    let acc := if i = 0 || (h.kr ks1).getLsbD i then acc ++ [[]] else acc
    if h.maskOn km i then acc.dropLast ++ [acc.getLast?.getD [] ++ [i]] else acc) []

/-- A segmented reduction: `first` starts a segment from its first active element, `none'` is an empty segment's result. -/
def segReduce (legal : Hart → Bool) (first : Hart → Nat → Nat × FFlags) (step : Hart → Nat → Nat → Nat × FFlags)
    (none' : Hart → Nat) (km : BitVec 3) (vs2 : BitVec 5) (ks1 : BitVec 3) (vd : BitVec 5) : M Unit := do
  let r : VRegs := { km := km, srcV := [vs2], srcK := [ks1.toNat], dstV := [vd] }
  vecIssue fun h => legal h && wholeStart h && vd != vs2
  let h ← getHart
  if h.vst ≥ h.vln then vecEmpty r
  else
    modHart fun x => x.markDirty r
    match ((List.range h.vln).filter (h.maskOn km)).find? (h.elemBad vs2 h.ew) with
    | some i => trapReg 9 i
    | none =>
      noteLatent r h fun _ => ((List.range h.vln).filter (h.maskOn km)).map fun i => (vs2, h.ew, i)
      let one (seg : List Nat) : Nat × FFlags :=
        match seg with
        | [] => (none' h, 0)
        | i :: rest => rest.foldl (fun (a : Nat × FFlags) i => let t := step h a.1 (h.elem vs2 h.ew i); (t.1, a.2 ||| t.2))
            (first h (h.elem vs2 h.ew i))
      let res := (segments h km ks1.toNat).map one
      let srcs := h.vecSources r
      modHart fun x => (res.zipIdx).foldl (fun (x : Hart) e => (x.setElem vd h.ew e.2 e.1.1).addFlags e.1.2) x
      vecDone r false [] srcs

/-- A float as the sole addend of a sum: its NaN canonical, IVO for a signalling one (R32). -/
def loneFloat (h : Hart) (b : Nat) : Nat × FFlags :=
  let v := h.fval b
  if v.isNan then (h.fmt.canon, sigFlag v) else (b, 0)

/-- VSEGSUM (R199). -/
def execVsegsum (km : BitVec 3) (vs2 : BitVec 5) (ks1 : BitVec 3) (vd : BitVec 5) (s : State) : Out :=
  settle (segReduce (fun h => h.isInt || floatRnd h) (fun h b => if h.isInt then (b, 0) else loneFloat h b)
    (fun h a b => if h.isInt then ((a + b) % 2 ^ h.ew, 0) else h.round (addVal h.rnd (h.fval a) (h.fval b)))
    (fun _ => 0) km vs2 ks1 vd) s
/-- VSEGMAX (R199). -/
def execVsegmax (km : BitVec 3) (vs2 : BitVec 5) (ks1 : BitVec 3) (vd : BitVec 5) (s : State) : Out :=
  settle (segReduce (fun h => h.isInt || h.isFloat) (fun h b => if h.isInt then (b, 0) else loneFloat h b)
    (fun h a b => if h.isInt then (vSignedMax h.ew a b, 0) else minMaxBits h.fmt true a b)
    (fun h => if h.isInt then 2 ^ (h.ew - 1) else h.fmt.infBits true) km vs2 ks1 vd) s

/-! ### Vector chute transfers (R200, R201) -/

/-- Element values of s bits packed p to an entry, zero bits after the last (R154, R200). -/
def packEntries (s : Nat) : Nat → List Nat → List ChEntry
  | 0, _ => []
  | k + 1, l =>
    if l.isEmpty then []
    else
      let p := 64 / s
      ⟨BitVec.ofNat 64 ((l.take p).foldr (fun e a => e + 2 ^ s * a) 0), false, .put⟩ :: packEntries s k (l.drop p)

/-- QPUTV (R200). A copy-fed chute traps whatever vl and vstart are, and a poisoned element leaves vstart and appends nothing: the spec
orders neither against R156 and R172 (log 108). -/
def execQputv (km : BitVec 3) (vs1 : BitVec 5) (q : BitVec 4) (s : State) : Out :=
  let r : VRegs := { km := km, srcV := [vs1] }
  settle (do
    vecIssue fun _ => true
    let h ← getHart
    let n := q.toNat
    if ((← getCrew).chute n).copyFed then trap 11 n
    if h.vst ≥ h.vln then vecEmpty r
    else
      waitTaint (h.vecSources r)
      let act := (idxRange h.vst h.vln).filter (h.maskOn km)
      match act.find? (h.elemBad vs1 h.ew) with
      | some i => trapReg 9 i
      | none =>
        let es := packEntries h.ew 2730 (act.map (h.elem vs1 h.ew))
        if ((← getCrew).chute n).free < es.length then stall (.chute n)
        noteLatent r h fun _ => act.map fun i => (vs1, h.ew, i)
        modCrew fun c => c.mapChute n fun x => x.append es
        vecDone r false [] []) s

/-- QGETV (R201). -/
def execQgetv (km : BitVec 3) (q : BitVec 4) (vd : BitVec 5) (s : State) : Out :=
  settle (vecRun { km := km, dstV := [vd] } 3 (q.setWidth 5) true (fun _ => true) (fun _ _ => []) (fun _ _ => true) (actMask km)
    fun b x i => x.setElem vd x.ew i (b x i)) s

end Sys2Proof.Machine
end

