-- ==== Sys2Proof/Machine/Launch.lean ====
section
/-! DEFINITION. Launch queues, kernels, and the dispatch and end of crews (21_queue R349 to R353, 22_kernel R365 to R377,
23_group R378 to R384). -/

namespace Sys2Proof.Machine

/-! ### Queue descriptors (R349, R353), as the number their 64 bytes make -/

def qdBase (d : Nat) : Nat := bits d 63 0
def qdTail (d : Nat) : Nat := bits d 95 64
def qdHead (d : Nat) : Nat := bits d 127 96
def qdLogn (d : Nat) : Nat := bits d 131 128
def qdPrio (d : Nat) : Nat := bits d 135 132
def qdN (d : Nat) : Bool := d.testBit 192

def State.qdesc (s : State) (q : UserQueue) : Nat := s.homeNat q.pa 64
def State.queueOf (s : State) (die num : Nat) : Option UserQueue := s.queues.find? fun q => q.die = die && q.num = num
def State.setQueue (s : State) (q : UserQueue) : State :=
  { s with queues := s.queues.map fun x => if x.die = q.die && x.num = q.num then q else x }
/-- N set or cleared at the descriptor's home. -/
def State.putN (s : State) (q : UserQueue) (n : Nat) : State := s.homeTake (q.pa + 24) 8 (putBits (s.homeNat (q.pa + 24) 8) 0 1 n)

/-- The launches of a queue that have not retired, taken since it was bound (R374). -/
def State.queueLaunches (s : State) (q : UserQueue) : List Launch :=
  s.launches.filter fun l => l.die = q.die && l.queue = q.num && decide (q.born ≤ l.lid)

/-- How the structures of a die translate for a context: in supervisor mode (R350, R367). -/
def State.dieReq (s : State) (die ctx : Nat) : Req := ⟨ctx, s.ctxWorld ctx, s.ctxRoot ctx, true, 8 * die, false⟩

/-- The dependence of a record whose word is `w`, as it stands when the record is taken (R374). -/
def State.dependence (s : State) (q : UserQueue) (k w : Nat) : State × Dep :=
  let open' := s.queueLaunches q
  match w % 4 with
  | 0 => (s, if w = 0 then .now else .failed)
  | 1 => (s, if w = 1 then .launches ((open'.filter fun l => (l.seq + 1) % 2 ^ 32 = k).map fun l => l.lid) else .failed)
  | 2 => (s, if w = 2 then .launches (open'.map fun l => l.lid) else .failed)
  | _ =>
    if bits w 5 2 ≠ 0 then (s, .failed)
    else
      let va := w / 64 * 64
      match s.locate { s.dieReq q.die q.ctx with sup := false } va .read with
      | (s, .ok (.local pa)) =>
        let v := s.brRec pa
        if inPool pa && !s.readRefused (s.ctxWorld q.ctx) pa 64 && brState v = 1 && brCtx v = q.ctx && brScope v ≥ 3 then
          (s, .phase va pa (brPhase v))
        else (s, .failed)
      | (s, .ok (.remote dev pa)) => (s, if dev = 255 || !inPool pa then .failed else .remote dev pa none)
      | (s, _) => (s, .failed)

/-- The ticket of a request that writes a launch's status word: the word above this number. -/
def statusTicket : Nat := 2 ^ 128
/-- The ticket of a request that reads the barrier record a launch waits on; the launch's number, above every hart's, stands in the place of
the hart. -/
def depTicket : Nat := 2 ^ 127
/-- A launch that waits on a record of another device asks for it; a request that cannot leave is answered by an error (R374). -/
def State.askDep (s : State) (l : Launch) : State :=
  match l.dep with
  | .remote dev pa _ =>
    if l.answer.isSome || s.requests.any (fun r => r.hart = l.lid + 512 && r.ticket = depTicket) then s
    else match s.sendRequest (l.lid + 512) depTicket l.ctx dev (.read pa 64) with
      | (s, .error _) => s
      | (s, .ok r) =>
        { s with launches := s.launches.map fun x => if x.lid = l.lid then { x with answer := some (r.getD (false, [])) } else x }
  | _ => s

/-- One record of the ring taken: a pending launch, and HEAD advanced (R350, R375); false when it cannot be read. -/
def State.takeRecord (s : State) (q : UserQueue) : State × Bool :=
  let d := s.qdesc q
  let k := qdHead d
  match State.hwRead (s.dieReq q.die q.ctx) 5 s ((qdBase d + 128 * (k % 2 ^ qdLogn d)) % 2 ^ 64) 128 [] with
  | (s, .error _) => (s, false)
  | (s, .ok b) =>
    let w (i : Nat) : Nat := leValue ((b.drop (8 * i)).take 8)
    let (s, dep) := s.dependence q k (w 1)
    let l : Launch := {
      lid := s.nextLid, die := q.die, queue := q.num, seq := k, ctx := q.ctx, prio := qdPrio d, desc := w 0, dep := dep,
      args := (List.range 8).map fun i => BitVec.ofNat 64 (w (2 + i)), statusVa := w 10, st := .pending, aentry := 0, eentry := 0,
      qcfg := 0, lanes := 1, scratch := 0, levels := [], places := [], done := 0, code := 0, cause := 0, crew := 0,
      readyAt := 0, readyClk := Vector.replicate 8 0, answer := none }
    ((({ s with launches := s.launches ++ [l], nextLid := s.nextLid + 1 }).askDep l).homeTake (q.pa + 12) 4 ((k + 1) % 2 ^ 32), true)

/-- Records HEAD to TAIL − 1 taken in ring order. -/
def State.takeRecords (q : UserQueue) : Nat → State → State
  | 0, s => s
  | n + 1, s =>
    let d := s.qdesc q
    if qdHead d = qdTail d then s
    else match s.takeRecord q with
      | (s, false) => s
      | (s, true) => State.takeRecords q n s

/-- A mapped queue is empty: HEAD = TAIL with no record in dispatch (R353). -/
def State.queueEmpty (s : State) (q : UserQueue) : Bool :=
  let d := s.qdesc q
  qdHead d = qdTail d && (s.queueLaunches q).isEmpty

/-- The service step: N taken with acquire at system scope, TAIL read, the records dispatched; a queue that was empty already stays so
since the same clock (R353). -/
def State.serviceQueue (s : State) (q : UserQueue) : State :=
  let since := if s.queueEmpty q then q.emptyAt else s.clocksOf q.die
  let s := (s.putN q 0).setQueue { q with due := false }
  let d := s.qdesc q
  let s := State.takeRecords q (min ((qdTail d + 2 ^ 32 - qdHead d) % 2 ^ 32) 4096) s
  s.setQueue { q with due := false, emptyAt := since }

/-- A protected world, by its number (R446, R462). -/
def isProtected (w : Nat) : Bool := 1 ≤ w && w ≤ 15
/-- A stream carries a world (R444). -/
def State.carries (s : State) (stream w : Nat) : Bool := s.streams.any fun x => x.num = stream && x.world = w
/-- The interface of a world's TDI refuses a host request: in ERROR every one, and in RUN all but those on its stream with T (R445). -/
def State.tdiBars (s : State) (w stream : Nat) (tbit : Bool) : Bool :=
  let tdi := (s.worldAt w).tdi
  isProtected w && (tdi = 3 || (tdi = 2 && !(tbit && s.carries stream w)))

/-- The contexts past free, from the records that memory lists (R332, R333). -/
def State.pastFree (s : State) : List Nat :=
  (s.mem.filter fun e => inCtxTab e.1 && (e.1 - Config.ctxTab) % 128 = 0 && e.2.toNat % 8 ≠ 0).map fun e => (e.1 - Config.ctxTab) / 128
/-- The contexts of a world past free. -/
def State.worldContexts (s : State) (w : Nat) : List Nat := s.pastFree.filter fun c => s.ctxWorld c = w

/-- The TDI of a world enters ERROR: its contexts receive QUIESCE (R445). -/
def State.tdiError (s : State) (w : Nat) : State :=
  let s := s.mapWorld w fun x => { x with tdi := 3 }
  { s with ctxCmds := s.ctxCmds ++ ((s.worldContexts w).filter fun c => s.ctxState c = 1).map fun c => (c, 2) }
/-- A host request that fails its integrity check is dropped, and the TDI of its stream enters ERROR (R444). -/
def State.hostCorrupt (s : State) (stream : Nat) : State :=
  (s.streams.filter fun x => x.num = stream && isProtected x.world).foldl (fun s x => s.tdiError x.world) s

/-- A message from the module to the host that answers no request of the module's own. -/
def State.toHost (s : State) (b : FlitBody) : State := { s with hostOut := ⟨0, 0, b, none, false⟩ :: s.hostOut }

/-- The host's access to a queue's notify register: a write sets N, a read returns 0 and sets nothing (R351); the interface
of a protected world may refuse either (R346, R445), a checkpoint that waits does (R426), and one that fails its integrity check is dropped
(R444). -/
def State.notify (s : State) (die queue stream : Nat) (acc : NotifyAccess) : State :=
  let reply (s : State) (ok : Bool) : State := if acc.isRead then s.toHost (.response ok (if ok then List.replicate 8 0 else [])) else s
  if !acc.intact then s.hostCorrupt stream
  else match s.queueOf die queue with
    | some q =>
      if s.stopping then reply s false
      else if s.tdiBars (s.ctxWorld q.ctx) stream acc.tbit then
        reply (s.logViolation ⟨q.ctx, 1, 5, 1, 0, true, 0, 4096 * (64 * die + queue)⟩) false
      else if acc.isRead then reply s true
      else ((s.putN q 1).setQueue { q with due := true }).count 48 1
    | none => reply s true
/-- QUEUE_NOTIFY (R351). -/
def execQueueNotify (die queue stream : Nat) (acc : NotifyAccess) (s : State) : Out := .next (s.notify die queue stream acc)

/-- QUEUE_SERVICE_STEP (R353). -/
def execQueueServiceStep (die queue : Nat) (s : State) : Out :=
  .next (match s.queueOf die queue with
    | some q => if q.mapped && (q.due || qdN (s.qdesc q)) then s.serviceQueue q else s
    | none => s)

/-- The last act of an unmapping: N taken; a queue whose N was 1 stays mapped and is served (R353). -/
def State.unmapQueue (s : State) (q : UserQueue) : State :=
  if qdN (s.qdesc q) then s.serviceQueue q else s.setQueue { q with mapped := false, due := false }

/-- The unmapped queue that is mapped first: N = 1, of a context that still lives, the highest PRIO, then the lowest number (R334,
R353). -/
def State.mapNext (s : State) (die : Nat) : Option UserQueue :=
  (s.queues.filter fun q => q.die = die && !q.mapped && (q.ctx = 0 || (1 ≤ s.ctxState q.ctx && s.ctxState q.ctx ≤ 3)) && qdN (s.qdesc q)).foldl (fun a q =>
    match a with
    | none => some q
    | some b =>
      let p := qdPrio (s.qdesc q)
      let r := qdPrio (s.qdesc b)
      if p > r || (p = r && q.num < b.num) then some q else some b) none

/-- The empty mapped queue of no higher PRIO that has been empty longest (R353). -/
def State.victimQueue (s : State) (die prio : Nat) : Option UserQueue :=
  (s.queues.filter fun q => q.die = die && q.mapped && s.queueEmpty q && decide (qdPrio (s.qdesc q) ≤ prio)).foldl (fun a q =>
    match a with
    | none => some q
    | some b => if q.emptyAt < b.emptyAt || (q.emptyAt = b.emptyAt && q.num < b.num) then some q else some b) none

/-- QUEUE_MAP: the queue takes a slot, and the service step follows (R353). -/
def execQueueMap (die queue : Nat) (s : State) : Out :=
  .next (match s.mapNext die with
    | none => s
    | some q =>
      if q.num ≠ queue then s
      else if (s.queues.filter fun x => x.die = die && x.mapped).length < 16 then s.serviceQueue { q with mapped := true }
      else match s.victimQueue die (qdPrio (s.qdesc q)) with
        | none => s
        | some v =>
          let t := s.unmapQueue v
          if (t.queueOf die v.num).any fun x => x.mapped then t else t.serviceQueue { q with mapped := true })

/-- The slot of a mapped queue is wanted: no slot is free, and it is the one that the queue mapped next would take (R353). -/
def State.slotWanted (s : State) (q : UserQueue) : Bool :=
  match s.mapNext q.die with
  | none => false
  | some n =>
    decide (16 ≤ (s.queues.filter fun x => x.die = q.die && x.mapped).length) && s.victimQueue q.die (qdPrio (s.qdesc n)) == some q
/-- QUEUE_UNMAP: an empty queue whose slot is wanted, or empty for 65,536 clocks (R353). -/
def execQueueUnmap (die queue : Nat) (s : State) : Out :=
  .next (match s.queueOf die queue with
    | none => s
    | some q =>
      if q.mapped && s.queueEmpty q && (s.slotWanted q || decide (q.emptyAt + 65536 ≤ s.clocksOf die)) then s.unmapQueue q else s)

/-! ### Kernels (R365 to R367, R378) -/

/-- A kernel descriptor is in order (R365, R367), from its 64 bytes as a number and its address. -/
def kernelOk (va d : Nat) : Bool :=
  va % 8 = 0 && bits d 511 432 = 0 && bits d 431 416 = 1 && bits d 415 384 ≤ 33554432 && bits d 383 240 = 0 && bits d 223 213 = 0 &&
  1 ≤ bits d 212 208 && bits d 212 208 ≤ 16 && bits d 207 195 = 0 && bits d 191 128 % 8 = 0 && bits d 127 64 % 2 = 0 && bits d 63 0 % 2 = 0
/-- A loop table entry is in order (R366, R367). -/
def loopOk (e : Nat) : Bool := bits e 63 18 = 0 && bits e 17 16 ≠ 3

/-- The product of the trips of the levels of a kind. -/
def tripsOf (kind : Nat) (ls : List Level) : Nat := (ls.filter fun l => l.kind = kind).foldl (fun a l => a * l.trip) 1
/-- The dies of a launch's partition, ascending (R378). -/
def State.partDies (s : State) (die : Nat) : List Nat := (List.range 8).filter fun d => (s.dieAt d).decode = (s.dieAt die).decode
/-- The combined index of the spatial-over-dies levels that land on the k-th of nd dies: how many (R378). -/
def diesOn (total nd k : Nat) : Nat := (total + nd - 1 - k) / nd
/-- The placements of each die of the partition, as it is when the launch becomes ready (R378). -/
def State.placements (s : State) (die : Nat) (ls : List Level) : List (Nat × Nat × Nat) :=
  let cores := tripsOf 1 ls
  if ls.any fun l => l.kind = 0 then
    let pd := s.partDies die
    pd.zipIdx.map fun (d, k) => (d, 0, diesOn (tripsOf 0 ls) pd.length k * cores)
  else [(die, 0, cores)]

/-- The indices of the levels of a kind for a number in lexicographic order, the innermost fastest: 16 bits a level, 0 for the
others (R74, R75). -/
def indexWord (kind n : Nat) (ls : List Level) : Nat :=
  (ls.zipIdx.reverse.foldl (fun (a : Nat × Nat) (l : Level × Nat) =>
    if l.1.kind = kind then (a.1 / l.1.trip, a.2 + a.1 % l.1.trip * 2 ^ (16 * l.2)) else a) (n, 0)).2

/-- spidx of placement n of a die: numbered by its core indices, then by its die index (R75, R378). -/
def Launch.spidxOf (l : Launch) (die n : Nat) : Nat :=
  if l.levels.any fun x => x.kind = 0 then
    let pd := l.places.map Prod.fst
    let k := (pd.idxOf? die).getD 0
    let on := diesOn (tripsOf 0 l.levels) pd.length k
    indexWord 0 (k + n % on * pd.length) l.levels + indexWord 1 (n / on) l.levels
  else indexWord 1 n l.levels

def State.launchAt (s : State) (lid : Nat) : Option Launch := s.launches.find? fun l => l.lid = lid
def State.setLaunch (s : State) (l : Launch) : State := { s with launches := s.launches.map fun x => if x.lid = l.lid then l else x }

/-! ### Retirement (R373, R377) -/

/-- The status word of a launch (R373). -/
def Launch.status (l : Launch) : Nat := l.done % 2 ^ 32 * 2 ^ 32 + l.crew % 2 ^ 8 * 2 ^ 16 + l.cause % 2 ^ 8 * 2 ^ 8 + l.code

/-- The status word written as a release at system scope, or its failure logged (R373). -/
def State.writeStatus (s : State) (l : Launch) : State :=
  let s := s.performWhere (fun _ => true) 4
  let fail (s : State) (c : Nat) : State := s.logViolation ⟨l.ctx, 6, 7, c, 0, false, 0, l.statusVa⟩
  let send (s : State) (dev pa : Nat) (b : List Byte) : State :=
    match s.sendRequest l.statusVa (statusTicket + l.status) l.ctx dev (.write pa b) with
    | (s, .ok (some (false, _))) => fail s 1
    | (s, _) => s
  let bytes := leBytesOf 8 l.status
  let rq := s.dieReq l.die l.ctx
  if l.statusVa = 0 then s
  else match s.locate rq l.statusVa .write with
    | (s, .error c) => fail s c
    | (s, .ok (.local _)) =>
      match State.hwWrite rq 3 s l.statusVa bytes with
      | (s, true) => s
      | (s, false) => fail s 1
    | (s, .ok (.tolerant pa odd)) => if odd || s.writeRefused rq.world pa 4 then fail (s.noteSpent rq.world pa 4) 1 else s.writeBytes .home pa (tolPack bytes) 4
    | (s, .ok (.remote dev pa)) => send s dev pa bytes
    | (s, .ok (.remoteTol dev pa odd)) => if odd then fail s 1 else send s dev pa (tolPack bytes)
    | (s, .ok (.chute _)) => fail s 1

/-- A launch gone: the scratchpad bytes of every core released, its queue served again (R353, R368). -/
def State.dropLaunch (s : State) (l : Launch) : State :=
  { s with launches := s.launches.filter (fun x => x.lid ≠ l.lid),
           cores := s.cores.map (fun c => if c.scratchOwner = some l.lid then { c with scratchOwner := none } else c),
           queues := s.queues.map fun q =>
             if q.die = l.die && q.num = l.queue && q.born ≤ l.lid then { q with due := true, emptyAt := s.clocksOf q.die } else q }

/-- A launch retired with its status (R373, R375). -/
def State.retireLaunch (s : State) (l : Launch) : State := ((s.writeStatus l).dropLaunch l).count 49 1

/-! ### Readiness (R374, R375) -/

/-- A dependence as it stands: met, failed, or still open (R374). -/
def State.depMet (s : State) (ctx : Nat) : Dep → Option Bool
  | .now => some true
  | .failed => some false
  | .launches l => if l.any fun i => (s.launchAt i).isSome then none else some true
  | .phase _ pa p =>
    match brResult (s.brRec pa) p (brCtx (s.brRec pa) == ctx) with
    | none => none
    | some c => some (c = 0 || c = 9 || c = 10 || c = 12)
  | .remote _ _ _ => none
/-- The dependence of a launch after the answer of a peer that holds its barrier record: the phase that was open when the record was first
read is waited for by reading it again (R374). -/
def State.depAnswer (s : State) (l : Launch) : State × Launch :=
  let again (s : State) (l : Launch) : State × Launch :=
    let l := { l with answer := none }
    let s := (s.setLaunch l).askDep l
    (s, (s.launchAt l.lid).getD l)
  match l.dep, l.answer with
  | .remote _ _ _, none => (s.askDep l, l)
  | .remote _ _ _, some (false, _) => (s, { l with dep := .failed })
  | .remote dev pa none, some (true, d) =>
    let v := leValue d
    if brState v = 1 && brScope v ≥ 3 then again s { l with dep := .remote dev pa (some (brPhase v)) } else (s, { l with dep := .failed })
  | .remote _ _ (some p), some (true, d) =>
    match brResult (leValue d) p true with
    | none => again s l
    | some c => (s, { l with dep := if c = 0 || c = 9 || c = 10 || c = 12 then .launches [] else .failed })
  | _, _ => (s, l)

/-- The descriptor and the loop table read: the launch ready, or none when the descriptor fails (R367). -/
def State.readKernel (s : State) (l : Launch) : State × Option Launch :=
  let rq := s.dieReq l.die l.ctx
  match s.hwNat rq l.desc 64 with
  | (s, .error _) => (s, none)
  | (s, .ok d) =>
    if !kernelOk l.desc d then (s, none)
    else
      let n := bits d 194 192 + 1
      if n > 4 then (s, none)
      else match s.hwNat rq (bits d 191 128) (8 * n) with
        | (s, .error _) => (s, none)
        | (s, .ok t) =>
          let es := (List.range n).map fun i => bits t (64 * i + 63) (64 * i)
          if !es.all loopOk then (s, none)
          else
            let ls : List Level := es.map fun e => ⟨bits e 17 16, bits e 15 0 + 1⟩
            (s, some { l with st := .ready, aentry := BitVec.ofNat 64 (bits d 63 0), eentry := BitVec.ofNat 64 (bits d 127 64),
                              qcfg := bits d 239 224, lanes := bits d 212 208, scratch := bits d 415 384, levels := ls,
                              places := s.placements l.die ls, readyAt := s.now, readyClk := Vector.ofFn fun d => s.clocksOf d.val })

/-- LAUNCH_READY: a pending launch whose dependence is met or has failed moves on (R375). -/
def execLaunchReady (lid : Nat) (s : State) : Out :=
  .next (match s.launchAt lid with
    | none => s
    | some l =>
      if l.st ≠ .pending then s
      else
        let (s, l) := s.depAnswer l
        match s.depMet l.ctx l.dep with
        | none => s
        | some false => s.retireLaunch { l with code := 3 }
        | some true =>
          match s.readKernel l with
          | (s, none) => s.retireLaunch { l with code := 2 }
          | (s, some l) => s.setLaunch l)

/-! ### Waiting items and where they go (R379, R383) -/

/-- The priority of a launch: its queue's, while that queue is bound (R349, R383). -/
def State.prioOf (s : State) (l : Launch) : Nat :=
  match s.queueOf l.die l.queue with
  | some q => if q.born ≤ l.lid then qdPrio (s.qdesc q) else l.prio
  | none => l.prio
def State.parkedAt (s : State) (pid : Nat) : Option Parked := s.parked.find? fun p => p.pid = pid
/-- The launch of an item. -/
def State.itemLaunch (s : State) : WaitItem → Option Launch
  | .launch lid => s.launchAt lid
  | .parked pid => (s.parkedAt pid).bind fun p => s.launchAt p.resident.lid
/-- The placements of a launch not yet dispatched on a die: the next one, and how many. -/
def Launch.waitingOn (l : Launch) (die : Nat) : Nat × Nat :=
  match l.places.find? fun p => p.1 = die with
  | some p => (p.2.1, p.2.2 - p.2.1)
  | none => (0, 0)

/-- What waits on a die: the placements of ready and running launches, and pre-empted crews, of live contexts, unless dispatch on the die is stopped
(R333, R383, R463). -/
def State.waiting (s : State) (die : Nat) : List WaitItem :=
  let live (ctx : Nat) : Bool := (ctx = 0 || s.ctxState ctx = 1) && !(s.dieAt die).hold
  ((s.launches.filter fun l => (l.st = .ready || l.st = .running) && live l.ctx && (l.waitingOn die).2 ≠ 0).map fun l => .launch l.lid) ++
  ((s.parked.filter fun p => p.die = die && live p.resident.ctx).map fun p => .parked p.pid)

/-- The order of R383 as a key, the least first. -/
def State.itemKey (s : State) (die : Nat) (w : WaitItem) : List Nat :=
  match s.itemLaunch w, w with
  | none, _ => [16]
  | some l, .launch _ => [15 - s.prioOf l, 1, l.readyAt, l.queue, (l.waitingOn die).1]
  | some l, .parked pid => [15 - s.prioOf l, 0, ((s.parkedAt pid).map Parked.at').getD 0, l.queue,
      ((s.parkedAt pid).map fun p => p.resident.place).getD 0]
/-- The order of two keys. -/
def keyLess : List Nat → List Nat → Bool
  | [], _ => false
  | _, [] => false
  | a :: r, b :: t => a < b || (a = b && keyLess r t)

/-- The crews of a core that are free; those resident (R379). -/
def coreCrews (c : Nat) : List Nat := [0, 1, 2, 3].map fun i => 4 * c + i
def State.crewFree (s : State) (n : Nat) : Bool := (s.crewAt n).resident.isNone
/-- The groups claimed on a core (R379). -/
def State.claimed (s : State) (c : Nat) : Nat :=
  ((coreCrews c).map fun n => match (s.crewAt n).resident with
    | none => 0
    | some r => max (s.hartAt (execHart n)).lanes.length (((s.launchAt r.lid).map Launch.lanes).getD 0)).sum
/-- The crews of a launch resident on a core. -/
def State.crewsOf (s : State) (c lid : Nat) : Nat :=
  ((coreCrews c).filter fun n => match (s.crewAt n).resident with | some r => r.lid = lid | none => false).length
/-- The free lane groups of a world on a core. -/
def State.freeLanes (s : State) (c world : Nat) : Nat :=
  ((List.range 16).filter fun g => let l := (s.coreAt c).lanes[Fin.ofNat 16 g]; l.owner.isNone && l.world == world).length
/-- LGCOUNT in a parked crew's save area (R407); 0 when it cannot be read. -/
def State.savedLanes (s : State) (p : Parked) : Nat :=
  match (s.hwNat (s.dieReq p.die p.resident.ctx) p.msave.toNat 8).2 with
  | .ok h => bits h 20 16
  | .error _ => 0

/-- An item may stand on a core, leaving aside whether a crew of it is free (R368, R379, R383). -/
def State.mayStand (s : State) (w : WaitItem) (l : Launch) (c : Nat) : Bool :=
  let k := s.coreAt c
  k.inService && (l.scratch = 0 || k.scratchOwner.isNone || k.scratchOwner = some l.lid) &&
  (match w with
   | .launch _ => true
   | .parked pid => match s.parkedAt pid with
     | none => false
     | some p => l.scratch = 0 || p.core = c)
/-- A core is eligible for an item (R379, R383). -/
def State.eligible (s : State) (w : WaitItem) (l : Launch) (c : Nat) : Bool :=
  s.mayStand w l c && (coreCrews c).any s.crewFree &&
  (match w with
   | .launch _ => true
   | .parked pid => match s.parkedAt pid with
     | none => false
     | some p => decide (s.savedLanes p ≤ s.freeLanes c (s.ctxWorld l.ctx)))

/-- The crew an item gets: roomy cores first, then the fewest crews of its launch, then the lowest core; on it the lowest free
crew (R379, R383). -/
def State.chooseCrew (s : State) (die : Nat) (w : WaitItem) : Option Nat :=
  match s.itemLaunch w with
  | none => none
  | some l =>
    let key (c : Nat) : List Nat := [if l.lanes + s.claimed c ≤ 16 then 0 else 1, s.crewsOf c l.lid, c]
    let best := (((List.range 8).map fun i => 8 * die + i).filter (s.eligible w l)).foldl (fun a c =>
      match a with
      | none => some c
      | some b => if keyLess (key c) (key b) then some c else some b) none
    best.bind fun c => (coreCrews c).find? s.crewFree

/-- The item served next on a die: the first in the order of R383 that can be placed. -/
def State.bestItem (s : State) (die : Nat) : Option (WaitItem × Nat) :=
  (s.waiting die).foldl (fun a w =>
    match s.chooseCrew die w, a with
    | none, a => a
    | some n, none => some (w, n)
    | some n, some b => if keyLess (s.itemKey die w) (s.itemKey die b.1) then some (w, n) else some b) none

/-! ### Dispatch (R68, R369, R381, R382) -/

/-- sxlat of a context (R336). -/
def State.sxlatOf (s : State) (ctx : Nat) : Word := BitVec.ofNat 64 (ctx * 2 ^ 48 + s.ctxWorld ctx * 2 ^ 40 + s.ctxRoot ctx)

/-- The entry state of a hart (R369); `role` 0 is the access hart. No pending bit is set: a timer that has come is taken back, and a
doorbell that stands is not pending for the hart (log 115). -/
def State.entryHart (s : State) (l : Launch) (die place h : Nat) (x : Hart) : Hart :=
  let role := h % 2
  let top := (Config.stackTop l.lid die place role) &&& ~~~ 63#64
  let regs : Vector Word 32 := Vector.ofFn fun i =>
    if i.val = 1 then endAddress else if i.val = 2 then top
    else if 10 ≤ i.val && i.val < 18 then l.args.getD (i.val - 10) 0 else 0
  { x with x := regs, pc := if role = 0 then l.aentry else l.eentry, sup := false, fcsr := 0, vstart := 0, vl := 0, vtype := 0,
           lgquota := BitVec.ofNat 5 (s.ctxField l.ctx 196 192), vdirty := 0, kdirty := 0, vstate := 3, attncfg := 0, cpbar := 0,
           sstatus := 0, stvec := (Config.trapEntry l.ctx) &&& ~~~ 3#64, sepc := 0, scause := 0, stval := 0,
           sscratch := Config.trapScratch l.ctx h, sxlat := s.sxlatOf l.ctx, violog := BitVec.ofNat 64 (s.ctxLog l.ctx / 64 * 64),
           cycleBase := s.clocksOf die, cycleKept := 0, instret := 0, v := Vector.replicate 32 0, vpoison := Vector.replicate 32 0,
           k := Vector.replicate 8 0, taintX := Vector.replicate 32 noTaint, taintV := Vector.replicate 32 noTaint,
           taintK := Vector.replicate 8 noTaint, taintVl := noTaint, tags := [], issued := 0, seen := [], chain := Chain.empty,
           copySeq := 0, copies := [], doneWords := [], keptFail := none, keptLast := none, ended := false, left := false,
           window := false, stalled := none, run := none, remote := [], timecmp := if s.timerPending h then BitVec.allOnes 64 else x.timecmp,
           bellMuted := if s.doorbell then some s.bells else none }

/-- The scratchpad bytes of a launch zeroed on a core before its first crew there (R368). -/
def State.assignScratch (s : State) (c : Nat) (l : Launch) : State :=
  if l.scratch = 0 || (s.coreAt c).scratchOwner = some l.lid then s
  else
    let lo := scratchPa c 0
    let hi := lo + l.scratch
    ({ s with mem := s.mem.filter (fun e => !(decide (lo ≤ e.1) && decide (e.1 < hi))),
              poison := s.poison.filter (fun e => !(decide (lo ≤ 64 * e.1) && decide (64 * e.1 + 64 ≤ hi))),
              writes := s.writes.filter fun w => !(decide (lo ≤ w.pa) && decide (w.pa + w.old.length ≤ hi)) }).mapCore c fun k =>
      { k with scratchOwner := some l.lid }

/-- The number of the launch's group on a die, formed at its first placement there (R381, R382). -/
def State.formGroup (s : State) (l : Launch) (die : Nat) : State × Nat :=
  match s.groups.find? fun g => g.lid = l.lid && g.die = die with
  | some g => (s, g.gseq)
  | none =>
    ({ s with groups := s.groups ++ [⟨s.nextGseq, die, l.lid, l.ctx, none, none, none, [], [], []⟩],
              nextGseq := (s.nextGseq + 1) % 2 ^ 32 }, s.nextGseq)

/-- RES of a context moved by one; a quiescing context whose RES reaches 0 is quiesced (R332, R333). -/
def State.moveRes (s : State) (ctx : Nat) (up : Bool) : State :=
  if ctx = 0 then s
  else
    let s := s.ctxPut ctx 31 16 (if up then s.ctxField ctx 31 16 + 1 else s.ctxField ctx 31 16 - 1)
    if !up && s.ctxState ctx = 2 && s.ctxField ctx 31 16 = 0 then s.ctxPut ctx 2 0 3 else s

/-- The telemetry counters of a crew zeroed when a context of another world is dispatched on it (28_worlds R456). -/
def State.claimCounters (s : State) (n w : Nat) : State :=
  if (s.crewAt n).world = w then s
  else
    ({ s with telemetry := s.telemetry.filter fun e => !(decide (crewItem n 0 ≤ e.1) && decide (e.1 < crewItem n 64)) }).mapCrew n fun c =>
      { c with world := w }
/-- The clocks of a residence added to its crew's counter (28_worlds R456). -/
def State.countResidence (s : State) (n : Nat) : State := s.count (crewItem n 0) (s.clocksOf (n / 32) - (s.crewAt n).since)

/-- The next placement of a launch on a die starts on a crew (R369, R379); a launch that depended on another, or on a barrier's phase, starts
with an acquire (R374, R377). -/
def State.dispatch (s : State) (l : Launch) (die n : Nat) : State :=
  let place := (l.waitingOn die).1
  let s := (s.assignScratch (n / 4) l).claimCounters n (s.ctxWorld l.ctx)
  let (s, gseq) := s.formGroup l die
  let s := (s.mapHart (2 * n) (s.entryHart l die place (2 * n))).mapHart (2 * n + 1) (s.entryHart l die place (2 * n + 1))
  let s := s.mapCrew n fun c =>
    { c with resident := some ⟨l.ctx, l.lid, place, 0⟩,
             launchid := BitVec.ofNat 64 (l.die * 2 ^ 40 + l.queue * 2 ^ 32 + l.seq), groupid := BitVec.ofNat 64 (die * 2 ^ 32 + gseq),
             spidx := BitVec.ofNat 64 (l.spidxOf die place), tidx := BitVec.ofNat 64 (indexWord 2 0 l.levels),
             msave := ((Config.saveArea l.lid die place) ||| 0xFF00_0000_0000_0000#64) &&& ~~~ 0xFFF#64,
             chutes := Vector.ofFn fun (q : Fin 16) => ⟨l.qcfg.testBit q, [], 0, [], 0, none⟩,
             cursors := Vector.replicate 8 Cursor.free, lease := .none, leaseWait := false, revoked := false, mqueue := [],
             preempt := false, preemptBy := none, ending := false, abandoned := false, since := s.clocksOf die }
  let s := s.setLaunch { l with st := .running, places := l.places.map fun p => if p.1 = die then (p.1, p.2.1 + 1, p.2.2) else p }
  let s := s.moveRes l.ctx true
  if l.dep = .now then s else s.catchUp (.core (n / 4))

/-- PLACEMENT_DISPATCH: a launch's next placement on a die, when the order of R383 serves it (R379). -/
def execPlacementDispatch (lid die : Nat) (s : State) : Out :=
  .next (match s.bestItem (die % 8) with
    | some (.launch i, n) =>
      if i ≠ lid then s
      else match s.launchAt lid with
        | some l => s.dispatch l (die % 8) n
        | none => s
    | _ => s)

/-! ### The course of a placement (R371, R376) -/

/-- Both harts of a crew have ended their body. -/
def State.bothEnded (s : State) (n : Nat) : Bool :=
  let a := s.hartAt (2 * n)
  let e := s.hartAt (2 * n + 1)
  a.ended && e.ended && !a.left && !e.left
/-- The iterations of a placement (R371). -/
def Launch.iterations (l : Launch) : Nat := tripsOf 2 l.levels

/-- TEMPORAL_REDISPATCH: the next iteration of a placement: only pc and tidx change (R371). -/
def execTemporalRedispatch (crew : Nat) (s : State) : Out :=
  let n := crew % 256
  .next (match (s.crewAt n).resident with
    | none => s
    | some r =>
      match s.launchAt r.lid with
      | none => s
      | some l =>
        if s.bothEnded n && !(s.crewAt n).ending && !(s.crewAt n).abandoned && r.iter + 1 < l.iterations then
          let s := s.mapCrew n fun c => { c with resident := some { r with iter := r.iter + 1 },
                                                 tidx := BitVec.ofNat 64 (indexWord 2 (r.iter + 1) l.levels) }
          (s.mapHart (2 * n) fun x => { x with pc := l.aentry, ended := false }).mapHart (2 * n + 1) fun x =>
            { x with pc := l.eentry, ended := false }
        else s)

/-- A command into a chute cancelled: no token; a record it is attached to is detached with FAIL (R376). -/
def State.cancelCopies (s : State) (h : Nat) : State :=
  let gone := (s.hartAt h).copies.filter fun c => c.q.isSome
  let s := gone.foldl (fun s c => (s.dropAnswers h c).copyDetach c.attach c.bytes true) s
  s.mapHart h fun x => { x with copies := x.copies.filter fun c => c.q.isNone }

/-- The lane groups of an execute hart released (R68, R72). -/
def State.releaseLanes (s : State) (h : Nat) : State :=
  (s.mapCore (coreOf h) fun c =>
    { c with lanes := c.lanes.map fun g => if g.owner = some h then { g with owner := none } else g }).mapHart h fun x => { x with lanes := [] }

/-- Both harts of a crew stopped: what they were doing is discarded (R376). -/
def State.stopHarts (s : State) (n : Nat) : State :=
  let stop (x : Hart) : Hart := { x with ended := true, left := false, stalled := none, run := none, window := false }
  (((s.withdrawPage (2 * n)).withdrawPage (2 * n + 1)).mapHart (2 * n) stop).mapHart (2 * n + 1) stop

/-- The first steps of a crew's end: it stops, the matrix queue drains, chute copies are cancelled, the chain and the
subscriptions go (R376). -/
def State.beginEnd (s : State) (n : Nat) (r : Resident) : State :=
  let s := s.mapCrew n fun c => { c with ending := true, preempt := false, preemptBy := none }
  let s := s.stopHarts n
  let s := (s.leaseRelease n).cancelCopies (2 * n)
  let s := s.mapHart (2 * n + 1) fun x => { x with chain := { x.chain with phase := 0 } }
  s.dropSubs fun u => u.lid = r.lid && u.place = r.place && dieOf u.hart = n / 32

/-- A group ended: its binding released, its domain gone (R376, R382). -/
def State.endGroup (s : State) (g : Group) : State :=
  let s := (s.dropSubs fun u => u.gseq = g.gseq).releaseMb g.gseq
  { s with groups := s.groups.filter fun x => x.gseq ≠ g.gseq }

/-- A crew of a launch is resident or pre-empted, on a die if one is given. -/
def State.crewLeft (s : State) (lid : Nat) (die : Option Nat) : Bool :=
  (s.crews.toList.zipIdx.any fun (c, n) => (match c.resident with | some r => r.lid = lid | none => false) && (die.isNone || die = some (n / 32))) ||
  s.parked.any fun p => p.resident.lid = lid && (die.isNone || die = some p.die)

/-- The groups of a launch whose last crew has ended, and the launch itself once all have (R375, R376, R382). -/
def State.settleLaunch (s : State) (lid : Nat) : State :=
  match s.launchAt lid with
  | none => s
  | some l =>
    let fin (die : Nat) : Bool := !s.crewLeft lid (some die) && (l.st = .ending || (l.waitingOn die).2 = 0)
    let s := (s.groups.filter fun g => g.lid = lid && fin g.die).foldl (fun s g => s.endGroup g) s
    if !s.crewLeft lid none && (l.st = .ending || l.places.all fun p => p.2.1 ≥ p.2.2) then s.retireLaunch l else s

/-- The last steps of a crew's end, once its commands are complete (R376). -/
def State.finishEnd (s : State) (n : Nat) (r : Resident) : State :=
  let s := (s.performTags (2 * n) fun _ => true).performTags (2 * n + 1) fun _ => true
  let s := s.performWhere (fun w => match w.who with
    | .hart h _ => crewOf h == n
    | .engine h _ _ => crewOf h == n
    | _ => false) 4
  let s := (s.releaseLanes (2 * n + 1)).countResidence n
  let bad := (s.crewAt n).abandoned
  let s := s.mapCrew n fun c =>
    { c with chutes := c.chutes.map (fun q => ⟨q.copyFed, [], 0, [], 0, none⟩), cursors := Vector.replicate 8 Cursor.free,
             resident := none, ending := false, abandoned := false }
  let s := s.moveRes r.ctx false
  let s := match s.launchAt r.lid with
    | some l => if bad then s else s.setLaunch { l with done := l.done + 1 }
    | none => s
  s.settleLaunch r.lid

/-- The placement of a resident crew is over: both harts have ended the last iteration (R371, R376). -/
def State.placementOver (s : State) (n : Nat) (r : Resident) : Bool :=
  s.bothEnded n && (match s.launchAt r.lid with | some l => r.iter + 1 ≥ l.iterations | none => true)
/-- An access of a crew's harts is outstanding at another device (R376). -/
def State.crewAsks (s : State) (n : Nat) : Bool := s.requests.any fun r => r.ticket < depTicket && crewOf r.hart = n

/-- CREW_END: a crew whose placement is over or whose launch is abandoned releases its resources; it waits while a command of
it is still running or an access of it is not performed at another device (R376). -/
def execCrewEnd (crew : Nat) (s : State) : Out :=
  let n := crew % 256
  .next (match (s.crewAt n).resident with
    | none => s
    | some r =>
      let c := s.crewAt n
      if !(c.ending || c.abandoned || s.placementOver n r) then s
      else
        let s := if c.ending then s else s.beginEnd n r
        if (s.hartAt (2 * n)).copies.isEmpty && !s.crewAsks n then s.finishEnd n r else s)

/-- A crew stopped for the end of its launch (R376). -/
def State.stopCrew (s : State) (n : Nat) : State :=
  (s.mapCrew n fun c => { c with abandoned := true, preempt := false, preemptBy := none }).stopHarts n

/-- A launch abandoned: CODE 1, every resident crew of it stopped, but for one whose placement has ended; a pre-empted one is stopped when it
has been restored (R373, R375, R376, R409). -/
def State.abandon (s : State) (l : Launch) (crew cause : Nat) : State :=
  let s := s.setLaunch { l with st := .ending, code := 1, cause := cause, crew := crew % 256 }
  let mine (n : Nat) : Bool := match (s.crewAt n).resident with
    | some r => r.lid = l.lid && !(s.crewAt n).ending && !s.placementOver n r
    | none => false
  (((List.range 256).filter mine).foldl State.stopCrew s).settleLaunch l.lid

/-- LAUNCH_ABANDON: the runtime abandons a crew after a trap: one of its harts is in supervisor mode (R375). -/
def execLaunchAbandon (crew : Nat) (s : State) : Out :=
  let n := crew % 256
  .next (match (s.crewAt n).resident with
    | none => s
    | some r =>
      match s.launchAt r.lid with
      | none => s
      | some l =>
        let a := s.hartAt (2 * n)
        let e := s.hartAt (2 * n + 1)
        if l.st ≠ .running || (s.crewAt n).ending then s
        else if a.sup then s.abandon l n (a.scause.toNat % 2 ^ 8)
        else if e.sup then s.abandon l n (e.scause.toNat % 2 ^ 8)
        else s)

/-! ### Pre-emption requests (R384) -/

/-- SLICE in clocks (R384). -/
def State.sliceClocks (s : State) : Nat := 2 ^ s.sliceLog
/-- A request stands on behalf of an item, of a launch's for its placement `k` (R384). -/
def State.asked (s : State) (die : Nat) (w : WaitItem) (k : Nat) : Bool :=
  (List.range 32).any fun i => (s.crewAt (32 * die + i)).preempt && (s.crewAt (32 * die + i)).preemptBy = some (w, k)
/-- The first of an item's waiting placements on whose behalf no request stands; a die has 32 crews, so 33 placements hold one. -/
def State.unasked (s : State) (die : Nat) (w : WaitItem) : Option Nat :=
  match w, s.itemLaunch w with
  | .launch _, some l => ((List.range (min (l.waitingOn die).2 33)).map fun i => (l.waitingOn die).1 + i).find? fun k => !s.asked die w k
  | _, _ => if s.asked die w 0 then none else some 0
/-- The waiting placement of an item that has no eligible crew, for which a request may be made (R384). -/
def State.mayRequest (s : State) (die : Nat) (w : WaitItem) : Option Nat :=
  if (s.waiting die).contains w && (s.chooseCrew die w).isNone then s.unasked die w else none

/-- The crews that may be asked to leave for an item, with their priorities (R384). -/
def State.victims (s : State) (die : Nat) (w : WaitItem) (l : Launch) : List (Nat × Nat) :=
  (((List.range 32).map fun i => 32 * die + i).filter fun n =>
    let c := s.crewAt n
    match c.resident with
    | none => false
    | some r => r.lid ≠ l.lid && !c.ending && !c.abandoned && !c.preempt && s.mayStand w l (n / 4)).map fun n =>
    (n, ((((s.crewAt n).resident.bind fun r => s.launchAt r.lid).map s.prioOf).getD 0))

/-- The victim of lowest priority below the item's, the most recently dispatched or resumed (R384). -/
def State.lowVictim (s : State) (prio : Nat) (v : List (Nat × Nat)) : Option Nat :=
  ((v.filter fun x => x.2 < prio).foldl (fun (a : Option (Nat × Nat)) x =>
    match a with
    | none => some x
    | some b =>
      if x.2 < b.2 || (x.2 = b.2 && (s.crewAt x.1).since > (s.crewAt b.1).since) then some x else some b) none).map Prod.fst
/-- The victim of equal priority that has run longest, at least SLICE clocks (R384). -/
def State.equalVictim (s : State) (die prio : Nat) (v : List (Nat × Nat)) : Option Nat :=
  ((v.filter fun x => x.2 = prio && decide ((s.crewAt x.1).since + s.sliceClocks ≤ s.clocksOf die)).foldl (fun (a : Option (Nat × Nat)) x =>
    match a with
    | none => some x
    | some b => if (s.crewAt x.1).since < (s.crewAt b.1).since then some x else some b) none).map Prod.fst

/-- A request sent to a crew (R384). -/
def State.request (s : State) (n : Nat) (w : Option (WaitItem × Nat)) : State :=
  s.mapCrew n fun c => { c with preempt := true, preemptBy := w }

/-- The clocks an item has waited on a die (R383, R384). -/
def State.waited (s : State) (die : Nat) (w : WaitItem) : Nat :=
  s.clocksOf die - (match w with
    | .launch lid => ((s.launchAt lid).map fun l => l.readyClk[Fin.ofNat 8 die]).getD 0
    | .parked pid => ((s.parkedAt pid).map Parked.clk).getD 0)

/-- PREEMPTION_REQUEST: a crew of lower priority is asked to leave for an item (R384). -/
def execPreemptionRequest (die : Nat) (item : WaitItem) (s : State) : Out :=
  let d := die % 8
  .next (match s.itemLaunch item with
    | none => s
    | some l =>
      match s.mayRequest d item, s.lowVictim (s.prioOf l) (s.victims d item l) with
      | some k, some n => s.request n (some (item, k))
      | _, _ => s)
/-- SLICE_EXPIRY: an item that has waited SLICE clocks asks the crew of equal priority that has run longest (R384). -/
def execSliceExpiry (die : Nat) (item : WaitItem) (s : State) : Out :=
  let d := die % 8
  .next (match s.itemLaunch item with
    | none => s
    | some l =>
      let v := s.victims d item l
      if (s.lowVictim (s.prioOf l) v).isSome || s.waited d item < s.sliceClocks then s
      else match s.mayRequest d item, s.equalVictim d (s.prioOf l) v with
        | some k, some n => s.request n (some (item, k))
        | _, _ => s)

end Sys2Proof.Machine
end

