-- ==== Sys2Proof/Machine/Switch.lean ====
section
/-! DEFINITION. Switch-out and resume of a crew, and the sections of the crew save area (24_traps R402 to R409, 11_chutes
R238 to R240, 16_attention R302, 18_index R328, 14_matrix R267 to R269). -/

namespace Sys2Proof.Machine

/-! ### The sections as bytes -/

/-- The chute keeps its entries over a switch-out: put-fed chutes and token chutes (R239). -/
def Chute.kept (c : Chute) : Bool := !c.copyFed || c.isToken
/-- The entries that are saved. -/
def Chute.saved (c : Chute) : List ChEntry := if c.kept then c.entries.take 512 else []
/-- The header of a chute (R238). -/
def Chute.header (c : Chute) : Nat := c.saved.length + c.head % 16 * 2 ^ 16 + (if c.copyFed then 2 ^ 32 else 0)
/-- The chute section: 16 headers, then 4,096 bytes of entries a chute (R238). -/
def Crew.chuteSection (c : Crew) : List Byte :=
  let all := (List.range 16).map c.chute
  (all.flatMap fun q => leBytesOf 8 q.header) ++
  all.flatMap fun q => (q.saved.flatMap fun e => leBytesOf 8 e.bits.toNat) ++ List.replicate (8 * (512 - q.saved.length)) 0

/-- A chute read back from the section (R238, R239): `src` gives what hardware keeps of its entries beside their bits. -/
def chuteLoad (b : List Byte) (q : Nat) (src : List (ChSrc × Bool)) (tokens : List Nat) (feeder : Option ChSrc) : Chute :=
  let h := leValue ((b.drop (8 * q)).take 8)
  { copyFed := h.testBit 32,
    entries := (List.range (min (bits h 9 0) 512)).map fun i =>
      let s := src.getD i (.put, false)
      ⟨BitVec.ofNat 64 (leValue ((b.drop (128 + 4096 * q + 8 * i)).take 8)), s.2, s.1⟩,
    head := bits h 19 16, tokens := tokens, resv := 0, feeder := feeder }

/-- The chain section (R302). -/
def Chain.section' (c : Chain) : List Byte :=
  leBytesOf 8 c.hdr0.toNat ++ leBytesOf 8 c.hdr1.toNat ++ leBytesOf 8 (c.phase % 8 + c.cursor % 128 * 2 ^ 8) ++ List.replicate 40 0 ++
  leBytesOf 4096 c.buf.toNat ++
  ((List.range 16).flatMap fun h => leBytesOf 4 (c.m1[Fin.ofNat 16 h]).toNat ++ leBytesOf 4 (c.l1[Fin.ofNat 16 h]).toNat) ++
  (List.range 16).flatMap fun h => leBytesOf 2048 (c.o1[Fin.ofNat 16 h]).toNat
/-- The chain read back (R302). -/
def Chain.load (b : List Byte) : Chain :=
  let num (off n : Nat) : Nat := leValue ((b.drop off).take n)
  { phase := bits (num 16 8) 2 0, cursor := bits (num 16 8) 14 8, hdr0 := BitVec.ofNat 64 (num 0 8), hdr1 := BitVec.ofNat 64 (num 8 8),
    buf := BitVec.ofNat _ (num 64 4096),
    m1 := Vector.ofFn fun (h : Fin 16) => BitVec.ofNat 32 (num (4160 + 8 * h) 4),
    l1 := Vector.ofFn fun (h : Fin 16) => BitVec.ofNat 32 (num (4164 + 8 * h) 4),
    o1 := Vector.ofFn fun (h : Fin 16) => BitVec.ofNat 16384 (num (4288 + 2048 * h) 2048) }

/-- Words as bytes, eight to each. -/
def wordBytes (ws : List Nat) : List Byte := ws.flatMap (leBytesOf 8)
/-- Word `i` of some bytes. -/
def wordOf (b : List Byte) (i : Nat) : Nat := leValue ((b.drop (8 * i)).take 8)
/-- Bytes brought to the length of their place, zeros behind them. -/
def fitTo (n : Nat) (b : List Byte) : List Byte := (b ++ List.replicate (n - b.length) 0).take n

/-- A slot as four words. -/
def Slot.words : Slot → List Nat
  | .empty => [0, 0, 0, 0]
  | .attached obj gen m => [1, obj, gen, m]
/-- A cursor as 1,280 bytes. The form is the model's (R328, log 114). -/
def Cursor.section (c : Cursor) : List Byte :=
  let own := c.own.getD (0, 0)
  fitTo 1280 (wordBytes ([if c.own.isSome then 1 else 0, own.1, own.2, c.hlen, c.window.length, c.accN, c.accT, c.propT] ++
    c.slots.toList.flatMap Slot.words) ++ c.window.flatMap (leBytesOf 4))
/-- A cursor read back. -/
def Cursor.load (b : List Byte) : Cursor :=
  { own := if wordOf b 0 = 0 then none else some (wordOf b 1, wordOf b 2),
    hlen := wordOf b 3, accN := wordOf b 5, accT := wordOf b 6, propT := wordOf b 7,
    window := (List.range (min (wordOf b 4) 256)).map fun i => leValue ((b.drop (192 + 4 * i)).take 4),
    slots := Vector.ofFn fun (i : Fin 4) =>
      if wordOf b (8 + 4 * i) = 0 then .empty else .attached (wordOf b (9 + 4 * i)) (wordOf b (10 + 4 * i)) (wordOf b (11 + 4 * i)) }
/-- The cursor section (R328). -/
def Crew.cursorSection (c : Crew) : List Byte := c.cursors.toList.flatMap Cursor.section

/-- A copy command's progress as 240 bytes: all but its trains. The form is the model's (R240, log 114). -/
def CopyCmd.record (c : CopyCmd) : List Byte :=
  let at' := c.attach.getD (0, 0)
  fitTo 240 (wordBytes [c.seq, c.ticket, c.fn, c.a1, c.a2, c.p0, c.p1, if c.rq.sup then 1 else 0, c.rq.root, c.pc,
    match c.q with | some q => q + 1 | none => 0, match c.cq with | some q => q + 1 | none => 0, if c.attach.isSome then 1 else 0, at'.1, at'.2,
    c.done, c.stopAt, c.bytes, c.code, if c.formed then 1 else 0])
/-- A copy command read back for the crew that `rq` translates for; its trains are those that the engine keeps of the commands `kept`. -/
def CopyCmd.load (rq : Req) (kept : List CopyCmd) (b : List Byte) : CopyCmd :=
  let w := wordOf b
  { seq := w 0, ticket := w 1, fn := w 2, a1 := w 3, a2 := w 4, p0 := w 5, p1 := w 6,
    rq := { rq with sup := w 7 ≠ 0, root := w 8, scratch := true }, pc := w 9, q := if w 10 = 0 then none else some (w 10 - 1),
    cq := if w 11 = 0 then none else some (w 11 - 1), attach := if w 12 = 0 then none else some (w 13, w 14), done := w 15, stopAt := w 16,
    bytes := w 17, code := w 18, formed := w 19 ≠ 0, part := [], elem := none,
    trains := ((kept.find? fun c => c.seq = w 0).map CopyCmd.trains).getD [] }
/-- A kept status word with its command's number (R234), as three words. -/
def keptWords : Option (Nat × Word) → List Nat
  | some (n, w) => [1, n, w.toNat]
  | none => [0, 0, 0]
/-- A kept status word read back from word `i` on. -/
def keptLoad (b : List Byte) (i : Nat) : Option (Nat × Word) :=
  if wordOf b i = 0 then none else some (wordOf b (i + 1), BitVec.ofNat 64 (wordOf b (i + 2)))
/-- The copy progress records of an access hart: its command number, the kept and done status words, and its commands (R234, R240). -/
def Hart.copySection (h : Hart) : List Byte :=
  fitTo 512 (wordBytes ([h.copySeq, h.copies.length, h.doneWords.length] ++ keptWords h.keptFail ++ keptWords h.keptLast ++
    h.doneWords.map fun e => e.2.toNat)) ++ fitTo 7680 (h.copies.flatMap CopyCmd.record)
/-- The progress records read back into the hart (R240); a done status word holds its ticket (R228). -/
def Hart.loadCopies (h : Hart) (rq : Req) (kept : List CopyCmd) (b : List Byte) : Hart :=
  { h with
    copySeq := wordOf b 0, keptFail := keptLoad b 3, keptLast := keptLoad b 6,
    doneWords := (List.range (min (wordOf b 2) 32)).map fun i => (bits (wordOf b (9 + i)) 31 16, BitVec.ofNat 64 (wordOf b (9 + i))),
    copies := (List.range (min (wordOf b 1) 32)).map fun i => CopyCmd.load rq kept ((b.drop (512 + 240 * i)).take 240) }

/-! ### Switch-out (R403) -/

/-- Bytes written into the save area of a crew, at module scope; false when a write is refused (R403, R409). -/
def State.saveBytes (s : State) (n ctx off : Nat) (b : List Byte) : State × Bool :=
  State.hwWrite (s.crewReq n ctx) (b.length / 64 + 2) s (((s.crewAt n).msave.toNat + off) % 2 ^ 64) b

/-- The trains to the module itself are acknowledged and the writes of the crew's commands performed (R235, R240). -/
def State.drainCopies (s : State) (h : Nat) : State :=
  let s := (s.hartAt h).copies.foldl (fun s c =>
    (c.trains.filter fun t => t.dev = 256 && t.st = .sent).foldl (fun s _ => s.trainAck h c.ticket 256 true) s) s
  (s.hartAt h).copies.foldl (fun s c => s.performWhere (fun w => w.who == .engine h .C c.seq) (s.copyScope c)) s

/-- The least stream offset of a command's entries in a chute. -/
def leastOff (seq : Nat) (es : List ChEntry) : Option Nat :=
  es.foldl (fun a e => match e.src with
    | .copy t off => if t = seq then some (match a with | none => off | some b => min off b) else a
    | _ => a) none

/-- A command rolled back so that its next append is its oldest dropped entry, and its next unit one that has not been begun (R239,
R240). -/
def Crew.rollBack (c : Crew) (d : CopyCmd) : CopyCmd :=
  let d := { d with part := [], elem := none }
  match d.q with
  | none => if d.fn = 2 then { d with bytes := d.done * d.esz } else d
  | some q =>
    if (c.chute q).kept then d
    else
      let off := (leastOff d.seq (c.chute q).entries).getD d.bytes
      { d with bytes := off, done := if d.fn ≤ 1 then off else off / d.esz }

/-- The feeder that keeps a copy-fed chute over a switch-out: the one whose entry is the oldest dropped, or the one that stands inside a
command or a page (R226, R239, R302). -/
def Chute.keeper (c : Chute) : Option ChSrc :=
  if c.kept then none
  else match c.entries with
    | e :: _ => (match e.src with
      | .copy t _ => some (.copy t 0)
      | .sluice u j p _ => some (.sluice u j p 0)
      | _ => none)
    | [] => c.feeder

/-- The words of the header from ACYC on, and word 0 without VALID (R407). -/
def State.saveHeader (s : State) (n : Nat) : List Byte :=
  let a := s.hartAt (2 * n)
  let e := s.hartAt (2 * n + 1)
  leBytesOf 8 (n / 4 * 2 ^ 24 + e.lanes.length * 2 ^ 16) ++ leBytesOf 8 (s.cycleOf (2 * n)) ++ leBytesOf 8 a.instret.toNat ++
  leBytesOf 8 (s.cycleOf (2 * n + 1)) ++ leBytesOf 8 e.instret.toNat ++ leBytesOf 8 s.now ++ leBytesOf 8 a.stvec.toNat ++
  leBytesOf 8 a.sscratch.toNat ++ leBytesOf 8 e.stvec.toNat ++ leBytesOf 8 e.sscratch.toNat

/-- Steps taken in order until one fails. -/
def inOrder : List (State → State × Bool) → State → State × Bool
  | [], s => (s, true)
  | f :: r, s => match f s with
    | (s, false) => (s, false)
    | (s, true) => inOrder r s

/-- Step 1: the commands stopped and rolled back, their writes performed, their progress recorded (R239, R240). -/
def State.saveCopies (n ctx : Nat) (s : State) : State × Bool :=
  let s := s.drainCopies (2 * n)
  let c := s.crewAt n
  let s := s.mapHart (2 * n) fun x => { x with copies := x.copies.map c.rollBack }
  s.saveBytes n ctx 425984 (s.hartAt (2 * n)).copySection
/-- Step 2: the matrix queue drained and the section written; a crew without the lease, one whose restore is pending among them, writes
the control word alone, with HELD 0 (R267, log 31). -/
def State.saveMatrix (n ctx : Nat) (s : State) : State × Bool :=
  let s := s.mxDrain n
  match (s.crewAt n).lease with
  | .restore =>
    (s.mapCore (n / 4) fun c => { c with leaseQueue := c.leaseQueue.filter fun m => m != n }).saveBytes n ctx 73728 (leBytesOf 8 0)
  | .none => s.saveBytes n ctx 73728 (leBytesOf 8 0)
  | .held =>
    match s.saveBytes n ctx 73728 (((s.coreAt (n / 4)).array).save) with
    | (s, false) => (s, false)
    | (s, true) => ((s.mxClear n).mapCrew n fun c => { c with lease := .none, leaseWait := false, revoked := false }, true)
/-- Step 3: deliveries cut, the chain saved (R302). -/
def State.saveChain (n ctx : Nat) (s : State) : State × Bool :=
  let s := s.sluicePark n
  s.saveBytes n ctx 372736 (s.hartAt (2 * n + 1)).chain.section'
/-- Step 4: chutes saved (R238, R239). -/
def State.saveChutes (n ctx : Nat) (s : State) : State × Bool := s.saveBytes n ctx 4096 (s.crewAt n).chuteSection
/-- Step 5: the cursors saved (R328). -/
def State.saveCursors (n ctx : Nat) (s : State) : State × Bool := s.saveBytes n ctx 413696 (s.crewAt n).cursorSection

/-- What hardware keeps of the crew beside the bytes of the save area. -/
def State.parkedOf (s : State) (n : Nat) (r : Resident) : Parked :=
  let c := s.crewAt n
  let a := s.hartAt (2 * n)
  { pid := s.nextPid, resident := r, die := n / 32, core := n / 4, at' := s.now, clk := s.clocksOf (n / 32), crew := n,
    launchid := c.launchid, groupid := c.groupid, spidx := c.spidx, tidx := c.tidx, msave := c.msave,
    revoked := c.revoked, copies := a.copies, feeders := (List.range 16).filterMap fun q => (c.chute q).keeper.map fun f => (q, f),
    srcs := (List.range 16).map fun q => (q, (c.chute q).saved.map fun e => (e.src, e.poison)) }

/-- A crew's slot free: nothing of the crew is left on it. -/
def State.vacate (s : State) (n : Nat) : State :=
  (s.mapCrew n fun c =>
    { c with resident := none, chutes := c.chutes.map (fun q => ⟨q.copyFed, [], 0, [], 0, none⟩), cursors := Vector.replicate 8 Cursor.free,
             lease := .none, leaseWait := false, revoked := false, mqueue := [], preempt := false, preemptBy := none, ending := false,
             abandoned := false }).mapHart (2 * n) fun x =>
    { x with copies := [], doneWords := [], keptFail := none, keptLast := none, remote := [] }

/-- The save area's refusal in the module error log: UNIT save area, LOC the core (R409, R429). -/
def State.logSave (s : State) (core ctx addr : Nat) : State := s.logError 2 9 core ctx addr

/-- The writes of both harts of a crew, and those they read, performed at module scope: what the setting of VALID releases (R209, R210,
R414). -/
def State.releaseCrew (s : State) (n : Nat) : State :=
  let seen := (s.hartAt (2 * n)).seen ++ (s.hartAt (2 * n + 1)).seen
  s.performWhere (fun w => seen.contains w.id || match w.who with | .hart h _ => crewOf h == n | _ => false) 3

/-- The steps of R403 after both harts have left; a save write that gets an error response, that of VALID included, ends the crew (R409). -/
def State.switchOut (s : State) (n : Nat) (r : Resident) : State :=
  let save : List (State → State × Bool) :=
    [State.saveCopies n r.ctx, State.saveMatrix n r.ctx, State.saveChain n r.ctx, State.saveChutes n r.ctx, State.saveCursors n r.ctx,
     fun s => s.saveBytes n r.ctx 0 (s.saveHeader n)]
  let fail (s : State) : State :=
    let s := s.logSave (n / 4) r.ctx (s.crewAt n).msave.toNat
    match s.launchAt r.lid with
    | some l => s.abandon l n 14
    | none => s.stopCrew n
  match inOrder save s with
  | (s, false) => fail s
  | (s, true) =>
    let word := n / 4 * 2 ^ 24 + (s.hartAt (2 * n + 1)).lanes.length * 2 ^ 16 + 1
    match (s.releaseCrew n).saveBytes n r.ctx 0 (leBytesOf 8 word) with
    | (s, false) => fail s
    | (s, true) =>
      let s := s.releaseLanes (2 * n + 1)
      let p := s.parkedOf n r
      let s := { s with parked := s.parked ++ [p], nextPid := s.nextPid + 1 }
      ((s.countResidence n).vacate n).moveRes r.ctx false

/-- The commands of a crew stand at unit boundaries and no train of theirs waits for another device (R240). -/
def State.copiesStill (s : State) (h : Nat) : Bool :=
  (s.hartAt h).copies.all fun c => !s.midUnit h c && c.trains.all fun t => t.dev = 256 || t.st ≠ .sent

/-- SWITCH_OUT: a crew whose harts have both left is switched out; until its commands stand still it waits (R403). -/
def execSwitchOut (crew : Nat) (s : State) : Out :=
  let n := crew % 256
  .next (match (s.crewAt n).resident with
    | none => s
    | some r => if s.bothLeft n && !(s.crewAt n).ending && !(s.crewAt n).abandoned && s.copiesStill (2 * n) then s.switchOut n r else s)

/-! ### Resume (R408) -/

/-- A hart at its resume: its trap vector, sscratch and counters from the header (R408). -/
def State.resumeHart (s : State) (ctx die h : Nat) (cyc ins vec scr : Nat) (x : Hart) : Hart :=
  let bit (i : Nat) (b : Word) : Word := if Config.freeBit (s.freeCtr + 4 * (h % 2) + i) then b else 0
  { x with x := Vector.replicate 32 0, pc := BitVec.ofNat 64 vec &&& ~~~ 3#64, sup := true, fcsr := 0, vstart := 0, vl := 0, vtype := 0,
           lanes := [], lgquota := BitVec.ofNat 5 (s.ctxField ctx 196 192), vdirty := 0, kdirty := 0, vstate := 0, attncfg := 0, cpbar := 0,
           sstatus := sPMODE ||| bit 0 0x20000 ||| bit 1 0x10000 ||| bit 2 sPREG, stvec := BitVec.ofNat 64 vec &&& ~~~ 3#64, sepc := 0,
           scause := 14, stval := 1, sscratch := BitVec.ofNat 64 scr, sxlat := s.sxlatOf ctx,
           violog := BitVec.ofNat 64 (s.ctxLog ctx / 64 * 64), cycleBase := s.clocksOf die, cycleKept := cyc, instret := BitVec.ofNat 64 ins,
           v := Vector.replicate 32 0, vpoison := Vector.replicate 32 0, k := Vector.replicate 8 0, taintX := Vector.replicate 32 noTaint,
           taintV := Vector.replicate 32 noTaint, taintK := Vector.replicate 8 noTaint, taintVl := noTaint,
           taintP := Vector.replicate 2 noTaint, taintA := Vector.replicate 4 noTaint, tags := [], issued := 0, seen := [],
           chain := Chain.empty, copySeq := 0, copies := [], doneWords := [], keptFail := none, keptLast := none, ended := false,
           left := false, window := false, stalled := none, run := none, remote := [] }

/-- A section of a save area read; what fails is logged (R409). -/
def State.areaRead (s : State) (rq : Req) (msave off n : Nat) : State × Except Nat (List Byte) :=
  State.hwRead rq (n / 64 + 2) s ((msave + off) % 2 ^ 64) n []

/-- The regions that hardware reads at resume, by offset and length: the header, the chute, chain and cursor sections and the copy
progress records (R409). -/
def areaParts : List (Nat × Nat) := [(0, 80), (4096, 65664), (372736, 37056), (413696, 10240), (425984, 8192)]
/-- Regions of a save area read in order; none when one fails (R409). -/
def State.areaReads (rq : Req) (msave : Nat) : List (Nat × Nat) → State → State × Option (List (List Byte))
  | [], s => (s, some [])
  | (off, n) :: r, s =>
    match s.areaRead rq msave off n with
    | (s, .error _) => (s, none)
    | (s, .ok b) =>
      match State.areaReads rq msave r s with
      | (s, none) => (s, none)
      | (s, some bs) => (s, some (b :: bs))

/-- A pre-empted crew gone without a resume: its commands end, detached with FAIL, and its subscriptions are dropped (R376,
R409). -/
def State.dropParked (s : State) (p : Parked) : State :=
  let s := { s with parked := s.parked.filter fun x => x.pid ≠ p.pid }
  let s := p.copies.foldl (fun s c => s.copyDetach c.attach c.bytes true) s
  s.dropSubs fun u => u.lid = p.resident.lid && u.place = p.resident.place && dieOf u.hart = p.die

/-- The place of the object that a saved slot or cursor names: the one it named, or after a migration to other addresses the one that has kept
its GEN, of the context itself first, where R308 lets the context name it (R309, R328, R348, log 114). -/
def State.ixMoved (s : State) (ctx : Nat) (own : Bool) (pa gen : Nat) : Nat :=
  if (s.ixLive pa gen).isSome then pa
  else
    let may := s.indexes.filter fun o => o.gen = gen && ixAllowed (s.ixHdr o) ctx (s.ctxWorld ctx) own
    ((may.find? (fun o => o.ctx = ctx)).orElse fun _ => may.head?).elim pa IxObj.pa
/-- A restored cursor, its objects found again. -/
def State.ixFound (s : State) (ctx : Nat) (c : Cursor) : Cursor :=
  { c with own := c.own.map fun x => (s.ixMoved ctx true x.1 x.2, x.2),
           slots := c.slots.map fun
             | .empty => .empty
             | .attached p g m => .attached (s.ixMoved ctx false p g) g m }

/-- The crew restored on crew `n` from the regions of `areaParts` (R408). -/
def State.restoreCrew (s : State) (p : Parked) (n : Nat) (parts : List (List Byte)) : State :=
  let part (i : Nat) : List Byte := parts.getD i []
  let w := wordOf (part 0)
  let ctx := p.resident.ctx
  let rq := s.crewReq n ctx
  let s := s.mapHart (2 * n) fun x => (s.resumeHart ctx p.die (2 * n) (w 1) (w 2) (w 6) (w 7) x).loadCopies rq p.copies (part 4)
  let copies := (s.hartAt (2 * n)).copies
  let feeder (q : Nat) : Option ChSrc := (p.feeders.find? fun e => e.1 = q).map Prod.snd
  let tokens (q : Nat) : List Nat := (copies.filter fun c => c.cq = some q).map CopyCmd.seq
  let s := s.mapHart (2 * n + 1) fun x =>
    { s.resumeHart ctx p.die (2 * n + 1) (w 3) (w 4) (w 8) (w 9) x with chain := Chain.load (part 2) }
  let s := { s with freeCtr := s.freeCtr + 8 }
  let s := s.grow (2 * n + 1) (bits (w 0) 20 16) 16
  s.mapCrew n fun c =>
    { c with resident := some p.resident, launchid := p.launchid, groupid := p.groupid, spidx := p.spidx, tidx := p.tidx, msave := p.msave,
             chutes := Vector.ofFn fun (q : Fin 16) => chuteLoad (part 1) q (((p.srcs.find? fun e => e.1 = q.val).map Prod.snd).getD []) (tokens q) (feeder q),
             cursors := Vector.ofFn fun (i : Fin 8) => s.ixFound ctx (Cursor.load (((part 3).drop (1280 * i)).take 1280)), lease := .none, leaseWait := false, revoked := p.revoked, mqueue := [], preempt := false,
             preemptBy := none, ending := false, abandoned := false, since := s.clocksOf p.die }

/-- The lease requested again when the control word says that it was held; a control word that cannot be read revokes it
(R269). -/
def State.resumeLease (s : State) (n : Nat) (rq : Req) (msave : Nat) : State :=
  match s.areaRead rq msave 73728 8 with
  | (s, .error _) => s.mapCrew n fun c => { c with revoked := true }
  | (s, .ok b) =>
    if (leValue b).testBit 0 then
      (s.mapCrew n fun c => { c with lease := .restore }).mapCore (n / 4) fun c => { c with leaseQueue := c.leaseQueue ++ [n] }
    else s

/-- A pre-empted crew resumed on crew `n` (R408), an acquire at module scope (R414). A crew of a launch that has been abandoned
is stopped at once. -/
def State.resume (s : State) (p : Parked) (n : Nat) : State :=
  let ctx := p.resident.ctx
  let rq := s.crewReq n ctx
  match State.areaReads rq p.msave.toNat areaParts s with
  | (s, none) =>
    let s := s.dropParked p
    match s.launchAt p.resident.lid with
    | some l => s.abandon l p.crew 14
    | none => s
  | (s, some parts) =>
    let s := ({ s with parked := s.parked.filter fun x => x.pid ≠ p.pid }).claimCounters n (s.ctxWorld ctx)
    let s := (s.restoreCrew p n parts).resumeLease n rq p.msave.toNat
    let (s, _) := s.saveBytes n ctx 0 (leBytesOf 8 (putBits (wordOf (parts.getD 0 []) 0) 0 1 0))
    let mine (u : Sub) : Bool := u.lid = p.resident.lid && u.place = p.resident.place && dieOf u.hart = p.die
    let move (u : Sub) : Sub := if mine u then { u with hart := 2 * n + u.hart % 2, rq := { u.rq with core := n / 4 } } else u
    let s := { s with subs := s.subs.map move }
    let s := (s.moveRes ctx true).catchUp (.core (n / 4))
    match s.launchAt p.resident.lid with
    | some l => if l.st = .ending then s.stopCrew n else s
    | none => s.stopCrew n

/-- CREW_RESUME: the pre-empted crew that the order of R383 serves next is restored (R408). -/
def execCrewResume (pid : Nat) (s : State) : Out :=
  .next (match s.parkedAt pid with
    | none => s
    | some p =>
      match s.bestItem p.die with
      | some (.parked i, n) => if i = pid then s.resume p n else s
      | _ => s)

end Sys2Proof.Machine
end

