-- ==== Sys2Proof/Machine/Mailbox.lean ====
section
/-! DEFINITION. The management mailbox (27_link R441, 29_bringup R460 to R462). -/

namespace Sys2Proof.Machine

/-- The CMD, LEN and SEQ of a request (R460). -/
def reqWord (b : List Byte) : Nat := leValue (b.take 8)

/-- The response to the request in the buffer: STATUS, its SEQ, and data; DOOR cleared and DONE set (R441, R460). A command that
no request asked for answers nothing. -/
def State.respond (s : State) (status : Nat) (data : List Byte) : State :=
  if s.doorbell then
    { s with doorbell := false, mbxDone := true,
             mbxResp := leBytesOf 8 (reqWord s.mbxReq / 2 ^ 32 * 2 ^ 32 + data.length % 2 ^ 16 * 2 ^ 16 + status) ++ data }
  else s

/-- The request in the buffer, whose doorbell rings, names a command and its operands, each as (offset, size, value) (R460, R462). -/
def State.asks (s : State) (cmd : Nat) (ops : List (Nat × Nat × Nat)) : Bool :=
  s.doorbell && reqWord s.mbxReq % 2 ^ 16 = cmd && ops.all fun o => leValue ((s.mbxReq.drop o.1).take o.2.1) = o.2.2
/-- The step of a command: it answers the request that asks for it, and no other (R460). -/
def State.forReq (s : State) (asked : Bool) (f : State → State) : State :=
  if !s.doorbell || asked then f s else { f { s with doorbell := false } with doorbell := true }
/-- The step of a command that a request names by its CMD and operands. -/
def State.forCmd (s : State) (cmd : Nat) (ops : List (Nat × Nat × Nat)) (f : State → State) : State := s.forReq (s.asks cmd ops) f

/-- The operand bytes that a command lists, as (offset, size); none for an unknown CMD (R461, R462). -/
def mbxFields (cmd : Nat) : Option (List (Nat × Nat)) :=
  match cmd with
  | 0x01 => some [(8, 1), (9, 1), (10, 2), (16, 8)]
  | 0x02 => some [(8, 1), (9, 1)]
  | 0x03 => some [(8, 1)]
  | 0x04 => some [(8, 1), (10, 2)]
  | 0x05 => some [(8, 2)]
  | 0x06 => some [(8, 1)]
  | 0x07 => some [(8, 1), (9, 1)]
  | 0x08 => some [(8, 2)]
  | 0x09 => some [(8, 1)]
  | 0x0A => some []
  | 0x0B => some [(8, 2), (10, 2), (12, 1), (16, 8), (24, 8)]
  | 0x0C => some [(8, 8), (16, 2)]
  | 0x0D => some [(8, 2), (16, 8)]
  | 0x10 => some [(8, 1)]
  | 0x11 => some [(8, 1), (10, 2)]
  | 0x12 => some [(8, 1), (9, 1), (10, 2)]
  | 0x13 => some [(8, 1), (16, 8)]
  | 0x14 => some [(8, 1), (9, 1), (16, 2048)]
  | 0x15 => some [(8, 1)]
  | 0x16 => some [(8, 1), (16, 32)]
  | 0x17 => some [(8, 1), (16, 592), (608, 384), (992, 2), (1000, 3088)]
  | 0x18 => some [(8, 1), (16, 408)]
  | 0x19 => some [(8, 1), (16, 32)]
  | 0x1A => some []
  | _ => none

/-- A reserved byte of a request is not zero, or an operand is outside what any step of the table takes (R462). -/
def reqBad (b : List Byte) (fields : List (Nat × Nat)) : Bool :=
  (b.zipIdx.any fun e => 8 ≤ e.2 && e.1 != 0 && !fields.any fun f => f.1 ≤ e.2 && e.2 < f.1 + f.2) ||
  (reqWord b % 2 ^ 16 = 0x07 && 2 < (b.getD 9 0).toNat) || (reqWord b % 2 ^ 16 = 0x0B && 8 ≤ (b.getD 12 0).toNat)

/-- The command that a request asks for, its operands read at the offsets of R462. -/
noncomputable def mbxCommand (b : List Byte) : Option Instr :=
  let at' (off n : Nat) : List Byte := (b.drop off).take n
  let num (off n : Nat) : Nat := leValue (at' off n)
  match reqWord b % 2 ^ 16 with
  | 0x01 => some (.qbind (num 8 1) (num 9 1) (num 10 2) (num 16 8))
  | 0x02 => some (.qunbind (num 8 1) (num 9 1))
  | 0x03 => some (.partset (BitVec.ofNat 8 (num 8 1)))
  | 0x04 => some (.clkset (num 8 1) (num 10 2))
  | 0x05 => some (.pwrlim (num 8 2))
  | 0x06 => some (.slice (num 8 1))
  | 0x07 =>
    match num 9 1 with
    | 0 => some (.linkEnable (num 8 1))
    | 1 => some (.linkDisable (num 8 1))
    | 2 => some (.linkRetire (num 8 1))
    | _ => none
  | 0x08 => some (.chretire (num 8 2))
  | 0x09 => some (.revoke (num 8 1))
  | 0x0A => some .ckpt
  | 0x0B =>
    if (num 12 1).testBit 2 then some (.apmapUnmap (num 8 2))
    else some (.apmap (num 8 2) (num 10 2) (BitVec.ofNat 2 (num 12 1)) (num 16 8) (num 24 8))
  | 0x0C => some (.logread (num 8 8) (num 16 2))
  | 0x0D => some (.timer (num 8 2) (BitVec.ofNat 64 (num 16 8)))
  | 0x10 => some (.wopen (num 8 1))
  | 0x11 => some (.wadmit (num 8 1) (num 10 2))
  | 0x12 => some (.lgtag (num 8 1) (num 9 1) (BitVec.ofNat 16 (num 10 2)))
  | 0x13 => some (.ftag (num 8 1) (num 16 8))
  | 0x14 => some (.tlset (num 8 1) (num 9 1) (at' 16 2048))
  | 0x15 => some (.werase (num 8 1))
  | 0x16 => some (.attest (num 8 1) (at' 16 32))
  | 0x17 => some (.wexport (num 8 1) (at' 16 592) (at' 608 384) (at' 1000 (num 992 2)))
  | 0x18 => some (.wimport (num 8 1) (at' 16 408))
  | 0x19 => some (.mrext (num 8 1) (at' 16 32))
  | 0x1A => some .cert
  | _ => none

/-- The host sets DOOR with a request in the buffer, which raises the mailbox interrupt; an unknown command and
a non-zero reserved byte are answered at once, and so is every request after a failed boot (R441, R459, R460, R462); a checkpoint that waits refuses the request (R426). The step of
the command then carries out the rest. -/
def State.ring (s : State) (req : List Byte) : State :=
  if s.doorbell || s.stopping then s
  else
    let b := (req ++ List.replicate 4096 0).take 4096
    let s := { s with doorbell := true, bells := s.bells + 1, mbxReq := b }
    if s.bootFailed then s.respond 4 []
    else match mbxFields (reqWord b % 2 ^ 16) with
      | none => s.respond 1 []
      | some f => if reqBad b f then s.respond 2 [] else s
/-- MAILBOX_DOORBELL (R441, R460). -/
def execMailboxDoorbell (req : List (BitVec 8)) (s : State) : Out := .next (s.ring req)

end Sys2Proof.Machine
end

