-- ==== Sys2Proof/Machine/Rsa.lean ====
section
/-! DEFINITION. RSASSA-PSS and RSA-OAEP with SHA-256 and 3,072-bit keys as PKCS #1 gives them: the spec names the schemes and does not define
them (28_worlds R457, R458, 29_bringup R462, log 121). -/

namespace Sys2Proof.Machine

/-- `acc * b ^ e` modulo `m`, for an exponent of at most `k` bits. -/
def powMod (m : Nat) : Nat → Nat → Nat → Nat → Nat
  | 0, _, _, acc => acc % m
  | k + 1, b, e, acc => powMod m k (b * b % m) (e / 2) (if e % 2 = 1 then acc * b % m else acc)
/-- The public operation under a modulus, with exponent 65,537 (R462). -/
def rsaPublic (m x : Nat) : Nat := powMod m 17 x 65537 1
/-- The private operation of the device's key (R457). -/
def rsaOwn (x : Nat) : Nat := powMod Config.rsaModulus 3072 x Config.rsaPrivate 1

/-- The mask generation function MGF1 with SHA-256. -/
def mgf1 (seed : List Byte) (n : Nat) : List Byte :=
  ((List.range ((n + 31) / 32)).flatMap fun i => sha256 (seed ++ beBytesOf 4 i)).take n
def xorBytes (a b : List Byte) : List Byte := List.zipWith (· ^^^ ·) a b

/-- The hash of a message with its salt, as PSS takes it. -/
def pssHash (msg salt : List Byte) : List Byte := sha256 (List.replicate 8 0 ++ sha256 msg ++ salt)
/-- The PSS encoding of a message under a salt of 32 bytes: 384 bytes, the top bit clear. -/
def pssEncode (msg salt : List Byte) : List Byte :=
  let h := pssHash msg salt
  let db := xorBytes (List.replicate 318 0 ++ [1] ++ salt) (mgf1 h 351)
  [db.headD 0 &&& 0x7F] ++ db.drop 1 ++ h ++ [0xBC]
/-- The salt of an encoded message, where its form is right. -/
def pssSalt (em : List Byte) : Option (List Byte) :=
  let h := (em.drop 351).take 32
  let db := xorBytes (em.take 351) (mgf1 h 351)
  let db := [db.headD 0 &&& 0x7F] ++ db.drop 1
  if em.length = 384 && em.drop 383 = [0xBC] && em.headD 0 < 0x80 && db.take 319 = List.replicate 318 0 ++ [1] then some (db.drop 319) else none
/-- A signature of the device over a message, a number of 384 bytes (R457). -/
def rsaSign (msg salt : List Byte) : Nat := rsaOwn (beValue (pssEncode msg salt))
/-- Whether a signature verifies under a modulus (R462). -/
def rsaVerify (modulus sig : Nat) (msg : List Byte) : Bool :=
  let em := beBytesOf 384 (rsaPublic modulus sig)
  decide (sig < modulus) && match pssSalt em with
    | some salt => pssEncode msg salt == em
    | none => false

/-- The OAEP encoding, with an empty label, of a message of 64 bytes under a seed of 32. -/
def oaepEncode (msg seed : List Byte) : List Byte :=
  let db := xorBytes (sha256 [] ++ List.replicate 254 0 ++ [1] ++ msg) (mgf1 seed 351)
  [0] ++ xorBytes seed (mgf1 db 32) ++ db
/-- The message of 64 bytes in an OAEP encoding, where its form is right. -/
def oaepDecode (em : List Byte) : Option (List Byte) :=
  let db := em.drop 33
  let seed := xorBytes ((em.drop 1).take 32) (mgf1 db 32)
  let d := xorBytes db (mgf1 seed 351)
  if em.length = 384 && em.headD 0 = 0 && d.take 287 = sha256 [] ++ List.replicate 254 0 ++ [1] then some (d.drop 287) else none
/-- 64 key bytes encrypted under a peer's modulus (R458). -/
def oaepSeal (modulus : Nat) (msg seed : List Byte) : Nat := rsaPublic modulus (beValue (oaepEncode msg seed))
/-- The 64 key bytes that the device's own key finds in a ciphertext (R458). -/
def oaepOpen (c : Nat) : Option (List Byte) :=
  if Config.rsaModulus ≤ c then none else oaepDecode (beBytesOf 384 (rsaOwn c))

end Sys2Proof.Machine
end

