-- ==== Sys2Proof/Machine/World.lean ====
section
/-! DEFINITION. Worlds, their keys, lanes and frames, telemetry, measurement and attestation (28_worlds R446 to R458). -/

namespace Sys2Proof.Machine

/-- MR(w) extended by some bytes (R457). -/
def State.extendMr (s : State) (w : Nat) (b : List Byte) : State := s.mapWorld w fun x => { x with mr := mrExtend x.mr b }

/-- Erasure of a world: its keys destroyed, its groups retagged 0, its lists cleared, its frames' MAJOR 0 (R451, R454). -/
def State.eraseWorld (s : State) (w : Nat) : State :=
  let free (g : LaneGroup) : LaneGroup := if g.world = w then { g with world := 0 } else g
  let core (c : Core) : Core := { c with lanes := c.lanes.map free }
  let s := { s with frameMajor := s.frameMajor.filter (fun e => SMap.get 0 s.frameTag e.1 != w), cores := s.cores.map core }
  s.mapWorld w fun x => { x with isOpen := false, keyGen := 0, key := [], admitted := [], allow := [] }

/-- A command for a protected world in the state it needs, else STATUS 2 or 3 (R446, R461, R462). -/
def State.forWorldAt (s : State) (cmd : Nat) (ops : List (Nat × Nat × Nat)) (w : Nat) (needOpen : Bool) (f : State → State) : State :=
  s.forCmd cmd ops fun s =>
    if !isProtected w then s.respond 2 []
    else if (s.worldAt w).isOpen != needOpen then s.respond 3 []
    else f s

/-- The same where the request names the world at offset 8. -/
def State.forWorld (s : State) (cmd : Nat) (ops : List (Nat × Nat × Nat)) (w : Nat) (needOpen : Bool) (f : State → State) : State :=
  s.forWorldAt cmd ((8, 1, w) :: ops) w needOpen f

/-- The number of a key, under which the lines written with it are noted: the same keys have one number whenever they are installed (R450, R458). -/
def State.keyNumber (s : State) (key : List Byte) : State × Nat :=
  match s.keyRing.find? fun e => e.2 = key with
  | some e => (s, e.1)
  | none => ({ s with nextKey := s.nextKey + 1, keyRing := (s.nextKey, key) :: s.keyRing }, s.nextKey)
/-- WOPEN: new keys, GEN + 1, the lists and MR cleared (R446). -/
def execWopen (world : Nat) (s : State) : Out :=
  .next (s.forWorld 0x10 [] world false fun s =>
    let n := s.draw
    let key := leBytesOf 64 (Config.freeKey n.1).toNat
    let (t, k) := n.2.keyNumber key
    let s := t.mapWorld world fun x =>
      { x with isOpen := true, keyGen := k, key := key, gen := x.gen + 1, admitted := [], allow := [],
               mr := List.replicate 32 0 }
    s.respond 0 [])

/-- WADMIT: a context on the admitted list, of at most 256 (R446, R457). -/
def execWadmit (world ctx : Nat) (s : State) : Out :=
  .next (s.forWorld 0x11 [(10, 2, ctx)] world true fun s =>
    let x := s.worldAt world
    if ctx = 0 || 65536 ≤ ctx then s.respond 2 []
    else if !x.admitted.contains ctx && 256 ≤ x.admitted.length then s.respond 5 []
    else
      let s := s.mapWorld world fun x => { x with admitted := if x.admitted.contains ctx then x.admitted else x.admitted ++ [ctx] }
      (s.extendMr world (leBytesOf 2 ctx)).respond 0 [])

/-- LGTAG: the free groups of the mask take the tag; the answer is the mask of those retagged (R447). -/
def execLgtag (core world : Nat) (mask : BitVec 16) (s : State) : Out :=
  .next (if 64 ≤ core then s.forCmd 0x12 [(8, 1, core), (9, 1, world), (10, 2, mask.toNat)] fun s => s.respond 2 []
    else s.forWorldAt 0x12 [(8, 1, core), (9, 1, world), (10, 2, mask.toNat)] world true fun s =>
      let hit (g : Nat) : Bool := mask.getLsbD g && (s.coreAt core).lanes[Fin.ofNat 16 g].owner.isNone
      let done := (List.range 16).foldl (fun a g => if hit g then a + 2 ^ g else a) 0
      let s := s.mapCore core fun c =>
        { c with lanes := Vector.ofFn fun g => if hit g.val then { c.lanes[g] with world := world } else c.lanes[g] }
      (s.extendMr world (leBytesOf 2 0x12 ++ leBytesOf 1 core ++ leBytesOf 1 world ++ leBytesOf 2 mask.toNat)).respond 0 (leBytesOf 2 done))

/-- A frame written as zero, line by line, under the keys of a world, then retagged (R448). Nothing of what it held is left in any
view. -/
def State.retagFrame (s : State) (pa w : Nat) : State :=
  let inside (a : Nat) : Bool := pa ≤ a && a < pa + 0x1_0000
  let hits (x : WriteRec) : Bool := x.pa < pa + 0x1_0000 && pa < x.pa + x.old.length
  let s := { s with
    mem := s.mem.filter (fun e => !inside e.1), poison := s.poison.filter (fun e => !inside (64 * e.1)),
    writes := s.writes.map (fun x => if hits x then { x with scope := 5 } else x), frameTag := SMap.set 0 s.frameTag (frameOf pa) w }
  (linesOf pa 0x1_0000).foldl (fun s l => s.lineWritten pa 0x1_0000 l) s

/-- FTAG: a frame of HBM, LP6, pool SRAM or scratchpad zeroed and retagged (R448). -/
def execFtag (world frame : Nat) (s : State) : Out :=
  .next (s.forWorld 0x13 [(16, 8, frame)] world true fun s =>
    if frame % 0x1_0000 ≠ 0 || !(inMemory frame || inScratch frame) then s.respond 2 []
    else
      ((s.retagFrame frame world).extendMr world (leBytesOf 2 0x13 ++ leBytesOf 8 world ++ leBytesOf 8 frame)).respond 0 [])

/-- WERASE: erasure of a world no context of which is past free (R446, R454). -/
def execWerase (world : Nat) (s : State) : Out :=
  .next (s.forWorld 0x15 [] world true fun s => if (s.worldContexts world).isEmpty then (s.eraseWorld world).respond 0 [] else s.respond 3 [])

/-! ### Telemetry (R455, R456) -/

/-- TLSET: a chunk of a world's allow-list applied whole (R455, R462). -/
def execTlset (world chunk : Nat) (data : List (BitVec 8)) (s : State) : Out :=
  .next (s.forWorld 0x14 [(9, 1, chunk), (16, 2048, leValue data)] world true fun s =>
    if 7 < chunk || data.length ≠ 2048 then s.respond 2 []
    else
      let lo := 16384 * chunk
      let put (m : SMap Bool) (e : Byte × Nat) : SMap Bool :=
        (List.range 8).foldl (fun m i =>
          let c := lo + 8 * e.2 + i
          if c < 130560 then SMap.set false m c (e.1.getLsbD i) else m) m
      (s.mapWorld world fun x => { x with allow := data.zipIdx.foldl put x.allow }).respond 0 [])

/-- The code of a port's state, as link item 7 (R456). -/
def PortState.code : PortState → Nat
  | .down => 0 | .training => 1 | .up => 2 | .degraded => 3 | .failed => 4 | .retired => 5
/-- The bits set among the low `n` of a number. -/
def bitCount (n v : Nat) : Nat := ((List.range n).filter fun i => v.testBit i).length

/-- The world that a counter counts (R455, R456). -/
def State.counterWorld (s : State) (c : Nat) : Nat :=
  if c < 1024 then 0 else if c < 17408 then (s.crewAt ((c - 1024) / 64)).world
  else if c < 25600 then (c - 17408) % 1024 / 64 else if c < 29696 then (c - 25600) / 256 else 0

/-- A module item (R456). -/
def State.moduleItem (s : State) (i : Nat) : Nat :=
  if i = 0 then s.power
  else if i ≤ 32 then s.temps[Fin.ofNat 32 (i - 1)]
  else if i ≤ 40 then s.mhz[Fin.ofNat 2 (if (s.dieAt (i - 33)).decode then 1 else 0)]
  else if i = 41 then s.ckptTime
  else if i = 42 then s.homeNat Config.errLog 8
  else if i = 43 then s.homeNat (Config.errLog + 24) 8
  else if i = 45 then (s.parity.toList.filter fun g => g.retired.isSome).length
  else if i = 46 then (s.dies.toList.filter Die.spareUsed).length
  else if i = 47 then (s.dies.toList.map Die.spareRows).sum + (s.bankRows.map Prod.snd).sum + SMap.get 0 s.telemetry 47
  else if i ≤ 49 then SMap.get 0 s.telemetry i else 0

/-- The channel's state: 0 in a group in parity mode, 1 in a degraded group, 2 retired (R456). -/
def State.channelState (s : State) (ch : Nat) : Nat :=
  match s.parity[Fin.ofNat 16 (ch % 16)].retired with
  | none => 0
  | some m => if m = ch / 16 then 2 else 1

/-- The value of a counter; none for one that counts clocks, beats, slots or accesses below what the model's steps show. -/
def State.counterValue (s : State) (c : Nat) : Option Nat :=
  let stored := SMap.get 0 s.telemetry c
  if c < 1024 then some (s.moduleItem c)
  else if c < 17408 then
    let n := (c - 1024) / 64
    let i := (c - 1024) % 64
    if i = 0 then some (stored + (if (s.crewAt n).resident.isSome then s.clocksOf (n / 32) - (s.crewAt n).since else 0))
    else if i = 3 || i = 4 || (8 ≤ i && i ≤ 12) then none else if i ≤ 18 then some stored else some 0
  else if c < 25600 then (if (c - 17408) % 64 ≤ 11 then some stored else some 0)
  else if c < 29696 then
    let w := (c - 25600) / 256
    let ctxs := s.worldContexts w
    let sum (hi lo : Nat) : Nat := (ctxs.map fun x => s.ctxField x hi lo).sum
    match (c - 25600) % 256 with
    | 0 => some (ctxs.filter fun x => s.ctxState x = 1).length
    | 1 => some (sum 319 296)
    | 2 => some (sum 295 276)
    | 3 => some (sum 275 264)
    | 5 => none
    | 8 => some ((s.cores.toList.map fun k => (k.lanes.toList.filter fun g => g.world = w).length).sum)
    | i => if i ≤ 7 then some stored else some 0
  else if c < 33792 then
    let i := (c - 29696) % 16
    if i ≤ 1 then none else if i ≤ 4 then some stored else if i = 5 then some (s.channelState ((c - 29696) / 16)) else some 0
  else if c < 35840 then
    let p := s.ports[Fin.ofNat 32 ((c - 33792) / 64)]
    let i := (c - 33792) % 64
    if i ≤ 5 then some stored else if i = 6 then some (bitCount 4 p.lanes.toNat) else if i = 7 then some p.st.code else some 0
  else some 0

/-- A counter read: the value, or zero data with DENIED set and an audit record in the log of every live context of the counter's world
(R455). -/
def State.readCounter (s : State) (counter stream : Nat) (tbit : Bool) : State × Nat :=
  let w := s.counterWorld counter
  let own : Bool := tbit && s.carries stream w
  if w = 0 || own || SMap.get false (s.worldAt w).allow counter then
    match s.counterValue counter with
    | some v => (s, v)
    | none => let n := s.draw; (n.2, (Config.freeWord n.1).toNat)
  else
    let s := { s with denied := s.denied ||| (1#16 <<< stream) }
    let s := (s.worldContexts w).foldl (fun s x =>
      if s.ctxState x = 1 then s.logViolation ⟨x, 3, 5, 0, 0, true, 0, 0x30_0000 + 8 * counter⟩ else s) s
    (s.count (worldItem w 7) 1, 0)
/-- The 8 bytes at BAR0 0x30_0000 + 8i read: a counter, from 130,560 on the status word of an IDE stream, of which there are 16, and 0 beyond
(R440, R455). -/
def State.readTelemetry (s : State) (i stream : Nat) (tbit : Bool) : State × Nat :=
  if i < 130560 then s.readCounter i stream tbit
  else (s, if i < 130576 && s.denied.getLsbD (i - 130560) then 1 else 0)
/-- TELEMETRY_READ (R440, R444, R455): a checkpoint that waits refuses the read (R426). -/
def execTelemetryRead (counter stream : Nat) (acc : TelemetryAccess) (s : State) : Out :=
  .next (if !acc.intact then s.hostCorrupt stream
    else if s.stopping then s.toHost (.response false [])
    else
      let r := s.readTelemetry counter stream acc.tbit
      r.1.toHost (.response true (leBytesOf 8 r.2)))

/-! ### Measurement and attestation (R457, R458) -/

/-- The body of a report: nonce, device and world, MR.0 to MR.3, MR(w), and GEN with the states (R457). -/
def State.reportBody (s : State) (w : Nat) (nonce : List Byte) : List Byte :=
  let x := s.worldAt w
  (nonce ++ List.replicate 32 0).take 32 ++ leBytesOf 4 s.devnum ++ leBytesOf 4 w ++ (s.mrBoot.toList.flatMap id) ++
  (if w = 0 then List.replicate 32 0 else x.mr) ++ leBytesOf 6 x.gen ++ leBytesOf 1 (if x.isOpen then 1 else 0) ++ leBytesOf 1 x.tdi
/-- A report: the body with its signature (R457). -/
def State.report (s : State) (w : Nat) (nonce : List Byte) : State × List Byte :=
  let b := s.reportBody w nonce
  let n := s.draw
  (n.2, b ++ leBytesOf 384 (rsaSign b (leBytesOf 32 (Config.freeSeed n.1).toNat)))

/-- ATTEST: the report of a world, or of world 0 (R457, R462). -/
def execAttest (world : Nat) (nonce : List (BitVec 8)) (s : State) : Out :=
  .next (s.forCmd 0x16 [(8, 1, world), (16, 32, leValue nonce)] fun s =>
    if 16 ≤ world || nonce.length ≠ 32 then s.respond 2 [] else let r := s.report world nonce; r.1.respond 0 r.2)
/-- GET_MEASUREMENTS: the same report over DOE (R457); a checkpoint that waits refuses it (R426). -/
def execGetMeasurements (world : Nat) (nonce : List (BitVec 8)) (s : State) : Out :=
  .next (if 16 ≤ world || s.stopping then s else let r := s.report world nonce; { r.1 with doe := r.2 })
/-- MREXT: an extension that the world's owner requests (R457). -/
def execMrext (world : Nat) (digest : List (BitVec 8)) (s : State) : Out :=
  .next (s.forWorld 0x19 [(16, 32, leValue digest)] world true fun s => if digest.length ≠ 32 then s.respond 2 [] else (s.extendMr world digest).respond 0 [])

/-- WEXPORT: the world's keys in a blob for a peer whose report verifies under the key that its chain vouches for (R458, R462). -/
def execWexport (world : Nat) (report modulus chain : List (BitVec 8)) (s : State) : Out :=
  .next (s.forWorld 0x17 [(16, 592, leValue report), (608, 384, leValue modulus), (992, 2, chain.length), (1000, chain.length, leValue chain)] world true fun s =>
    if report.length ≠ 592 || modulus.length ≠ 384 || 3088 < chain.length ||
        !(rsaVerify (leValue modulus) (leValue (report.drop 208)) (report.take 208) && Config.chainValid modulus chain) then s.respond 2 []
    else
      let x := s.worldAt world
      let n := s.draw
      n.2.respond 0 (leBytesOf 2 1 ++ leBytesOf 1 world ++ List.replicate 5 0 ++ leBytesOf 8 x.gen ++
        leBytesOf 384 (oaepSeal (leValue modulus) x.key (leBytesOf 32 (Config.freeSeed n.1).toNat)) ++ List.replicate 8 0))
/-- WIMPORT: the keys of a blob installed; lines written under keys that are installed again pass their check again (R446, R450, R458, R462). -/
def execWimport (world : Nat) (blob : List (BitVec 8)) (s : State) : Out :=
  .next (s.forWorld 0x18 [(16, 408, leValue blob)] world true fun s =>
    let zero (off n : Nat) : Bool := leValue ((blob.drop off).take n) = 0
    if blob.length ≠ 408 || leValue (blob.take 2) ≠ 1 || leValue ((blob.drop 2).take 1) ≠ world || !zero 3 5 || !zero 400 8 then s.respond 2 []
    else match oaepOpen (leValue ((blob.drop 16).take 384)) with
      | none => s.respond 2 []
      | some key =>
        let (t, k) := s.keyNumber key
        let s := t.mapWorld world fun x => { x with key := key, keyGen := k }
        (s.extendMr world (blob.take 16)).respond 0 [])
/-- CERT: the certificate chain (R461). -/
def execCert (s : State) : Out := .next (s.forCmd 0x1A [] fun s => s.respond 0 (Config.certChain.take 4080))

end Sys2Proof.Machine
end

