-- ==== Sys2Proof/Machine/Context.lean ====
section
/-! DEFINITION. The life of a context, its teardown, and adoption (20_context R331 to R335, R348). -/

namespace Sys2Proof.Machine

/-! ### Commands (R331, R333) -/

/-- The command at the head of a context's queue, and the state without it (R331). -/
def State.takeCmd (s : State) (ctx : Nat) : Option (State × Nat) :=
  match s.ctxCmds.find? fun c => c.1 = ctx with
  | none => none
  | some c => some ({ s with ctxCmds := s.ctxCmds.erase c }, c.2)
/-- ERR of a record (R332, R333). -/
def State.ctxErr (s : State) (ctx e : Nat) : State := s.ctxPut ctx 39 32 e
/-- STATE of a record. -/
def State.ctxGo (s : State) (ctx st : Nat) : State := (s.ctxPut ctx 2 0 st).ctxErr ctx 0

/-! ### Adoption (R348) -/

/-- How the homes translate for a context that is going live (log 14). -/
def State.adoptAgent (s : State) (ctx : Nat) : Agent := ⟨.home, .die 0, s.logReq ctx, 7, 0, 0, 0⟩

/-- The place of an adopted record: 64 bytes of pool SRAM that may be written. -/
def State.adoptPlace (s : State) (ctx va : Nat) : State × Option Nat :=
  if va % 64 ≠ 0 then (s, none)
  else match s.hwPlace (s.logReq ctx) va 64 with
    | (s, some pa) => if inPool pa then (s, some pa) else (s, none)
    | (s, none) => (s, none)

/-- A barrier held again, with its contents (R242, R348). -/
def State.adoptBarrier (s : State) (ctx va : Nat) : State × Bool :=
  match s.adoptPlace ctx va with
  | (s, none) => (s, false)
  | (s, some pa) =>
    let v := s.brRec pa
    if brState v = 1 && brCtx v = ctx && brScope v ≤ 4 && brExpect v ≠ 0 then
      ({ s with held := ⟨.barrier, pa, 64, ctx, 0⟩ :: s.held }, true)
    else (s, false)

/-- Every page of an adopted pool with INFL 0, moved on, and charged unless it is free (R275, R341, R348). -/
def State.adoptPages (p : PoolRec) : Nat → State → State
  | 0, s => s
  | k + 1, s =>
    let s := State.adoptPages p k s
    let s := (s.setPageRec p k (putBits (s.pageRec p k) 48 16 0)).pageSettle p k
    if prState (s.pageRec p k) = 0 then s else s.chargePage p.ctx true

/-- A pool in service again (R271, R348). -/
def State.adoptPool (s : State) (ctx va : Nat) : State × Bool :=
  match s.adoptPlace ctx va with
  | (s, none) => (s, false)
  | (s, some pa) =>
    if pdCtx (s.homeNat pa 64) ≠ ctx then (s, false)
    else
      let s := s.validatePool pa
      match s.poolAt pa with
      | none => (s, false)
      | some p => (State.adoptPages p p.npages s, true)

/-- An index object bound again under its own GEN (R315, R348). -/
def State.adoptIndex (s : State) (ctx va : Nat) : State × Bool :=
  let ag := s.adoptAgent ctx
  if va % 4096 ≠ 0 then (s, false)
  else match s.ixPlace ag va .read with
    | (s, .error _) => (s, false)
    | (s, .ok pa) =>
      match s.hwNat ag.rq va 128 with
      | (s, .error _) => (s, false)
      | (s, .ok d) =>
        if ixState d ≠ 1 || (s.ixAt pa).isSome || ixOwner d ≠ ctx || !ixHdrOk d then (s, false)
        else
          let off := va % 0x1_0000
          match State.ixFrames ag ((off + ixSize (ixCap d) + 0xFFFF) / 0x1_0000) (va - off) s [] with
          | (s, .error _) => (s, false)
          | (s, .ok frames) =>
            match State.hwRead ag.rq (ixLen d / 16 + 2) s (va + 128) (4 * ixLen d) [] with
            | (s, .error _) => (s, false)
            | (s, .ok text) =>
              if (ixHeld frames off (ixSize (ixCap d)) 0 0).any (fun h => s.writeRefused ag.rq.world h.pa h.len) ||
                 (List.range (ixLen d)).any (fun i => leValue ((text.drop (4 * i)).take 4) ≥ 2 ^ 24) ||
                 s.ctxField ctx 275 264 ≥ s.ctxField ctx 211 200 then (s, false)
              else
                let gen := bits d 63 32
                let n := s.nextBind
                let t := { s with nextBind := gen + 2 ^ 32 - 1 }.ixBind ctx ag.rq.world (bits d 10 8) pa off frames d
                ({ t with nextBind := max n gen }, true)

/-- The objects of an adoption table, to its entry of kind 0; `k` bounds the entries by those the address space has. -/
def State.adoptGo (ctx : Nat) : Nat → State → Nat → State × Bool
  | 0, s, _ => (s, false)
  | k + 1, s, va =>
    match s.hwNat (s.logReq ctx) va 16 with
    | (s, .error _) => (s, false)
    | (s, .ok e) =>
      let one : State × Bool :=
        match bits e 67 64 with
        | 1 => s.adoptBarrier ctx (bits e 63 0)
        | 2 => s.adoptPool ctx (bits e 63 0)
        | 3 => s.adoptIndex ctx (bits e 63 0)
        | _ => (s, false)
      if bits e 67 64 = 0 then (s, true)
      else match one with
        | (s, false) => (s, false)
        | (s, true) => State.adoptGo ctx k s ((va + 16) % 2 ^ 64)

/-! ### LIVE, QUIESCE and RELEASE (R333) -/

/-- The error of a free record that fails a check of LIVE; 0 when it passes (R332, R333, R446). -/
def State.liveErr (s : State) (ctx : Nat) : Nat :=
  let w := s.ctxWorld ctx
  let x := s.worldAt w
  let log := s.ctxLog ctx
  if !inMemory (s.ctxRoot ctx * 4096) then 1
  else if w ≠ 0 && (!x.isOpen || !x.admitted.contains ctx) then 2
  else if s.ctxField ctx 255 232 > 0xFF_FFFE || s.ctxField ctx 196 192 > 16 then 3
  else if nonCanonical log || log % 64 ≠ 0 then 4
  else 0

/-- LIVE applied to a record (R333). A context of a protected world is adopted by no table: it moves only through export and import
(R348, log 113). The homes take its objects as those of a live context. -/
def State.live (s : State) (ctx : Nat) : State :=
  match s.ctxState ctx with
  | 0 =>
    match s.liveErr ctx with
    | 0 =>
      let t := s.ctxPut ctx 319 264 0
      if (s.ctxField ctx 6 6) = 1 then
        if isProtected (s.ctxWorld ctx) then s.ctxErr ctx 6
        else match State.adoptGo ctx (2 ^ 60) (t.ctxPut ctx 2 0 1) (s.ctxField ctx 383 320) with
        | (t, true) => t.ctxGo ctx 1
        | (_, false) => s.ctxErr ctx 6
      else t.ctxGo ctx 1
    | e => s.ctxErr ctx e
  | 2 => s.ctxGo ctx 1
  | 3 => s.ctxGo ctx 1
  | _ => s.ctxErr ctx 5

/-- The crews on which a context is resident. -/
def State.crewsOfCtx (s : State) (ctx : Nat) : List Nat :=
  (List.range 256).filter fun n => match (s.crewAt n).resident with | some r => r.ctx = ctx | none => false

/-- QUIESCE applied: every resident crew receives a request; with none resident the context is quiesced (R333). -/
def State.quiesce (s : State) (ctx : Nat) : State :=
  if s.ctxState ctx ≠ 1 then s.ctxErr ctx 5
  else
    let s := (s.crewsOfCtx ctx).foldl (fun s n =>
      if (s.crewAt n).ending || (s.crewAt n).abandoned || (s.crewAt n).preempt then s else s.request n none) s
    s.ctxGo ctx (if s.ctxField ctx 31 16 = 0 then 3 else 2)

/-- CONTEXT_LIVE: the LIVE command at the head of a record's commands (R333). -/
def execContextLive (ctx : Nat) (s : State) : Out :=
  .next (match s.takeCmd ctx with
    | some (t, 1) => t.live ctx
    | _ => s)
/-- CONTEXT_QUIESCE (R333). -/
def execContextQuiesce (ctx : Nat) (s : State) : Out :=
  .next (match s.takeCmd ctx with
    | some (t, 2) => t.quiesce ctx
    | _ => s)
/-- CONTEXT_RELEASE, and the reserved commands, which give ERR 5 (R332, R333). -/
def execContextRelease (ctx : Nat) (s : State) : Out :=
  .next (match s.takeCmd ctx with
    | some (t, c) =>
      if c < 4 then s
      else if c = 4 && (t.ctxState ctx = 5 || t.ctxState ctx = 6) then t.ctxGo ctx 0 else t.ctxErr ctx 5
    | none => s)

/-! ### Teardown (R334, R335) -/

/-- A crew of a context that is torn down: it stops at once, its state is discarded, its commands end without a status, a token or
a detachment, its lease and lane groups are released (R334). -/
def State.discardCrew (s : State) (n : Nat) : State :=
  let s := (((s.leaseRelease n).releaseLanes (2 * n + 1)).countResidence n).withdrawPage (2 * n)
  let s := s.withdrawPage (2 * n + 1)
  let ctx := match (s.crewAt n).resident with | some r => r.ctx | none => 0
  let stop (x : Hart) : Hart := { x with ended := true, left := false, stalled := none, run := none, window := false, remote := [] }
  (((s.vacate n).mapHart (2 * n) stop).mapHart (2 * n + 1) stop).moveRes ctx false

/-- A pool out of service: VALID 0 (R271, R334). -/
def State.endPool (s : State) (p : PoolRec) : State :=
  let s := s.homeTake (p.pa + 24) 8 (putBits (s.homeNat (p.pa + 24) 8) 20 1 0)
  { s with pools := s.pools.filter fun x => x.pa ≠ p.pa,
           held := s.held.filter fun h => !(h.kind == HeldKind.pool && (h.pa == p.pa || h.aux == p.pa)) }

/-- Steps 1 to 3 of a teardown (R334): queues unmapped, crews and launches gone, the objects ended. -/
def State.tearDown (s : State) (ctx : Nat) : State :=
  let unmap (q : UserQueue) : UserQueue := if q.ctx = ctx then { q with mapped := false, due := false } else q
  let s := { s with queues := s.queues.map unmap }
  let s := (s.crewsOfCtx ctx).foldl State.discardCrew s
  let s := { s with parked := s.parked.filter fun p => p.resident.ctx ≠ ctx }
  let s := s.performWhere (fun w => match w.who with | .engine _ _ _ => true | _ => false) 4
  let s := (s.launches.filter fun l => l.ctx = ctx).foldl State.dropLaunch s
  let s := { s with queues := s.queues.map unmap }
  let s := s.dropSubs fun u => u.rq.ctx = ctx
  let s := (s.groups.filter fun g => g.ctx = ctx).foldl State.endGroup s
  let s := (s.held.filter fun h => h.kind == HeldKind.barrier && h.ctx == ctx).foldl (fun s h => s.brTearDown h.pa) s
  let s := (s.pools.filter fun p => p.ctx = ctx).foldl State.endPool s
  (s.indexes.filter fun o => o.ctx = ctx).foldl State.ixTearDown s

/-- CONTEXT_TEARDOWN (R333, R334). -/
def execContextTeardown (ctx : Nat) (s : State) : Out :=
  .next (match s.takeCmd ctx with
    | some (t, 3) =>
      let st := t.ctxState ctx
      if st = 1 || st = 2 || st = 3 then (t.ctxGo ctx 4).tearDown ctx else t.ctxErr ctx 5
    | _ => s)

/-- TEARDOWN_COMPLETE: once no request of the context is outstanding at another device, its translations are dropped, its usage
fields become 0, and it is torn down or erased (R333, R334, R443, R446). -/
def execTeardownComplete (ctx : Nat) (s : State) : Out :=
  .next (if s.ctxState ctx ≠ 4 || s.requests.any (fun r => r.ctx = ctx) then s
    else
      let s := s.dropTlb ctx none
      let s := { s with atc := s.atc.filter fun e => e.pasid ≠ ctx }
      let s := s.ctxPut ctx 319 264 0
      let w := s.ctxWorld ctx
      if s.ctxField ctx 7 7 = 1 && isProtected w && (s.worldContexts w).all (fun c => c = ctx) then (s.ctxPut ctx 2 0 6).eraseWorld w
      else s.ctxPut ctx 2 0 5)

end Sys2Proof.Machine
end

