-- ==== Sys2Proof/Machine/Scalar.lean ====
section
/-! DEFINITION. Scalar arithmetic, jumps, branches, loads and stores, and the compressed forms (06_scalar R120 to R129,
04_encoding R100). -/

namespace Sys2Proof.Machine

/-! ### Shared operations -/

/-- A register written from one source and an immediate (R122). -/
def opImm (len : Nat) (f : Word → Word) (rd rs1 : BitVec 5) : M Unit := do
  writeX rd (f (← readX rs1)) (← joinX [rs1] [])
  retire len

/-- A register written from two sources (R123). -/
def opReg (len : Nat) (f : Word → Word → Word) (rd rs1 rs2 : BitVec 5) : M Unit := do
  writeX rd (f (← readX rs1) (← readX rs2)) (← joinX [rs1, rs2] [])
  retire len

/-- Quotients and remainders of R29 on signed 64-bit values. -/
def sdiv64 (a b : Word) : Word := if b = 0 then ~~~ 0#64 else BitVec.ofInt 64 (a.toInt.tdiv b.toInt)
def srem64 (a b : Word) : Word := if b = 0 then a else BitVec.ofInt 64 (a.toInt.tmod b.toInt)
def udiv64 (a b : Word) : Word := if b = 0 then ~~~ 0#64 else BitVec.ofNat 64 (a.toNat / b.toNat)
def urem64 (a b : Word) : Word := if b = 0 then a else BitVec.ofNat 64 (a.toNat % b.toNat)
/-- High halves of the products (R123). -/
def mulh64 (a b : Word) : Word := BitVec.ofInt 64 (a.toInt * b.toInt / 2 ^ 64)
def mulhu64 (a b : Word) : Word := BitVec.ofNat 64 (a.toNat * b.toNat / 2 ^ 64)
/-- Bit counts over the 64 bits of a word (R123). -/
def clz64 (a : Word) : Word := BitVec.ofNat 64 (if a.toNat = 0 then 64 else 63 - Nat.log2 a.toNat)
def ctzGo (v : Nat) : Nat → Nat → Nat
  | 0, i => i
  | k + 1, i => if v.testBit i then i else ctzGo v k (i + 1)
def ctz64 (a : Word) : Word := BitVec.ofNat 64 (ctzGo a.toNat 64 0)
def popCount (v : Nat) : Nat → Nat
  | 0 => 0
  | k + 1 => popCount v k + (if v.testBit k then 1 else 0)
def cpop64 (a : Word) : Word := BitVec.ofNat 64 (popCount a.toNat 64)
def boolWord (b : Bool) : Word := if b then 1 else 0

/-- A byte offset of 2 × sext(imm) (R85). -/
def halfOff {n : Nat} (imm : BitVec n) : Word := sext64 imm * 2

/-- A branch: it waits for no taint and writes no register (R121, R126). -/
def branch (len : Nat) (c : Word → Word → Bool) (rs1 rs2 : BitVec 5) (off : Word) : M Unit := do
  let h ← getHart
  if c (h.xr rs1) (h.xr rs2) then retireTo (h.pc + off) else retire len

/-- A jump and link: the target is read before rd is written (R125). -/
def jump (len : Nat) (rd : BitVec 5) (target : Hart → Word) : M Unit := do
  let h ← getHart
  writeX rd (h.pc + BitVec.ofNat 64 len) noTaint
  retireTo (target h)

/-- `n` bytes extended to a register (R127). -/
def extendBytes (n : Nat) (signed : Bool) (bs : List Byte) : Word :=
  let v := leValue bs
  if signed then BitVec.ofNat 64 (ofSigned 64 (toSigned (8 * n) v)) else BitVec.ofNat 64 v

/-- A scalar load: its tag is taken before it reads, with rd = x0 too (R127, R129, R214). -/
def load (len n : Nat) (signed : Bool) (rd rs1 : BitVec 5) (off : Word) : M Unit := do
  let h ← getHart
  let addr := (h.xr rs1 + off).toNat
  if addr % n != 0 then trap 0 addr
  waitTaint [h.xt rs1]
  let tag ← takeTag
  let bs ← doAccess fun s => s.readVa addr n .read false true
  readNeeds tag addr
  writeX rd (extendBytes n signed bs) (← joinX [rs1] [tag])
  retire len

/-- A scalar store (R128, R129). -/
def store (len n : Nat) (rs1 rs2 : BitVec 5) (off : Word) : M Unit := do
  let h ← getHart
  let addr := (h.xr rs1 + off).toNat
  if addr % n != 0 then trap 0 addr
  waitTaint [h.xt rs1, h.xt rs2]
  doAccess fun s => s.writeVa addr (leBytesOf n (h.xr rs2).toNat) false (n == 1)
  retire len

/-- A compressed register code names x8 to x15 (R83). -/
def creg (r : BitVec 3) : BitVec 5 := BitVec.ofNat 5 (8 + r.toNat)

/-- ADDI (R122). -/
def execAddi (rd rs1 : BitVec 5) (imm : BitVec 11) (s : State) : Out :=
  settle (opImm 4 (fun a => a + sext64 imm) rd rs1) s

/-- SLTI (R122). -/
def execSlti (rd rs1 : BitVec 5) (imm : BitVec 11) (s : State) : Out :=
  settle (opImm 4 (fun a => boolWord (a.slt (sext64 imm))) rd rs1) s

/-- SLTIU (R122). -/
def execSltiu (rd rs1 : BitVec 5) (imm : BitVec 11) (s : State) : Out :=
  settle (opImm 4 (fun a => boolWord (a.ult (sext64 imm))) rd rs1) s

/-- ANDI (R122). -/
def execAndi (rd rs1 : BitVec 5) (imm : BitVec 11) (s : State) : Out :=
  settle (opImm 4 (fun a => a &&& sext64 imm) rd rs1) s

/-- ORI (R122). -/
def execOri (rd rs1 : BitVec 5) (imm : BitVec 11) (s : State) : Out :=
  settle (opImm 4 (fun a => a ||| sext64 imm) rd rs1) s

/-- XORI (R122). -/
def execXori (rd rs1 : BitVec 5) (imm : BitVec 11) (s : State) : Out :=
  settle (opImm 4 (fun a => a ^^^ sext64 imm) rd rs1) s

/-- SLLI (R122). -/
def execSlli (rd rs1 : BitVec 5) (sh : BitVec 6) (s : State) : Out :=
  settle (opImm 4 (fun a => a <<< sh.toNat) rd rs1) s

/-- SRLI (R122). -/
def execSrli (rd rs1 : BitVec 5) (sh : BitVec 6) (s : State) : Out :=
  settle (opImm 4 (fun a => a >>> sh.toNat) rd rs1) s

/-- SRAI (R122). -/
def execSrai (rd rs1 : BitVec 5) (sh : BitVec 6) (s : State) : Out :=
  settle (opImm 4 (fun a => a.sshiftRight sh.toNat) rd rs1) s

/-- ADD (R123). -/
def execAdd (rd rs1 rs2 : BitVec 5) (s : State) : Out :=
  settle (opReg 4 (fun a b => a + b) rd rs1 rs2) s

/-- SUB (R123). -/
def execSub (rd rs1 rs2 : BitVec 5) (s : State) : Out :=
  settle (opReg 4 (fun a b => a - b) rd rs1 rs2) s

/-- AND (R123). -/
def execAnd (rd rs1 rs2 : BitVec 5) (s : State) : Out :=
  settle (opReg 4 (fun a b => a &&& b) rd rs1 rs2) s

/-- OR (R123). -/
def execOr (rd rs1 rs2 : BitVec 5) (s : State) : Out :=
  settle (opReg 4 (fun a b => a ||| b) rd rs1 rs2) s

/-- XOR (R123). -/
def execXor (rd rs1 rs2 : BitVec 5) (s : State) : Out :=
  settle (opReg 4 (fun a b => a ^^^ b) rd rs1 rs2) s

/-- SLL (R123). -/
def execSll (rd rs1 rs2 : BitVec 5) (s : State) : Out :=
  settle (opReg 4 (fun a b => a <<< (b.toNat % 64)) rd rs1 rs2) s

/-- SRL (R123). -/
def execSrl (rd rs1 rs2 : BitVec 5) (s : State) : Out :=
  settle (opReg 4 (fun a b => a >>> (b.toNat % 64)) rd rs1 rs2) s

/-- SRA (R123). -/
def execSra (rd rs1 rs2 : BitVec 5) (s : State) : Out :=
  settle (opReg 4 (fun a b => a.sshiftRight (b.toNat % 64)) rd rs1 rs2) s

/-- SLT (R123). -/
def execSlt (rd rs1 rs2 : BitVec 5) (s : State) : Out :=
  settle (opReg 4 (fun a b => boolWord (a.slt b)) rd rs1 rs2) s

/-- SLTU (R123). -/
def execSltu (rd rs1 rs2 : BitVec 5) (s : State) : Out :=
  settle (opReg 4 (fun a b => boolWord (a.ult b)) rd rs1 rs2) s

/-- MIN (R123). -/
def execMin (rd rs1 rs2 : BitVec 5) (s : State) : Out :=
  settle (opReg 4 (fun a b => if a.slt b then a else b) rd rs1 rs2) s

/-- MAX (R123). -/
def execMax (rd rs1 rs2 : BitVec 5) (s : State) : Out :=
  settle (opReg 4 (fun a b => if a.slt b then b else a) rd rs1 rs2) s

/-- MINU (R123). -/
def execMinu (rd rs1 rs2 : BitVec 5) (s : State) : Out :=
  settle (opReg 4 (fun a b => if a.ult b then a else b) rd rs1 rs2) s

/-- MAXU (R123). -/
def execMaxu (rd rs1 rs2 : BitVec 5) (s : State) : Out :=
  settle (opReg 4 (fun a b => if a.ult b then b else a) rd rs1 rs2) s

/-- MUL (R123). -/
def execMul (rd rs1 rs2 : BitVec 5) (s : State) : Out :=
  settle (opReg 4 (fun a b => a * b) rd rs1 rs2) s

/-- MULH (R123). -/
def execMulh (rd rs1 rs2 : BitVec 5) (s : State) : Out :=
  settle (opReg 4 (mulh64) rd rs1 rs2) s

/-- MULHU (R123). -/
def execMulhu (rd rs1 rs2 : BitVec 5) (s : State) : Out :=
  settle (opReg 4 (mulhu64) rd rs1 rs2) s

/-- DIV (R123). -/
def execDiv (rd rs1 rs2 : BitVec 5) (s : State) : Out :=
  settle (opReg 4 (sdiv64) rd rs1 rs2) s

/-- DIVU (R123). -/
def execDivu (rd rs1 rs2 : BitVec 5) (s : State) : Out :=
  settle (opReg 4 (udiv64) rd rs1 rs2) s

/-- REM (R123). -/
def execRem (rd rs1 rs2 : BitVec 5) (s : State) : Out :=
  settle (opReg 4 (srem64) rd rs1 rs2) s

/-- REMU (R123). -/
def execRemu (rd rs1 rs2 : BitVec 5) (s : State) : Out :=
  settle (opReg 4 (urem64) rd rs1 rs2) s

/-- CLZ (R123). -/
def execClz (rd rs1 : BitVec 5) (s : State) : Out :=
  settle (opImm 4 clz64 rd rs1) s

/-- CTZ (R123). -/
def execCtz (rd rs1 : BitVec 5) (s : State) : Out :=
  settle (opImm 4 ctz64 rd rs1) s

/-- CPOP (R123). -/
def execCpop (rd rs1 : BitVec 5) (s : State) : Out :=
  settle (opImm 4 cpop64 rd rs1) s

/-- LUI (R124): its taint is empty. -/
def execLui (rd : BitVec 5) (imm : BitVec 19) (s : State) : Out :=
  settle (do writeX rd (sext64 imm <<< 11) noTaint; retire 4) s

/-- AUIPC (R124): from its own address. -/
def execAuipc (rd : BitVec 5) (imm : BitVec 19) (s : State) : Out :=
  settle (do writeX rd ((← getHart).pc + (sext64 imm <<< 11)) noTaint; retire 4) s

/-- JAL (R125). -/
def execJal (rd : BitVec 5) (imm : BitVec 19) (s : State) : Out :=
  settle (jump 4 rd fun h => h.pc + halfOff imm) s

/-- JALR (R125). -/
def execJalr (rd rs1 : BitVec 5) (imm : BitVec 11) (s : State) : Out :=
  settle (jump 4 rd fun h => (h.xr rs1 + sext64 imm) &&& ~~~ 1#64) s

/-- BEQ (R126). -/
def execBeq (rs1 rs2 : BitVec 5) (imm : BitVec 11) (s : State) : Out :=
  settle (branch 4 (fun a b => a == b) rs1 rs2 (halfOff imm)) s

/-- BNE (R126). -/
def execBne (rs1 rs2 : BitVec 5) (imm : BitVec 11) (s : State) : Out :=
  settle (branch 4 (fun a b => a != b) rs1 rs2 (halfOff imm)) s

/-- BLT (R126). -/
def execBlt (rs1 rs2 : BitVec 5) (imm : BitVec 11) (s : State) : Out :=
  settle (branch 4 (fun a b => a.slt b) rs1 rs2 (halfOff imm)) s

/-- BGE (R126). -/
def execBge (rs1 rs2 : BitVec 5) (imm : BitVec 11) (s : State) : Out :=
  settle (branch 4 (fun a b => !a.slt b) rs1 rs2 (halfOff imm)) s

/-- BLTU (R126). -/
def execBltu (rs1 rs2 : BitVec 5) (imm : BitVec 11) (s : State) : Out :=
  settle (branch 4 (fun a b => a.ult b) rs1 rs2 (halfOff imm)) s

/-- BGEU (R126). -/
def execBgeu (rs1 rs2 : BitVec 5) (imm : BitVec 11) (s : State) : Out :=
  settle (branch 4 (fun a b => !a.ult b) rs1 rs2 (halfOff imm)) s

/-- LD (R127). -/
def execLd (rd rs1 : BitVec 5) (imm : BitVec 11) (s : State) : Out :=
  settle (load 4 8 true rd rs1 (sext64 imm)) s

/-- LW (R127). -/
def execLw (rd rs1 : BitVec 5) (imm : BitVec 11) (s : State) : Out :=
  settle (load 4 4 true rd rs1 (sext64 imm)) s

/-- LH (R127). -/
def execLh (rd rs1 : BitVec 5) (imm : BitVec 11) (s : State) : Out :=
  settle (load 4 2 true rd rs1 (sext64 imm)) s

/-- LB (R127). -/
def execLb (rd rs1 : BitVec 5) (imm : BitVec 11) (s : State) : Out :=
  settle (load 4 1 true rd rs1 (sext64 imm)) s

/-- LWU (R127). -/
def execLwu (rd rs1 : BitVec 5) (imm : BitVec 11) (s : State) : Out :=
  settle (load 4 4 false rd rs1 (sext64 imm)) s

/-- LHU (R127). -/
def execLhu (rd rs1 : BitVec 5) (imm : BitVec 11) (s : State) : Out :=
  settle (load 4 2 false rd rs1 (sext64 imm)) s

/-- LBU (R127). -/
def execLbu (rd rs1 : BitVec 5) (imm : BitVec 11) (s : State) : Out :=
  settle (load 4 1 false rd rs1 (sext64 imm)) s

/-- SD (R128). -/
def execSd (rs1 rs2 : BitVec 5) (imm : BitVec 11) (s : State) : Out :=
  settle (store 4 8 rs1 rs2 (sext64 imm)) s

/-- SW (R128). -/
def execSw (rs1 rs2 : BitVec 5) (imm : BitVec 11) (s : State) : Out :=
  settle (store 4 4 rs1 rs2 (sext64 imm)) s

/-- SH (R128). -/
def execSh (rs1 rs2 : BitVec 5) (imm : BitVec 11) (s : State) : Out :=
  settle (store 4 2 rs1 rs2 (sext64 imm)) s

/-- SB (R128). -/
def execSb (rs1 rs2 : BitVec 5) (imm : BitVec 11) (s : State) : Out :=
  settle (store 4 1 rs1 rs2 (sext64 imm)) s

/-! ### The compressed forms: the expansion, with a length of 2 (R100) -/

/-- C.LI: ADDI rd, x0, imm5 (R100). -/
def execCLi (rd : BitVec 5) (imm : BitVec 5) (s : State) : Out :=
  settle (opImm 2 (fun a => a + sext64 imm) rd 0) s

/-- C.ADDI: ADDI rd, rd, imm5 (R100). -/
def execCAddi (rd : BitVec 5) (imm : BitVec 5) (s : State) : Out :=
  settle (opImm 2 (fun a => a + sext64 imm) rd rd) s

/-- C.MV: ADD rd, x0, rs (R100). -/
def execCMv (rd rs : BitVec 5) (s : State) : Out :=
  settle (opReg 2 (fun a b => a + b) rd 0 rs) s

/-- C.ADD: ADD rd, rd, rs (R100). -/
def execCAdd (rd rs : BitVec 5) (s : State) : Out :=
  settle (opReg 2 (fun a b => a + b) rd rd rs) s

/-- C.LD: LD rd, off(rs1) (R100). -/
def execCLd (rd rs1 : BitVec 3) (off : BitVec 4) (s : State) : Out :=
  settle (load 2 8 true (creg rd) (creg rs1) (BitVec.ofNat 64 (8 * off.toNat))) s

/-- C.SD: SD rs2, off(rs1) (R100). -/
def execCSd (rs2 rs1 : BitVec 3) (off : BitVec 4) (s : State) : Out :=
  settle (store 2 8 (creg rs1) (creg rs2) (BitVec.ofNat 64 (8 * off.toNat))) s

/-- C.J: JAL x0, off (R100). -/
def execCJ (off : BitVec 10) (s : State) : Out :=
  settle (jump 2 0 fun h => h.pc + halfOff off) s

/-- C.BEQZ: BEQ rs1, x0, off (R100). -/
def execCBeqz (rs1 : BitVec 3) (off : BitVec 7) (s : State) : Out :=
  settle (branch 2 (fun a b => a == b) (creg rs1) 0 (halfOff off)) s

/-- C.BNEZ: BNE rs1, x0, off (R100). -/
def execCBnez (rs1 : BitVec 3) (off : BitVec 7) (s : State) : Out :=
  settle (branch 2 (fun a b => a != b) (creg rs1) 0 (halfOff off)) s

/-- C.JR: JALR x0, 0(rs1) (R100). -/
def execCJr (rs1 : BitVec 5) (s : State) : Out :=
  settle (jump 2 0 fun h => h.xr rs1 &&& ~~~ 1#64) s

/-- C.NOP: ADDI x0, x0, 0 (R100). -/
def execCNop  (s : State) : Out :=
  settle (opImm 2 (fun a => a + 0) 0 0) s

end Sys2Proof.Machine
end

