-- ==== Sys2Proof/Machine/VecMem.lean ====
section
/-! DEFINITION. Vector memory: loads, stores, scatter-add, compressed chunks, append and hash accumulation
(08_vector_data R173 to R190). -/

namespace Sys2Proof.Machine

/-! ### The course of a vector memory instruction (R176, R177) -/

/-- The answers that other devices gave to the element just completed leave: an equal access of a later element is made anew (R178). -/
def State.dropOwn (s : State) : State :=
  if s.me.remote.all fun r => r.ticket != 0 then s else s.mapMe fun h => { h with remote := h.remote.filter fun r => r.ticket != 0 }
/-- The active elements in ascending order, each checked and performed; the answer is the first that failed. A pass in this
order performs every element below the failing one and none at or above it, as R176 asks. -/
def memLoop (f : Nat → State → State × Except AccFault Unit) : List Nat → State → State × Option (Nat × AccFault)
  | [], s => (s, none)
  | i :: r, s =>
    match f i s with
    | (s, .ok ()) => memLoop f r s.dropOwn
    | (s, .error e) => (s, some (i, e))

/-- The chute elements of a stopped or completed instruction consumed (R177). -/
def consumeChute (q : Option Nat) (sz n : Nat) : M Unit :=
  match q with
  | some q => modCrew fun x => x.mapChute q fun x => x.consume sz n
  | none => pure ()

/-- The pinned reads of elements already complete are performed when the rest must wait on another device (R176). -/
def settleReads : M Unit := modState fun s => s.enterAll (s.needsOf (hartView s.cur)) (hartView s.cur)

/-- A vector memory instruction (R173 to R178): `r` its registers, `q` the chute its operand comes from, `ff` the fault-only-first form,
`tagged` whether it takes a tag. `elem h c i` checks and performs active element i, c the chute at issue; `reads h c i` names the register
elements it reads. A wait on another device leaves vstart at the waiting element, but the first element of the instruction, by which
R181 goes, stays the one it was issued at. -/
def vmemRun (r : VRegs) (q : Option Nat) (ff tagged : Bool) (legal : Hart → Bool)
    (elem : Hart → Option Chute → Nat → State → State × Except AccFault Unit)
    (reads : Hart → Option Chute → Nat → List (BitVec 5 × Nat × Nat)) (readsChute : Bool) : M Unit := do
  vecIssue legal
  let h ← getHart
  if h.vst ≥ h.vln then vecEmpty r
  else
    waitTaint (h.vecSources r)
    let (n, c) ← chuteTrim q
    let first ← beginRun
    modHart fun x => x.markDirty r
    let h ← getHart
    let rng := (idxRange h.vst n).filter (h.maskOn r.km)
    let poison (i : Nat) : Bool :=
      anyBad h (reads h c i) || (match c with | some c => readsChute && c.elemBad h.ew (i - h.vst) | none => false)
    if c.isSome then
      match rng.find? poison with
      | some i => trapReg 9 i
      | none => pure ()
    let srcs := h.vecSources r
    let full := h.wholeReg r && n = h.vln
    let own1 ← popTag c
    trimVl n own1
    let done ← (if tagged then do return uniq (own1 ++ [← takeTag]) else return own1)
    let f (i : Nat) (s : State) : State × Except AccFault Unit :=
      if anyBad h (reads h c i) then (s, .error (.cause 0x109 i)) else elem h c i s
    let stop ← liftOp fun s => memLoop f rng s
    if tagged then let _ ← readTag
    match stop with
    | none =>
      consumeChute q h.ew (n - h.vst)
      noteLatent r h fun _ => rng.flatMap (reads h c)
      vecDone r full done srcs
    | some (i, e) =>
      let cut := if h.bl = 0 then i else i - i % h.bl
      if ff && i > first && cut > first && e != .wait then
        modHart fun x => { x with vl := BitVec.ofNat 12 cut, taintVl := unionTaint x.issued done [x.taintVl] }
        vecDone r false done srcs
      else
        consumeChute q h.ew (i - h.vst)
        modHart fun x => { x with vstart := BitVec.ofNat 12 i }
        match e with
        | .cause 0x109 a => trapReg 9 a
        | .cause c a => trap c a
        | .wait => do settleReads; stall .remote

/-! ### Element accesses -/

/-- The fault of the second part of an access: the element's own address, but for the line address of cause 8 (R176, R395). -/
def AccFault.at' (va : Nat) : AccFault → AccFault
  | .cause 8 a => .cause 8 a
  | .cause c _ => .cause c va
  | .wait => .wait
/-- Bytes read one page at a time (a TAP6 element or a bitmap may cross a page boundary, R78). -/
def State.readSpan (s : State) (va n : Nat) (log : Bool) : State × Except AccFault (List Byte) :=
  let first := 0x1_0000 - va % 0x1_0000
  if n ≤ first then s.readVa va n .read true log
  else
    match s.readVa va first .read true log with
    | (s, .error e) => (s, .error e)
    | (s, .ok a) =>
      match s.readVa ((va + first) % 2 ^ 64) (n - first) .read true log with
      | (s, .error e) => (s, .error (e.at' va))
      | (s, .ok b) => (s, .ok (a ++ b))

/-- Bytes written one page at a time. -/
def State.writeSpan (s : State) (va : Nat) (bytes : List Byte) (narrow : Bool) : State × Except AccFault Unit :=
  let first := 0x1_0000 - va % 0x1_0000
  if bytes.length ≤ first then s.writeVa va bytes true narrow
  else
    match s.writeVa va (bytes.take first) true narrow with
    | (s, .error e) => (s, .error e)
    | (s, .ok ()) => s.writeVa ((va + first) % 2 ^ 64) (bytes.drop first) true narrow

/-- An address at another device pinned for a store: the host's translation held with the right to write, or waited for; a peer reached
by some port (R187, R436, R439, R445). -/
def State.pinRemote (s : State) (dev pa : Nat) : State × Except AccFault Bool :=
  let ctx := bits s.me.sxlat.toNat 63 48
  if dev = 255 then
    match s.atc.find? fun e => e.pasid = ctx && e.page = pa / 4096 with
    | some e => (s, .ok (e.write && !(s.ctxWorld ctx ≠ 0 && (s.worldAt (s.ctxWorld ctx)).tdi = 3)))
    | none =>
      match s.remoteAccess s.cur 0 ctx 255 (.write pa []) with
      | (s, .error f) => (s, .error f)
      | (s, .ok r) => (s, .ok r.isSome)
  else (s, .ok (s.portFor dev pa).isSome)

/-- The answer of another device to an access of the hart at `va`, or its error response. -/
def answerVa {α : Type} (va : Nat) (f : List Byte → α) (r : State × Except AccFault (Option (List Byte))) : State × Except AccFault α :=
  match r with
  | (s, .error e) => (s, .error e)
  | (s, .ok (some d)) => (s, .ok (f d))
  | (s, .ok none) => (s.logAccess 1 va, .error (.cause 1 va))
/-- The answers to two requests dropped: they are made again. -/
def State.askAgain (s : State) (a b : FlitBody) : State :=
  s.mapMe fun h => { h with remote := h.remote.filter fun r => !(r.own && (r.body == a || r.body == b)) }
/-- The bits of `mask` replaced in bytes of one 8-byte word of host memory: the host link has no bit mask, so the word is read and moved from
what was read by AMOCAS, again until no other agent's write comes between (R48, R439, log 65). -/
def State.hostMask (s : State) (ctx va pa mask v : Nat) : State × Except AccFault Unit :=
  let word := pa / 8 * 8
  let sh := 2 ^ (8 * (pa % 8))
  match answerVa va leValue (s.remoteAccess s.cur 0 ctx 255 (.read word 8)) with
  | (s, .error e) => (s, .error e)
  | (s, .ok old) =>
    let new := (old &&& (2 ^ 64 - 1 - mask * sh)) ||| ((v &&& mask) * sh)
    let swap : FlitBody := .amo word true 9 (BitVec.ofNat 64 new) (BitVec.ofNat 64 old)
    match answerVa va leValue (s.remoteAccess s.cur 0 ctx 255 swap) with
    | (s, .error e) => (s, .error e)
    | (s, .ok was) => if was = old then (s, .ok ()) else (s.askAgain (.read word 8) swap, .error .wait)
/-- `n` bytes, one or two of one page, with the bits of `mask` replaced at their home, indivisibly with respect to other writes of a byte
(R48). Of two bytes in two words of host memory the second word is read before the first is written. -/
def State.maskBytes (s : State) (va n mask v : Nat) : State × Except AccFault Unit :=
  let rq := s.reqFor s.cur
  let merge (old : Nat) : List Byte := leBytesOf n ((old &&& (2 ^ (8 * n) - 1 - mask)) ||| (v &&& mask))
  match s.locate rq va .write with
  | (s, .ok (.local pa)) => s.writeVa va (merge (s.homeNat pa n)) true true
  | (s, .ok (.remote 255 pa)) =>
    if pa % 8 + n ≤ 8 then s.hostMask rq.ctx va pa mask v
    else match answerVa va leValue (s.remoteAccess s.cur 0 rq.ctx 255 (.read ((pa + 1) / 8 * 8) 8)) with
      | (s, .error e) => (s, .error e)
      | (s, .ok _) =>
        match s.hostMask rq.ctx va pa (mask % 256) (v % 256) with
        | (s, .ok ()) => s.hostMask rq.ctx va (pa + 1) (mask / 256) (v / 256)
        | e => e
  | (s, .ok (.remote dev pa)) =>
    answerVa va (fun _ => ()) (s.remoteAccess s.cur 0 rq.ctx dev (.writeBits pa (BitVec.ofNat 16 mask) (BitVec.ofNat 16 v)))
  | (s, _) => s.writeVa va (List.replicate n 0) true true

/-- Whether one byte would take a masked write: the checks of this module, the host's translation and a read of its word, or a masked write
of no bits at a peer (R48, R55, log 112). -/
def State.maskProbe (s : State) (va : Nat) : State × Except AccFault Unit :=
  let rq := s.reqFor s.cur
  let refuse (s : State) : State × Except AccFault Unit := (s.logAccess 1 va, .error (.cause 1 va))
  match s.locate rq va .write with
  | (s, .error 1) => refuse s
  | (s, .error c) => (s, .error (.cause c va))
  | (s, .ok (.local pa)) =>
    if s.writeRefused rq.world pa 1 then refuse (s.noteSpent rq.world pa 1)
    else match s.macFault true 1 pa 1 va with
      | (s, some (c, a)) => (s, .error (.cause c a))
      | (s, none) => (s, .ok ())
  | (s, .ok (.remote 255 pa)) =>
    match s.pinRemote 255 pa with
    | (s, .error e) => (s, .error e)
    | (s, .ok false) => refuse s
    | (s, .ok true) => answerVa va (fun _ => ()) (s.remoteAccess s.cur 0 rq.ctx 255 (.read (pa / 8 * 8) 8))
  | (s, .ok (.remote dev pa)) => answerVa va (fun _ => ()) (s.remoteAccess s.cur 0 rq.ctx dev (.writeBits pa 0 0))
  | (s, .ok _) => refuse s
/-- A TAP6 element whose two bytes lie in two pages: neither is written before both have passed their checks, one in this module after one at
another device, and a fault of the second gives the element's address (R55, R176, log 112). -/
def State.maskSplit (s : State) (lo mask v : Nat) : State × Except AccFault Unit :=
  let lo := lo % 2 ^ 64
  let hi := (lo + 1) % 2 ^ 64
  let low (s : State) := s.maskBytes lo 1 (mask % 256) (v % 256)
  let high (s : State) : State × Except AccFault Unit :=
    match s.maskBytes hi 1 (mask / 256) (v / 256) with
    | (s, .error e) => (s, .error (e.at' lo))
    | r => r
  let andThen (r : State × Except AccFault Unit) (f : State → State × Except AccFault Unit) : State × Except AccFault Unit :=
    match r with
    | (s, .ok ()) => f s
    | r => r
  match s.maskProbe lo with
  | (s, .error e) => (s, .error e)
  | (s, .ok ()) =>
    match s.maskProbe hi with
    | (s, .error e) => (s, .error (e.at' lo))
    | (s, .ok ()) =>
      match s.locate (s.reqFor s.cur) lo .write with
      | (s, .ok (.local _)) => andThen (high s) low
      | (s, _) => andThen (low s) high

/-- An element of s bits at address `a` (TAP6: element i of the bit stream from a) loaded into vd (R48, R179). -/
def State.loadElem (s : State) (vd : BitVec 5) (w a i : Nat) (log : Bool) : State × Except AccFault Unit :=
  if w = 6 then
    let lo := a + 6 * i / 8
    let hi := a + (6 * i + 5) / 8
    match s.readSpan (lo % 2 ^ 64) (hi + 1 - lo) log with
    | (s, .error e) => (s, .error e)
    | (s, .ok bs) => (s.mapMe fun h => h.setElem vd 6 i (leValue bs / 2 ^ (6 * i % 8)), .ok ())
  else if a % (w / 8) != 0 then (s, .error (.cause 0 a))
  else
    match s.readVa a (w / 8) .read true log with
    | (s, .error e) => (s, .error e)
    | (s, .ok bs) => (s.mapMe fun h => h.setElem vd w i (leValue bs), .ok ())

/-- An element of s bits stored (R48, R184). -/
def State.storeElem (s : State) (w a i v : Nat) (narrow : Bool) : State × Except AccFault Unit :=
  if w = 6 then
    let lo := a + 6 * i / 8
    let sh := 6 * i % 8
    if sh > 2 && lo % 0x1_0000 = 0xFFFF then s.maskSplit lo (63 * 2 ^ sh) (v * 2 ^ sh)
    else s.maskBytes (lo % 2 ^ 64) (if sh ≤ 2 then 1 else 2) (63 * 2 ^ sh) (v * 2 ^ sh)
  else if a % (w / 8) != 0 then (s, .error (.cause 0 a))
  else s.writeVa a (leBytesOf (w / 8) v) true narrow

/-- The addresses of R175: unit-stride, strided with a signed stride, indexed by an unsigned element. -/
def unitAddr (h : Hart) (rs1 : BitVec 5) (i : Nat) : Nat :=
  if h.ew = 6 then (h.xr rs1).toNat else ((h.xr rs1).toNat + h.ew / 8 * i) % 2 ^ 64
def strideAddr (h : Hart) (rs1 rs2 : BitVec 5) (i : Nat) : Nat :=
  ((h.xr rs1).toNat + (h.xr rs2).toNat * i) % 2 ^ 64
/-- Element i of the index: from the chute, or from the index register. -/
def indexOf (h : Hart) (c : Option Chute) (vs2 : BitVec 5) (i : Nat) : Nat :=
  match c with
  | some c => c.elem h.ew (i - h.vst)
  | none => h.elem vs2 h.ew i
def idxAddr (h : Hart) (c : Option Chute) (rs1 vs2 : BitVec 5) (i : Nat) : Nat :=
  ((h.xr rs1).toNat + h.ew / 8 * indexOf h c vs2 i) % 2 ^ 64

/-- The chute of a memory form (R94). -/
def memChute (ok : BitVec 2) (f : BitVec 5) : Option Nat := if ok = 2 then some (f.toNat % 16) else none
/-- The SEW of the indexed forms (R174). -/
def isWide (h : Hart) : Bool := 1 ≤ h.sew && h.sew ≤ 6
/-- Element i of a register is read. -/
def regRead (r : BitVec 5) (h : Hart) (i : Nat) : List (BitVec 5 × Nat × Nat) := [(r, h.ew, i)]
/-- Element i of an index or data register is read, unless it comes from a chute. -/
def idxRead (ok : BitVec 2) (r : BitVec 5) (h : Hart) (i : Nat) : List (BitVec 5 × Nat × Nat) := if ok = 2 then [] else [(r, h.ew, i)]

/-- A load element in an order: ordered, only once every earlier element has been performed (R178). -/
def State.loadOrdered (s : State) (ordered : Bool) (f : State → State × Except AccFault Unit) : State × Except AccFault Unit :=
  f (if ordered then s.enterAll (s.needsOf (hartView s.cur)) (hartView s.cur) else s)

/-! ### Loads (R179 to R183) -/

/-- VLE (R179). -/
def execVle (ok : BitVec 2) (km : BitVec 3) (rs1 vd : BitVec 5) (s : State) : Out :=
  settle (vmemRun { km := km, srcX := [rs1], dstV := [vd] } none false true (fun _ => true)
      (fun h _ i s => s.loadOrdered (ok == 1 && h.vst < i) fun s => s.loadElem vd h.ew (unitAddr h rs1 i) i true) (fun _ _ _ => []) false) s
/-- VLSE (R179). -/
def execVlse (ok : BitVec 2) (km : BitVec 3) (rs2 rs1 vd : BitVec 5) (s : State) : Out :=
  settle (vmemRun { km := km, srcX := [rs1, rs2], dstV := [vd] } none false true Hart.isPacked
      (fun h _ i s => s.loadOrdered (ok == 1 && h.vst < i) fun s => s.loadElem vd h.ew (strideAddr h rs1 rs2 i) i true) (fun _ _ _ => []) false) s
/-- VLXE (R179): vd differs from the index register (R175). -/
def execVlxe (ok : BitVec 2) (km : BitVec 3) (vs2 rs1 vd : BitVec 5) (s : State) : Out :=
  settle (vmemRun { km := km, srcV := if ok = 2 then [] else [vs2], srcX := [rs1], dstV := [vd] } (memChute ok vs2) false true
    (fun h => isWide h && (ok = 2 || vd != vs2))
    (fun h c i s => s.loadOrdered (ok == 1 && h.vst < i) fun s => s.loadElem vd h.ew (idxAddr h c rs1 vs2 i) i true)
    (fun h _ => idxRead ok vs2 h) true) s
/-- VLXB (R180): an index at or above the bound in x[rs1 + 1] is cause 10. -/
def execVlxb (ok : BitVec 2) (km : BitVec 3) (vs2 rs1 vd : BitVec 5) (s : State) : Out :=
  settle (vmemRun { km := km, srcV := if ok = 2 then [] else [vs2], srcX := [rs1, rs1 + 1], dstV := [vd] } (memChute ok vs2) false true
    (fun h => isWide h && (ok = 2 || vd != vs2) && rs1.toNat % 2 = 0 && 2 ≤ rs1.toNat && rs1.toNat ≤ 30)
    (fun h c i s =>
      if indexOf h c vs2 i ≥ (h.xr (rs1 + 1)).toNat then (s, .error (.cause 10 (indexOf h c vs2 i)))
      else s.loadOrdered (ok == 1 && h.vst < i) fun s => s.loadElem vd h.ew (idxAddr h c rs1 vs2 i) i true)
    (fun h _ => idxRead ok vs2 h) true) s
/-- The element the instruction in hand was issued at. -/
def Hart.first (h : Hart) : Nat := (h.run.map Run.first).getD h.vst
/-- VLEFF (R181): a failed check above vstart trims vl and logs nothing (R346). -/
def execVleff (ok : BitVec 2) (km : BitVec 3) (rs1 vd : BitVec 5) (s : State) : Out :=
  settle (vmemRun { km := km, srcX := [rs1], dstV := [vd] } none true true (fun _ => true)
      (fun h _ i s => s.loadOrdered (ok == 1 && h.vst < i) fun s =>
        s.loadElem vd h.ew (unitAddr h rs1 i) i (i == s.me.first || (h.bl != 0 && i - i % h.bl ≤ s.me.first)))
      (fun _ _ _ => []) false) s

/-- VLCB (R183). A table of which T is only 4-aligned puts a chunk at an address that 16 does not divide: R183 checks no alignment of the
bitmap, and it is read there (log 110). -/
def execVlcb (km : BitVec 3) (rs2 rs1 vd : BitVec 5) (s : State) : Out :=
  settle (vmemRun { km := km, srcX := [rs1, rs2], dstV := [vd] } none false true Hart.isPacked
    (fun h _ i s =>
      let t := (h.xr rs1).toNat
      let b := h.ew / 8
      let e := (h.xr rs2).toNat + i
      let ea := (t + 4 * (e / 128)) % 2 ^ 64
      if t % 4 != 0 then (s, .error (.cause 0 t))
      else match s.readVa ea 4 .read true true with
        | (s, .error f) => (s, .error f)
        | (s, .ok eb) =>
          if leValue eb % 16 != 0 then (s, .error (.cause 0 ea))
          else
            let base := (t + leValue eb) % 2 ^ 64
            match s.readSpan base 16 true with
            | (s, .error f) => (s, .error f)
            | (s, .ok bb) =>
              let bm := leValue bb
              if bm.testBit (e % 128) then
                s.loadElem vd h.ew ((base + 16 + b * popCount (bm % 2 ^ (e % 128)) 128) % 2 ^ 64) i true
              else (s.mapMe fun x => x.setElem vd h.ew i 0, .ok ()))
    (fun _ _ _ => []) false) s

/-! ### Stores (R184) -/

/-- A store is narrow as to tolerant pages: SEW int8 or narrow (R53). -/
def narrowStore (h : Hart) : Bool := h.sew = 0 || h.sew = 7

/-- An earlier active element of this run wrote the same virtual address. Of two elements that reach one byte by two virtual pages R178 leaves
open which is final as well, and here the higher one is (log 126). -/
def writtenBefore (km : BitVec 3) (h : Hart) (addr : Nat → Nat) (i : Nat) : Bool :=
  (idxRange h.vst i).any fun j => h.maskOn km j && addr j == addr i

/-- The executing hart's vector writes. -/
def State.ownVec (s : State) (w : WriteRec) : Bool :=
  match w.who with
  | .hart h v => h == s.cur.val && v
  | _ => false

/-- A store element in an order: ordered, after every earlier element is performed; unordered, where an earlier element wrote
the same bytes a free value says which of the two is final (R178, log 2). -/
def State.storeOrdered (s : State) (ordered clash : Bool) (f : State → State × Except AccFault Unit) : State × Except AccFault Unit :=
  if ordered then f (s.performWhere s.ownVec 4)
  else if clash then
    let (n, s) := s.draw
    if Config.freeBit n then f s else (s, .ok ())
  else f s

/-- VSE (R184). -/
def execVse (ok : BitVec 2) (km : BitVec 3) (rs1 vd : BitVec 5) (s : State) : Out :=
  settle (vmemRun { km := km, srcV := if ok = 2 then [] else [vd], srcX := [rs1] } (memChute ok vd) false false (fun _ => true)
    (fun h c i s => s.storeOrdered (ok == 1) false fun s =>
      s.storeElem h.ew (unitAddr h rs1 i) i (indexOf h c vd i) (narrowStore h))
    (fun h _ => idxRead ok vd h) true) s
/-- VSSE (R184). -/
def execVsse (ok : BitVec 2) (km : BitVec 3) (rs2 rs1 vd : BitVec 5) (s : State) : Out :=
  settle (vmemRun { km := km, srcV := if ok = 2 then [] else [vd], srcX := [rs1, rs2] } (memChute ok vd) false false Hart.isPacked
    (fun h c i s => s.storeOrdered (ok == 1) (writtenBefore km h (strideAddr h rs1 rs2) i) fun s =>
      s.storeElem h.ew (strideAddr h rs1 rs2 i) i (indexOf h c vd i) (narrowStore h))
    (fun h _ => idxRead ok vd h) true) s
/-- VSXE (R184). -/
def execVsxe (ok : BitVec 2) (km : BitVec 3) (vs2 rs1 vd : BitVec 5) (s : State) : Out :=
  settle (vmemRun { km := km, srcV := if ok = 2 then [vd] else [vd, vs2], srcX := [rs1] } (memChute ok vs2) false false isWide
    (fun h c i s => s.storeOrdered (ok == 1) (writtenBefore km h (idxAddr h c rs1 vs2) i) fun s =>
      s.storeElem h.ew (idxAddr h c rs1 vs2 i) i (h.elem vd h.ew i) (narrowStore h))
    (fun h _ i => regRead vd h i ++ idxRead ok vs2 h i) true) s

/-! ### Bank adds (R185) -/

/-- The add of R185 on s bits: wrapping for integers, RNE without flags for floats. -/
def bankAdd (sew s a b : Nat) : Nat :=
  if sew ≤ 3 then (a + b) % 2 ^ s
  else (packVal (sewFmt sew) .rne (addVal .rne (decodeIeee (sewFmt sew) true a) (decodeIeee (sewFmt sew) true b)).1).1

/-- Poison or a MAC failure met at a bank: no trap; the word stays or becomes poisoned, and the event enters both logs (R185). -/
def State.bankFault (s : State) (pa n va : Nat) : Option State :=
  let bad := (linesOf pa n).find? fun l => s.poisoned (l * 64) || s.macBad (l * 64)
  match bad with
  | none => none
  | some l =>
    let isP := s.poisoned (l * 64)
    let ctx := bits s.me.sxlat.toNat 63 48
    let s := ({ s with poison := SMap.set false s.poison l true }).logError (if isP then 5 else 15) (unitOf (l * 64)) (s.locOf (l * 64)) ctx (l * 64)
    some (s.logViolation ⟨ctx, 4, 1, if isP then 9 else 8, crewOf s.cur, false, s.me.pc.toNat, va⟩)

/-- The op code a bank add travels with to another device: AMOADD for integers, the model's 12 to 14 for floats (log 18). -/
def remoteAddOp (sew : Nat) : BitVec 4 := if sew ≤ 3 then 1 else if sew = 4 then 12 else if sew = 5 then 13 else 14

/-- One scatter-add at the word's bank (R185). -/
def State.addElem (s : State) (sew w a v : Nat) : State × Except AccFault Unit :=
  let rq := s.reqFor s.cur
  let n := w / 8
  let refuse (s : State) : State × Except AccFault Unit := (s.logAccess 1 a, .error (.cause 1 a))
  if a % n != 0 then (s, .error (.cause 0 a))
  else match s.locate rq a .write with
    | (s, .error 1) => refuse s
    | (s, .error c) => (s, .error (.cause c a))
    | (s, .ok (.chute _)) => refuse s
    | (s, .ok (.tolerant _ _)) => refuse s
    | (s, .ok (.remoteTol _ _ _)) => refuse s
    | (s, .ok (.local pa)) =>
      if s.writeRefused rq.world pa n then refuse (s.noteSpent rq.world pa n)
      else match s.bankFault pa n a with
        | some s => (s, .ok ())
        | none =>
          match s.storeAt rq.world (.hart s.cur true) pa (leBytesOf n (bankAdd sew w (s.homeNat pa n) v)) 0 with
          | none => refuse s
          | some s => (s, .ok ())
    | (s, .ok (.remote dev pa)) =>
      match s.remoteAccess s.cur 0 (bits s.me.sxlat.toNat 63 48) dev (.amo pa (n == 8) (remoteAddOp sew) (BitVec.ofNat 64 v) 0) with
      | (s, .error f) => (s, .error f)
      | (s, .ok (some _)) => (s, .ok ())
      | (s, .ok none) => refuse s

/-- VSCADD (R185): adds of one instruction apply in ascending element order, and with ok 01 each is performed before the next (R178). -/
def execVscadd (ok : BitVec 2) (km : BitVec 3) (vs2 rs1 vd : BitVec 5) (s : State) : Out :=
  settle (vmemRun { km := km, srcV := if ok = 2 then [vd] else [vd, vs2], srcX := [rs1] } (memChute ok vs2) false false
    (fun h => 2 ≤ h.sew && h.sew ≤ 6)
    (fun h c i s => s.storeOrdered (ok == 1) false fun s => s.addElem h.sew h.ew (idxAddr h c rs1 vs2 i) (h.elem vd h.ew i))
    (fun h _ i => regRead vd h i ++ idxRead ok vs2 h i) true) s

/-! ### Compressed chunks (R182, R186) -/

/-- The bytes of a chunk: the bitmap and the non-zero values in ascending order (R182). -/
def chunkBytes (b : Nat) (vals : List Nat) : List Byte × List Byte :=
  let bm := (vals.zipIdx).foldl (fun a e => if e.1 = 0 then a else a + 2 ^ e.2) 0
  (leBytesOf 16 bm, (vals.filter (· != 0)).flatMap (leBytesOf b))

/-- One chunk written: entry c read, bitmap and values, and once these are performed entry c + 1 (R186). An entry on a poisoned line is
cause 9, and values that b would not divide are cause 0 at base + 16: R176 and R186 name neither for VSCB (log 110). -/
def State.writeChunk (s : State) (t b : Nat) (narrow : Bool) (c : Nat) (vals : List Nat) : State × Except AccFault Unit :=
  let ea := (t + 4 * c) % 2 ^ 64
  match s.readVa ea 4 .read true true with
  | (s, .error f) => (s, .error f)
  | (s, .ok eb) =>
    let entry := leValue eb
    if entry % 16 != 0 then (s, .error (.cause 0 ea))
    else
      let base := (t + entry) % 2 ^ 64
      let (bm, vs) := chunkBytes b vals
      if (base + 16) % b != 0 && !vs.isEmpty then (s, .error (.cause 0 (base + 16)))
      else match s.writeSpan base (bm ++ vs) narrow with
        | (s, .error f) => (s, .error f)
        | (s, .ok ()) =>
          (s.performWhere s.ownVec 4).writeVa ((t + 4 * (c + 1)) % 2 ^ 64) (leBytesOf 4 ((entry + 16 + vs.length + 15) / 16 * 16)) true narrow

/-- VSCB (R186): a stop leaves vstart at the chunk's first element. -/
def execVscb (rs2 rs1 vd : BitVec 5) (s : State) : Out :=
  let r : VRegs := { srcV := [vd], srcX := [rs1, rs2] }
  settle (do
    vecIssue fun h => h.isPacked && (h.vst % 128 = 0 || h.vst ≥ h.vln)
    let h ← getHart
    if h.vst ≥ h.vln then vecEmpty r
    else
      waitTaint (h.vecSources r)
      let t := (h.xr rs1).toNat
      let e0 := (h.xr rs2).toNat
      if t % 4 != 0 then trap 0 t
      if e0 % 128 != 0 then trap 0 e0
      let first (k : Nat) : Nat := h.vst + 128 * k
      let vals (k : Nat) : List Nat :=
        (List.range 128).map fun j => if first k + j < h.vln then h.elem vd h.ew (first k + j) else 0
      let badIn (k : Nat) : Option Nat := (idxRange (first k) (min (first k + 128) h.vln)).find? fun i => h.elemBad vd h.ew i
      let f (k : Nat) (s : State) : State × Except AccFault Unit :=
        match badIn k with
        | some i => (s, .error (.cause 0x109 i))
        | none => s.writeChunk t (h.ew / 8) (narrowStore h) ((e0 + first k) / 128) (vals k)
      match ← liftOp fun s => memLoop f (List.range ((h.vln - h.vst + 127) / 128)) s with
      | none =>
        noteLatent r h fun _ => (idxRange h.vst h.vln).flatMap (regRead vd h)
        vecDone r false [] []
      | some (k, e) =>
        modHart fun x => { x with vstart := BitVec.ofNat 12 (first k) }
        match e with
        | .cause 0x109 a => trapReg 9 a
        | .cause c a => trap c a
        | .wait => stall .remote) s

/-! ### Compress-and-append (R187) -/

/-- The place of a descriptor of `n` bytes that is read and then updated, in this module or at another device (R132, R187, R188). A descriptor on
a poisoned line is cause 9, which R176 lists for loads and VLCB only (log 111). -/
def State.descPlace (s : State) (va n : Nat) : State × Except AccFault Loc :=
  let rq := s.reqFor s.cur
  let refuse (s : State) : State × Except AccFault Loc := (s.logAccess 1 va, .error (.cause 1 va))
  match s.locate rq va .write with
  | (s, .error 1) => refuse s
  | (s, .error c) => (s, .error (.cause c va))
  | (s, .ok (.local pa)) =>
    if s.writeRefused rq.world pa n then refuse (s.noteSpent rq.world pa n)
    else match s.lineFault 1 pa n va with
      | (s, some (c, a)) => (s, .error (.cause c a))
      | (s, none) => (s, .ok (.local pa))
  | (s, .ok (.remote dev pa)) =>
    match s.pinRemote dev pa with
    | (s, .error f) => (s, .error f)
    | (s, .ok false) => refuse s
    | (s, .ok true) => (s, .ok (.remote dev pa))
  | (s, .ok _) => refuse s
/-- A descriptor read at its home, as what is then moved by compare-and-swap there; what it returns is noted (R187, R206, R210). -/
def State.descRead (s : State) (va n : Nat) : State × Except AccFault (Loc × List Byte) :=
  match s.descPlace va n with
  | (s, .error f) => (s, .error f)
  | (s, .ok (.remote dev pa)) => answerVa va (fun d => (.remote dev pa, d)) (s.remoteAccess s.cur 0 (s.reqFor s.cur).ctx dev (.read pa n))
  | (s, .ok (.local pa)) => (s.noteHome pa n, .ok (.local pa, s.homeBytes pa n))
  | (s, .ok l) => (s, .ok (l, []))
/-- A request to a device of a place that must be held back (R436). -/
def State.locHeld (s : State) (l : Loc) (body : Nat → FlitBody) : Bool :=
  match l with
  | .remote dev pa => s.portHeld s.cur 0 dev (body pa)
  | .remoteTol dev pa _ => s.portHeld s.cur 0 dev (body pa)
  | _ => false
/-- The descriptor's 32-bit count word moved from `old` to `new` by compare-and-swap; false when another agent has changed it (R187). -/
def State.descSwap (s : State) (va : Nat) (l : Loc) (old new : Nat) : State × Except AccFault Bool :=
  match l with
  | .local pa => (s.writeBytes (.hart s.cur true) (pa + 8) (leBytesOf 4 new) 3, .ok true)
  | .remote dev pa =>
    match s.remoteAccess s.cur 0 (s.reqFor s.cur).ctx dev (.amo (pa + 8) false 9 (BitVec.ofNat 64 new) (BitVec.ofNat 64 old)) with
    | (s, .error f) => (s, .error f)
    | (s, .ok (some d)) => (s, .ok (leValue d % 2 ^ 32 = old))
    | (s, .ok none) => (s.logAccess 1 va, .error (.cause 1 va))
  | _ => (s, .ok true)
/-- The descriptor's count word raised by one at its home (R189); `va` is the descriptor's address. -/
def State.descAdd (s : State) (va : Nat) (l : Loc) : State :=
  match l with
  | .local pa => s.writeBytes (.hart s.cur true) (pa + 8) (leBytesOf 4 ((s.homeNat (pa + 8) 4 + 1) % 2 ^ 32)) 3
  | .remote dev pa => s.post va dev (.amo (pa + 8) false 1 1 0)
  | _ => s

/-- The first of some elements of `b` bytes that a store would fault on: its page, its frame, or the integrity of its line (R187). One whose
request a port must hold waits, for none of them may wait after the reservation (R436). -/
def State.pinRange (s : State) (narrow : Bool) (b : Nat) : List Nat → State × Except AccFault Unit
  | [] => (s, .ok ())
  | va :: r =>
    let rq := s.reqFor s.cur
    let refuse (s : State) : State × Except AccFault Unit := (s.logAccess 1 va, .error (.cause 1 va))
    let here (s : State) (k pa n : Nat) : State × Except AccFault Unit :=
      if s.writeRefused rq.world pa n then refuse (s.noteSpent rq.world pa n)
      else match s.macFault true k pa n va with
        | (s, some (c, a)) => (s, .error (.cause c a))
        | (s, none) => State.pinRange s narrow b r
    let there (s : State) (dev pa n : Nat) : State × Except AccFault Unit :=
      if s.portHeld s.cur 0 dev (.read pa n) then (s, .error .wait)
      else match s.pinRemote dev pa with
        | (s, .error f) => (s, .error f)
        | (s, .ok true) => State.pinRange s narrow b r
        | (s, .ok false) => refuse s
    match s.locate rq va .write with
    | (s, .error 1) => refuse s
    | (s, .error c) => (s, .error (.cause c va))
    | (s, .ok (.local pa)) => here s 1 pa b
    | (s, .ok (.tolerant pa _)) => if narrow then refuse s else here s 2 pa (b / 2)
    | (s, .ok (.remote dev pa)) => there s dev pa b
    | (s, .ok (.remoteTol dev pa _)) => if narrow then refuse s else there s dev pa (b / 2)
    | (s, .ok (.chute _)) => refuse s

/-- A store that is not waited for at another device: its range was pinned. A refusal there comes after the reservation, so it is logged and
traps nothing (R187, R437, log 124). -/
def State.postVa (s : State) (va : Nat) (bytes : List Byte) : State :=
  match s.locate (s.reqFor s.cur) va .write with
  | (s, .ok (.remote dev pa)) => s.post va dev (.write pa bytes)
  | (s, .ok (.remoteTol dev pa _)) => s.post va dev (.write pa (tolPack bytes))
  | (s, _) => (s.writeVa va bytes true false).1

/-- VCAPP (R187). A COUNT above CAP makes the pseudocode's k negative: COUNT becomes CAP, and nothing is written. -/
def execVcapp (km : BitVec 3) (rd rs1 vd : BitVec 5) (s : State) : Out :=
  let r : VRegs := { km := km, srcV := [vd], srcX := [rs1] }
  settle (do
    vecIssue Hart.isPacked
    let h ← getHart
    let act := (idxRange h.vst h.vln).filter (h.maskOn km)
    if act.isEmpty then vecEmpty r
    else
      waitTaint (h.vecSources r)
      let d := (h.xr rs1).toNat
      if d % 16 != 0 then trap 0 d
      match act.find? fun i => h.elemBad vd h.ew i with
      | some i => trapReg 9 i
      | none => pure ()
      let tag ← takeTag
      let (dp, db) ← doAccess fun s => s.descRead d 16
      let b := h.ew / 8
      let base := leValue (db.take 8)
      let old := leValue ((db.drop 8).take 4)
      let cap := leValue ((db.drop 12).take 4)
      if base % b != 0 then trap 0 base
      let k := min act.length (cap - old)
      let new := if cap < old then cap else old + k
      let addr (j : Nat) : Nat := (base + b * (old + j)) % 2 ^ 64
      doAccess fun s => s.pinRange (narrowStore h) b ((List.range k).map addr)
      if !(← doAccess fun s => s.descSwap d dp old new) then
        modState State.dropOwn
        stall .remote
      modState fun s => ((act.take k).zipIdx).foldl (fun s e => s.postVa (addr e.2) (leBytesOf b (h.elem vd h.ew e.1))) s
      let _ ← readTag
      noteLatent r h fun _ => act.flatMap (regRead vd h)
      let full := old / h.vlmax < new / h.vlmax
      writeX rd (BitVec.ofNat 64 ((if full then 2 ^ 63 else 0) + (if k < act.length then 2 ^ 62 else 0) + new))
        (unionTaint (← getHart).issued [tag] ((← getHart).vecSources r))
      vecDone r false [] []) s

/-! ### Hash accumulation (R188, R189) -/

/-- The hash of R189. -/
def hashOf (key logb : Nat) : Nat := ((key % 2 ^ 32).xor (key / 2 ^ 32 % 2 ^ 32)) * 0x9E37_79B1 % 2 ^ 32 / 2 ^ (32 - logb)

/-- One pair accumulated: the probes from p upward; cause 12 when all fail (R189). `d` is the descriptor's address, and `win` the table's in the
scratchpad window, by which a log names a bucket (R185). -/
def State.hashGo (s : State) (sew w table logb key val d : Nat) (dp : Loc) (win : Nat) : Nat → Nat → State × Except AccFault Unit
  | 0, _ => (s, .error (.cause 12 key))
  | k + 1, p =>
    let b := w / 8
    let q := (hashOf key logb + p) % 2 ^ logb
    let pa := table + q * (2 * b)
    let va := win + q * (2 * b)
    match s.bankFault pa (2 * b) va with
    | some s => (s, .ok ())
    | none =>
      let found := s.homeNat pa b
      let s := s.noteHome pa b
      let put (at' : Nat) (v : List Byte) : Option State :=
        if s.spentIn at' v.length then none else some (s.writeBytes (.hart s.cur true) at' v 1)
      let refuse : State × Except AccFault Unit := ((s.noteSpent (s.tagOf pa) pa (2 * b)).logAccess 1 va, .error (.cause 1 va))
      if found = key then
        match put (pa + b) (leBytesOf b (bankAdd sew w (s.homeNat (pa + b) b) val)) with
        | some s => (s, .ok ())
        | none => refuse
      else if found = 2 ^ w - 1 then
        match put pa (leBytesOf b key ++ leBytesOf b val) with
        | some s => (s.descAdd d dp, .ok ())
        | none => refuse
      else State.hashGo s sew w table logb key val d dp win k (p + 1)

/-- Some frame of a range carries another world's tag (R448). -/
def State.framesForeign (s : State) (world pa n : Nat) : Bool :=
  n ≠ 0 && (List.range (frameOf (pa + n - 1) - frameOf pa + 1)).any fun j => SMap.get 0 s.frameTag (frameOf pa + j) != world

/-- VHACC (R188, R189): the elements of one run in ascending order. The float add is that of fp32. The descriptor is read and checked whenever
vstart lies below vl, with no active element too: R188 does not say (log 64). A table of which some frame is another world's is refused whole,
before any element, with x[rs1] in stval: R188 and R448 give that error response no place and no stval (log 125). -/
def execVhacc (ok : BitVec 2) (km : BitVec 3) (vs2 rs1 vd : BitVec 5) (s : State) : Out :=
  let r : VRegs := { km := km, srcV := if ok = 2 then [vd] else [vd, vs2], srcX := [rs1] }
  settle (do
    vecIssue fun h => (h.sew = 2 || h.sew = 3 || h.sew = 6) && (ok = 0 || ok = 2)
    let h ← getHart
    if h.vst ≥ h.vln then vecEmpty r
    else
      waitTaint (h.vecSources r)
      let d := (h.xr rs1).toNat
      if d % 16 != 0 then trap 0 d
      let dp ← doAccess fun s => s.descPlace d 16
      let db ← doAccess fun s => s.readVa d 16 .read true true
      let t ← get
      let lo := leValue (db.take 8)
      let toff := bits lo 31 0
      let logb := bits lo 36 32
      let probe := bits lo 46 40
      let size := 2 ^ logb * (2 * (h.ew / 8))
      let core := coreOf t.cur
      let okDesc : Bool := toff % 64 = 0 && toff + size ≤ 0x200_0000 && 4 ≤ logb && logb ≤ 20 && 1 ≤ probe && probe ≤ 64 &&
        bits lo 39 37 = 0 && bits lo 63 47 = 0 && leValue ((db.drop 12).take 4) = 0
      let world := bits h.sxlat.toNat 43 40
      if !okDesc || t.framesForeign world (scratchPa core toff) size then do
        modState fun s => s.logAccess 1 d
        trap 1 d
      else
        vmemRun r (memChute ok vs2) false true (fun _ => true)
          (fun h c i s =>
            let key := indexOf h c vs2 i
            if key = 2 ^ h.ew - 1 then (s, .ok ())
            else if s.locHeld dp fun pa => .amo (pa + 8) false 1 1 0 then (s, .error .wait)
            else s.hashGo h.sew h.ew (scratchPa core toff) logb key (h.elem vd h.ew i) d dp (0xF0_0000_0000_0000 + toff) probe 0)
          (fun h c i => idxRead ok vs2 h i ++ (if indexOf h c vs2 i = 2 ^ h.ew - 1 then [] else regRead vd h i)) true) s

end Sys2Proof.Machine
end

