-- ==== Sys2Proof/Machine/Link.lean ====
section
/-! DEFINITION. The link ports, what peers and the host ask of the module, and their answers (27_link R430 to R445). -/

namespace Sys2Proof.Machine

def State.portAt (s : State) (p : Nat) : Port := s.ports[Fin.ofNat 32 p]

/-! ### Answers to the module's own requests (R435, R437, R439) -/

/-- The status word of a launch refused at another device (R373). In such a request the word's virtual address stands in the place of the
hart. -/
def State.statusRefused (s : State) (r : OutReq) : State := s.logViolation ⟨r.ctx, 6, 7, 1, 0, false, 0, r.hart⟩
/-- A posted write refused or failed, when its instruction has retired: an error response of the path it left by (R346, R437, log 124). -/
def State.postRefused (s : State) (r : OutReq) (va pc : Nat) : State := s.logViolation ⟨r.ctx, 1, r.hart % 2, 1, crewOf r.hart, false, pc, va⟩
/-- The answer to a request: it goes to the access or command that waits for it; the answer of a train is its acknowledgement, and a
refused status word or posted write is logged (R346, R373, R437). An answer that nothing waits for any more is dropped. -/
def State.answerAs (s : State) (rid : Nat) (ok lost : Bool) (data : List Byte) : State :=
  match s.requests.find? fun r => r.rid = rid with
  | none => s
  | some r =>
    let s := { s with requests := s.requests.filter fun x => x.rid ≠ rid }
    let x := s.hartAt r.hart
    if statusTicket ≤ r.ticket then if ok then s else s.statusRefused r
    else if r.ticket = depTicket then
      { s with launches := s.launches.map fun l => if l.lid + 512 = r.hart then { l with answer := some (ok, data) } else l }
    else if x.remote.any fun e => e.rid = rid then
      let put (e : RemoteReq) : RemoteReq := if e.rid = rid then { e with ans := some (ok, data), lost := lost } else e
      s.mapHart r.hart fun x => { x with remote := x.remote.map put }
    else match r.kind with
      | .posted va pc => if ok then s else s.postRefused r va pc
      | .train =>
        match x.copies.find? fun c => c.seq + 1 = r.ticket with
        | some c => s.trainAck r.hart c.ticket r.dev ok
        | none => s
      | _ => s

/-- The answer that a device gives to the request with a number. -/
def State.answer (s : State) (rid : Nat) (ok : Bool) (data : List Byte) : State := s.answerAs rid ok false data
/-- The answer that a peer's response flit gives: to the oldest request to that peer with the tag (R432). -/
def State.answerTag (s : State) (src tag : Nat) (ok : Bool) (data : List Byte) : State :=
  match s.requests.reverse.find? fun r => r.dev = src && r.rid % 65536 = tag with
  | some r => s.answer r.rid ok data
  | none => s

/-- A flit of a request of the module's own stands unacknowledged: the request has not been accepted (R435). -/
def State.unaccepted (s : State) (rid : Nat) : Bool := s.ports.toList.any fun p => p.unacked.any fun e => e.rid = some rid
/-- A request that has failed: not accepted within 1 ms of its first send, or not answered within 10 ms (R435). -/
def State.overdue (s : State) (r : OutReq) : Bool := r.sent + 10000000 ≤ s.now || (r.sent + 1000000 ≤ s.now && s.unaccepted r.rid)

/-! ### What peers ask (R437, R438) -/

/-- A peer's request refused: logged in the context of the window that it lies in, else in the module error log (R438). -/
def State.refusePeer (s : State) (port src pa n : Nat) : State :=
  match s.admission.find? fun w => w.src = src && w.base ≤ pa && pa + n ≤ w.limit + 1 with
  | some w => s.logViolation ⟨w.ctx, 1, 6, 1, 0, true, 0, pa⟩
  | none => s.logError 2 7 port 0 pa

/-- The comparator of a hart, a device register of 8 bytes (R21, R465). -/
def timerAt (pa n : Nat) : Option Nat :=
  if 0x208_0000_0000 ≤ pa && pa < 0x208_0000_1000 && pa % 8 = 0 && n = 8 then some ((pa - 0x208_0000_0000) / 8) else none
/-- A device register read; those but the comparators the spec does not give, and they are refused (log 131). -/
def State.devRead (s : State) (pa n : Nat) : Option (List Byte) := (timerAt pa n).map fun h => leBytesOf 8 (s.hartAt h).timecmp.toNat
/-- A device register written. -/
def State.devWrite (s : State) (pa : Nat) (data : List Byte) : Option State :=
  (timerAt pa data.length).map fun h => s.mapHart h fun x => { x with timecmp := BitVec.ofNat 64 (leValue data) }

/-- The context whose window admits a peer's request, when the range is memory of its world (R438, R448). -/
def State.peerMay (s : State) (src pa n : Nat) (write : Bool) : Option Nat :=
  match s.admitted src pa n write with
  | none => none
  | some ctx =>
    if inMemory pa && inMemory (pa + n - 1) && !s.readRefused (s.ctxWorld ctx) pa n then some ctx else none

/-- Poison or a MAC failure met by a peer's or the host's read, logged (R417, R453). -/
def State.outsideFault (s : State) (ctx path pa n : Nat) : State × Bool :=
  match (linesOf pa n).find? fun l => s.poisoned (l * 64) with
  | some l => (s.logError 5 (unitOf (l * 64)) (s.locOf (l * 64)) ctx (l * 64), true)
  | none =>
    match (linesOf pa n).find? fun l => s.macBad (l * 64) with
    | some l => ((s.logError 15 (unitOf (l * 64)) (s.locOf (l * 64)) ctx (l * 64)).logViolation ⟨ctx, 4, path, 8, 0, true, 0, l * 64⟩, true)
    | none => (s, false)

/-- A read served at the home of the line (R437). -/
def State.peerRead (s : State) (port src pa n : Nat) : State × Option (List Byte) :=
  match s.peerMay src pa n false with
  | none =>
    match s.devRead pa n, s.admitted src pa n false with
    | some d, some _ => (s, some d)
    | _, _ => (s.refusePeer port src pa n, none)
  | some ctx =>
    match s.outsideFault ctx 6 pa n with
    | (s, true) => (s, none)
    | (s, false) => (s, some (s.homeBytes pa n))
/-- A write performed at the module scope (R437). -/
def State.peerWrite (s : State) (port src pa : Nat) (data : List Byte) : State × Bool :=
  match s.peerMay src pa data.length true with
  | none =>
    match s.devWrite pa data, s.admitted src pa data.length true with
    | some s, some _ => (s, true)
    | _, _ => (s.refusePeer port src pa data.length, false)
  | some ctx =>
    match s.storeAt (s.ctxWorld ctx) (.peer src) pa data 3 with
    | some s => (s, true)
    | none => ((s.noteSpent (s.ctxWorld ctx) pa data.length).refusePeer port src pa data.length, false)
/-- A masked write performed at the module scope: the bits of one byte, or of two where the mask reaches the second (R48, R432). -/
def State.peerWriteBits (s : State) (port src pa : Nat) (mask value : BitVec 16) : State × Bool :=
  let n := if mask.toNat < 256 then 1 else 2
  let old := BitVec.ofNat 16 (s.homeNat pa n)
  s.peerWrite port src pa (leBytesOf n ((old &&& ~~~ mask) ||| (value &&& mask)).toNat)
/-- The size and the new value of a peer's AMO: those of R88, and the bank adds of floats (log 18). -/
def peerAmo (wide : Bool) (op : BitVec 4) (old src expect : Nat) : Nat × Option Nat :=
  let n := if wide then 8 else if op = 12 || op = 13 then 2 else 4
  let s := src % 2 ^ (8 * n)
  (n, if op = 12 then some (bankAdd 4 16 old s) else if op = 13 then some (bankAdd 5 16 old s) else if op = 14 then some (bankAdd 6 32 old s)
      else (amoOf op.toNat).bind fun o => o.result (8 * n) old s (expect % 2 ^ (8 * n)))
/-- An AMO served at the home: the old value (R437). -/
def State.peerAmoAt (s : State) (port src pa : Nat) (wide : Bool) (op : BitVec 4) (operand expect : BitVec 64) : State × Option (List Byte) :=
  let n := (peerAmo wide op 0 0 0).1
  let lda : Bool := op = 10
  if pa % n ≠ 0 || op = 15 then (s.refusePeer port src pa n, none)
  else match s.peerMay src pa n (!lda) with
    | none => (s.refusePeer port src pa n, none)
    | some ctx =>
      match s.outsideFault ctx 6 pa n with
      | (s, true) => (s, none)
      | (s, false) =>
        let old := s.homeNat pa n
        match (peerAmo wide op old operand.toNat expect.toNat).2 with
        | none => (s, some (leBytesOf n old))
        | some v =>
          match s.storeAt (s.ctxWorld ctx) (.peer src) pa (leBytesOf n v) 3 with
          | some s => (s, some (leBytesOf n old))
          | none => ((s.noteSpent (s.ctxWorld ctx) pa n).refusePeer port src pa n, none)

/-! ### Flits (R432 to R435) -/

/-- The classes of R433: 0 responses and notices, 1 reads, writes, AMOs and train heads, 2 train bodies and tails. -/
def flitClass : FlitBody → Nat
  | .read _ _ => 1
  | .write _ _ => 1
  | .writeBits _ _ _ => 1
  | .amo _ _ _ _ _ => 1
  | .trainHead _ _ => 1
  | .trainBody _ => 2
  | .trainTail _ => 2
  | _ => 0

/-- Data in pieces of at most 224 bytes, what one flit carries (R432); `k` bounds them. -/
def payloads : Nat → List Byte → List (List Byte)
  | 0, d => [d]
  | k + 1, d => if d.length ≤ 224 then [d] else d.take 224 :: payloads k (d.drop 224)
/-- The answer to a flit sent back by the port it came by, with its tag. -/
def State.reply (s : State) (p : Nat) (f : Flit) (ok : Bool) (data : List Byte) : State :=
  (payloads (data.length / 224) data).foldl (fun s d => s.pushFlit p f.tag f.src none (.response ok d)) s
def State.replyOpt (s : State) (p : Nat) (f : Flit) (r : Option (List Byte)) : State := s.reply p f r.isSome (r.getD [])

/-- The port that holds the reservation of a train: the one its flits come by, or the one that its head came by (R431, R434). -/
def State.trainPort (s : State) (p src tag : Nat) : Nat :=
  ((p :: List.range 32).find? fun q => (s.portAt q).trains.any fun t => t.src = src && t.tag = tag).getD p

/-- The trains that a port receives from one source under one tag, changed. -/
def State.mapTrain (s : State) (p src tag : Nat) (g : OpenTrain → OpenTrain) : State :=
  s.mapPort p fun x => { x with trains := x.trains.map fun t => if t.src = src && t.tag = tag then g t else t }

/-- A flit that asks something of the module anew: a checkpoint that waits refuses it (R426). A barrier notice other than a detachment is held to
be such a request: R246 and R433 have notices always accepted, R426 has new requests refused, and neither names the other (log 130). -/
def asksAnew : FlitBody → Bool
  | .read _ _ => true
  | .write _ _ => true
  | .writeBits _ _ _ => true
  | .amo _ _ _ _ _ => true
  | .notice (.detach _ _ _ _) => false
  | .notice _ => true
  | _ => false

/-- A body or tail of a train that is not open while a flit of the heads' class waits to be replayed: its head may be that flit (R433). -/
def State.headWaits (s : State) (p : Nat) (f : Flit) : Bool :=
  flitClass f.body == 2 && !((s.portAt (s.trainPort p f.src f.tag)).trains.any fun t => t.src = f.src && t.tag = f.tag) && (s.portAt p).held.any fun e => e.1 = 1

/-- A flit accepted or refused: the state after it, or none when it is NACKed: a flit of the requests' class that finds no receive entry free, a
head that finds no room in the 4 MiB train buffer, or what follows a head that was NACKed (R433, R434). A train whose head was refused is
refused at its tail. -/
def State.takeFlit (s : State) (p : Nat) (f : Flit) : Option State :=
  if flitClass f.body == 1 && !f.room then none
  else if s.stopping && asksAnew f.body then some (s.reply p f false [])
  else if s.headWaits p f then none
  else match f.body with
  | .read pa len => let r := s.peerRead p f.src pa len; some (r.1.replyOpt p f r.2)
  | .write pa data => let r := s.peerWrite p f.src pa data; some (r.1.reply p f r.2 [])
  | .writeBits pa mask value => let r := s.peerWriteBits p f.src pa mask value; some (r.1.reply p f r.2 [])
  | .amo pa wide op a b => let r := s.peerAmoAt p f.src pa wide op a b; some (r.1.replyOpt p f r.2)
  | .response ok data => some (s.answerTag f.src f.tag ok data)
  | .trainHead bytes count =>
    if s.stopping then some s
    else if 2 ^ 22 < ((s.portAt p).trains.map OpenTrain.bytes).sum + bytes then none
    else some (s.mapPort p fun x => { x with trains := ⟨f.src, f.tag, bytes, 2 ^ 20 < bytes || 65535 < count⟩ :: x.trains })
  | .trainBody elems =>
    let q := s.trainPort p f.src f.tag
    if !(s.portAt q).trains.any fun t => t.src = f.src && t.tag = f.tag then some s
    else some (elems.foldl (fun s e =>
      match s.peerWrite p f.src e.1 e.2 with
      | (s, true) => s
      | (s, false) => s.mapTrain q f.src f.tag fun t => { t with bad := true }) s)
  | .trainTail _ =>
    let q := s.trainPort p f.src f.tag
    match (s.portAt q).trains.find? fun t => t.src = f.src && t.tag = f.tag with
    | none => some (s.reply p f false [])
    | some t => some ((s.mapPort q fun x => { x with trains := x.trains.erase t }).reply p f (!t.bad) [])
  | .notice n =>
    let src := match n with | .bind s _ _ _ => s | .arrive s _ _ _ => s | .attach s _ => s | .detach s _ _ _ => s
    if src ≠ f.src then some (s.reply p f false [])
    else match s.brNotice n with
      | (s, some w) => some (match n with | .detach _ _ _ _ => s | _ => s.reply p f true (leBytesOf 8 w))
      | (s, none) =>
        let pa := match n with | .bind _ pa _ _ => pa | .arrive _ pa _ _ => pa | .attach _ pa => pa | .detach _ pa _ _ => pa
        let s := s.refusePeer p f.src pa 64
        some (match n with | .detach _ _ _ _ => s | _ => s.reply p f false [])
  | .ackOnly => some s

/-- The acknowledgement carried by a flit: sent flits up to ASEQ leave; a NACK adds one to the consecutive ones (R433, R435). -/
def State.takeAck (s : State) (p : Nat) (f : Flit) : State :=
  let s := match f.ackSeq with
    | none => s
    | some a =>
      let upto (l : List SentFlit) : List SentFlit :=
        match l.findIdx? fun e => e.seq = a with
        | some i => l.drop (i + 1)
        | none => l
      s.mapPort p fun x => { x with unacked := upto x.unacked, nacks := 0 }
  match f.nackSeq with
  | none => s
  | some _ => (s.mapPort p fun x => { x with nacks := x.nacks + 1 }).count (linkItem p 4) 1

/-- The port owes the reverse direction an acknowledgement, or a NACK (R435). -/
def State.oweAck (s : State) (p seq : Nat) : State := s.mapPort p fun x => { x with ackDue := some seq }
def State.oweNack (s : State) (p seq : Nat) : State := (s.mapPort p fun x => { x with nackDue := some seq }).count (linkItem p 3) 1
/-- What a port owes sent by a flit of its own, where no other has carried it (R432, R435). -/
def State.sendAck (s : State) (p dst : Nat) : State :=
  let x := s.portAt p
  if x.ackDue.isNone && x.nackDue.isNone then s
  else
    (s.mapPort p fun x => { x with out := ⟨x.txSeq, 0, dst, none, .ackOnly, x.ackDue, x.nackDue⟩ :: x.out, ackDue := none, nackDue := none }).count
      (linkItem p 0) 1

/-- A flit with a good check in its order: accepted, NACKed behind an earlier NACK of its class, or dropped as a repeat, which is acknowledged
again (R433, R435). -/
def State.orderFlit (s : State) (p : Nat) (f : Flit) : State :=
  let x := s.portAt p
  let c := flitClass f.body
  let next (s : State) : State := s.mapPort p fun x => { x with rxSeq := (x.rxSeq + 1) % 4096 }
  let repeated : Bool := decide (0 < (x.rxSeq + 4096 - f.seq) % 4096) && decide ((x.rxSeq + 4096 - f.seq) % 4096 ≤ 2048)
  let old (s : State) : State := if repeated then s.oweAck p f.seq else s
  match x.held.find? fun e => e.1 = c with
  | some e =>
    if f.seq = e.2 then
      match (s.oweAck p f.seq).takeFlit p f with
      | some s => s.mapPort p fun x => { x with held := x.held.erase e }
      | none => s.oweNack p f.seq
    else if f.seq = x.rxSeq then ((next s).mapPort p fun x => { x with held := x.held ++ [(c, f.seq)] }).oweNack p f.seq
    else if x.held.any fun e => e.2 = f.seq then s
    else old s
  | none =>
    if f.seq ≠ x.rxSeq then old s
    else
      let s := next s
      match (s.oweAck p f.seq).takeFlit p f with
      | some s => s
      | none => (s.mapPort p fun x => { x with held := x.held ++ [(c, f.seq)] }).oweNack p f.seq

/-! ### The lanes of a port (R425, R431) -/

/-- A flit that waits for a repair: a detachment then sets FAIL (R246). -/
def waitBody : FlitBody → FlitBody
  | .notice (.detach src pa bytes _) => .notice (.detach src pa bytes true)
  | b => b

/-- The address by which a sent flit takes its port: its request's, for a flit of the module's own (R436). -/
def State.flitPa (s : State) (e : SentFlit) : Nat :=
  match e.rid.bind fun i => s.requests.find? fun r => r.rid = i with
  | some r => r.pa
  | none => bodyPa e.body
/-- The unacknowledged flits of a port that is out of routing replayed on other ports; with none up they wait (R431). -/
def State.rehome (s : State) (p : Nat) : State :=
  let l := (s.portAt p).unacked
  let s := s.mapPort p fun x => { x with unacked := [], nacks := 0, held := [] }
  l.foldl (fun s e =>
    match s.portFor e.dst (s.flitPa e) with
    | some q =>
      let move (r : OutReq) : OutReq := if some r.rid = e.rid then { r with port := q } else r
      ({ s with requests := s.requests.map move }).pushFlit q e.tag e.dst e.rid e.body |>.count (linkItem q 5) 1
    | none => s.mapPort p fun x => { x with unacked := x.unacked ++ [{ e with body := waitBody e.body }] }) s

/-- A port in a new state; one that leaves routing hands its flits over, and one that joins it takes those that wait, its own numbered
anew (R431, R436). -/
def State.portTo (s : State) (p : Nat) (st : PortState) : State :=
  let joins : Bool := !(s.portAt p).live
  let s := s.mapPort p fun x => { x with st := st }
  if (s.portAt p).live then
    ((List.range 32).filter fun q => (if q = p % 32 then joins else !(s.portAt q).live) && !(s.portAt q).unacked.isEmpty).foldl State.rehome s
  else s.rehome p

/-- A lane with a lasting failure retired: the port runs on three lanes, or fails at its second (R425, R431). -/
def State.retireLane (s : State) (p lane : Nat) : State :=
  let x := s.portAt p
  if !x.live || !x.lanes.getLsbD lane then s
  else
    let s := s.mapPort p fun x => { x with lanes := x.lanes &&& ~~~ (1#4 <<< lane) }
    if x.st = .up then (s.logError 11 7 p 0 0).portTo p .degraded else (s.portTo p .failed).logError 2 7 p 0 0
/-- A lasting failure of a port's transfers: it is logged, and the lane that it is confined to is retired; where it is confined to none, the port
trains again. Which of these holds is free (R415, R425, R431, log 116). -/
def State.linkFailure (s : State) (p : Nat) : State :=
  let s := s.logError 2 7 p 0 0
  let d := s.draw
  let lanes := (List.range 4).filter fun i => (s.portAt p).lanes.getLsbD i
  if Config.freeBit d.1 then (d.2.mapPort p fun x => { x with attempts := 0, lanes := 0 }).portTo p .training
  else d.2.retireLane p (lanes.getD ((Config.freeWord d.1).toNat % lanes.length) 0)

/-- FLIT_RECEIVE (R432 to R438): a flit that fails its check is dropped and NACKed; the second failure of the flit awaited is a lasting
one of the port (R415). A flit for another device is none of the module's. -/
def execFlitReceive (port : Nat) (flit : Flit) (s : State) : Out :=
  let p := port % 32
  .next (if !(s.portAt p).live then s
    else if !flit.crcOk then
      let s := ((s.count (linkItem p 2) 1).mapPort p fun x => { x with fails := x.fails + 1 }).oweNack p (s.portAt p).rxSeq
      if (s.portAt p).fails = 2 then s.linkFailure p else s.sendAck p flit.src
    else if flit.dst ≠ s.devnum then s
    else
      let s := (s.count (linkItem p 1) 1).takeAck p flit
      match flit.body with
      | .ackOnly => s
      | _ =>
        let x := s.portAt p
        let s := if flit.seq = x.rxSeq then
          (if x.fails = 1 then s.logError 1 7 p 0 0 else s).mapPort p fun x => { x with fails := 0 } else s
        (s.orderFlit p flit).sendAck p flit.src)

/-- FLIT_REPLAY: a port sends its unacknowledged flits again (R433, R435). -/
def execFlitReplay (port : Nat) (s : State) : Out :=
  let p := port % 32
  .next (if (s.portAt p).live then
      (s.mapPort p fun x => { x with out := x.unacked.reverse ++ x.out }).count (linkItem p 5) (s.portAt p).unacked.length
    else s)

/-- REQUEST_TIMEOUT: a request not accepted within 1 ms of its first send, its replays included, fails, which is a lasting failure of its
link; so does one not answered within 10 ms, where the peer has failed (R415, R425, R431, R435, log 116). -/
def execRequestTimeout (rid : Nat) (s : State) : Out :=
  let drop (p : Port) : Port := { p with unacked := p.unacked.filter fun e => e.rid ≠ some rid }
  .next (match s.requests.find? fun r => r.rid = rid with
    | some r =>
      if !s.overdue r then s
      else
        let link : Bool := r.dev < 255 && s.unaccepted rid
        let s := ({ s with ports := s.ports.map drop }).answerAs rid false true []
        if link && (s.portAt r.port).live then s.linkFailure r.port else if r.dev < 255 then s.logError 2 7 r.port 0 0 else s
    | none => s)

/-! ### Ports (R431, R436) -/

/-- LINK_TRAINING_DONE: the lanes that pass decide the state; the first port to come up brings the device number (R430, R431). -/
def execLinkTrainingDone (port : Nat) (lanes : BitVec 4) (devnum : Nat) (s : State) : Out :=
  let p := port % 32
  .next (if (s.portAt p).st ≠ .training then s
    else
      let n := bitCount 4 lanes.toNat
      let s := s.mapPort p fun x => { x with lanes := lanes, attempts := 0, txSeq := 0, rxSeq := 0, fails := 0 }
      let join (s : State) (st : PortState) : State :=
        ({ s with devnum := if s.devnum = 255 && devnum < 255 then devnum else s.devnum }).portTo p st
      if n = 4 then join s .up
      else if n = 3 then join (s.logError 11 7 p 0 0) .degraded
      else (s.mapPort p fun x => { x with lanes := 0 }).portTo p .failed |>.logError 2 7 p 0 0)
/-- LANE_FAILURE: a lasting failure of one lane (R425, R431). -/
def execLaneFailure (port lane : Nat) (s : State) : Out := .next (s.retireLane (port % 32) lane)
/-- LOSS_OF_SIGNAL: a port in service trains again; a third failed attempt at training fails the port (R431). -/
def execLossOfSignal (port : Nat) (s : State) : Out :=
  let p := port % 32
  let x := s.portAt p
  .next (if x.live then (s.mapPort p fun x => { x with attempts := 0, lanes := 0 }).portTo p .training
    else if x.st = .training then
      if x.attempts ≥ 2 then (s.portTo p .failed).logError 2 7 p 0 0 else s.mapPort p fun x => { x with attempts := x.attempts + 1 }
    else s)

/-- The answer to LINKCMD: the port's state (R462). -/
def State.linkAnswer (s : State) (p status : Nat) : State :=
  s.respond status (if status = 0 then leBytesOf 1 (s.portAt p).st.code else [])
/-- LINK_ENABLE (R431, R461). -/
def execLinkEnable (port : Nat) (s : State) : Out :=
  .next (s.forCmd 0x07 [(8, 1, port), (9, 1, 0)] fun s =>
    if 32 ≤ port then s.respond 2 []
    else if (s.portAt port).st = .down || (s.portAt port).st = .failed then
      ((s.mapPort port fun x => { x with attempts := 0, lanes := 0 }).portTo port .training).linkAnswer port 0
    else s.linkAnswer port 3)
/-- LINK_DISABLE: once its flits are acknowledged the port leaves routing; until then the command waits (R431, R461). -/
def execLinkDisable (port : Nat) (s : State) : Out :=
  .next (s.forCmd 0x07 [(8, 1, port), (9, 1, 1)] fun s =>
    if 32 ≤ port then s.respond 2 []
    else if (s.portAt port).st = .retired then s.linkAnswer port 3
    else if (s.portAt port).live && !(s.portAt port).unacked.isEmpty then s
    else ((s.mapPort port fun x => { x with lanes := 0 }).portTo port .down).linkAnswer port 0)
/-- LINK_RETIRE (R431, R461). -/
def execLinkRetire (port : Nat) (s : State) : Out :=
  .next (s.forCmd 0x07 [(8, 1, port), (9, 1, 2)] fun s =>
    if 32 ≤ port then s.respond 2 []
    else if (s.portAt port).st = .failed then (s.portTo port .retired).linkAnswer port 0 else s.linkAnswer port 3)

/-! ### The host (R439 to R445) -/

/-- HOST_COMPLETION: a translation enters the cache and the access is made again; data and a refusal answer the request (R439,
R442). -/
def execHostCompletion (rid : Nat) (ans : HostAnswer) (s : State) : Out :=
  .next (match s.requests.find? fun r => r.rid = rid && r.dev = 255 with
    | none => s
    | some r =>
      match ans with
      | .refused => s.answer rid false []
      | .data b => if r.xlat then s else s.answer rid true b
      | .translation page rd wr =>
        if !r.xlat || page ≠ r.pa / 4096 then s
        else
          let e : AtcEntry := ⟨r.ctx, page, rd, wr⟩
          let old := s.atc.filter fun e => !(e.pasid = r.ctx && e.page = page)
          let s := { s with requests := s.requests.filter (fun x => x.rid ≠ rid), atc := (e :: old).take 4096 }
          if statusTicket ≤ r.ticket then
            match s.sendRequest r.hart r.ticket r.ctx 255 (.write r.pa (leBytesOf 8 (r.ticket - statusTicket))) with
            | (s, .ok (some (false, _))) => s.statusRefused r
            | (s, _) => s
          else s.mapHart r.hart fun x => { x with remote := x.remote.filter fun e => e.rid ≠ rid })

/-- ATS_INVALIDATION: the cached translations it covers are dropped, and the reads issued under them are waited for; writes and AMOs have been
sent (R442). -/
def execAtsInvalidation (pasid iova len : Nat) (s : State) : Out :=
  let hit (page : Nat) : Bool := iova / 4096 ≤ page && page * 4096 < iova + len
  let w := (s.requests.filter fun r => r.dev = 255 && !r.xlat && r.kind = .access && r.ctx = pasid && hit (r.pa / 4096)).map OutReq.rid
  .next { s with atc := s.atc.filter (fun e => !(e.pasid = pasid && hit e.page)), invals := s.invals ++ [⟨s.nextInval, w⟩],
                 nextInval := s.nextInval + 1 }
/-- INVALIDATION_COMPLETION: the oldest invalidation whose requests have drained is answered (R442). -/
def execInvalidationCompletion (s : State) : Out :=
  .next (match s.invals.find? fun i => i.waits.all fun r => !s.requests.any fun x => x.rid = r with
    | none => s
    | some i => { s with invals := s.invals.erase i, hostOut := ⟨i.id, 0, .ackOnly, none, false⟩ :: s.hostOut })

/-- A change of the interface of a world's TDI: while it is locked or running, ERROR (R445). -/
def State.tdiChange (s : State) (w : Nat) : State :=
  if isProtected w && ((s.worldAt w).tdi = 1 || (s.worldAt w).tdi = 2) then s.tdiError w else s
/-- TDISP_REQUEST (R445); a checkpoint that waits refuses it (R426). -/
def execTdispRequest (world : Nat) (msg : TdispMsg) (s : State) : Out :=
  let w := world % 16
  let x := s.worldAt w
  .next (if !isProtected w || !x.isOpen || s.stopping then s
    else match msg with
      | .lock => if x.tdi = 0 then s.mapWorld w fun x => { x with tdi := 1 } else s
      | .start => if x.tdi = 1 then s.mapWorld w fun x => { x with tdi := 2 } else s
      | .stop => s.mapWorld w fun x => { x with tdi := 0 }
      | .change => s.tdiChange w)
/-- A protected world is bound to a TDI: it is open, and its contexts have an interface, a BAR2 page or a notify page (R445, log 132). -/
def State.tdiBound (s : State) (w : Nat) : Bool :=
  (s.worldAt w).isOpen && (s.apertures.any (fun a => s.ctxWorld a.ctx = w) || s.queues.any fun q => s.ctxWorld q.ctx = w)
/-- IDE_KM: the 256-bit key of a stream programmed, for world 0 or a world bound to a TDI; a world has one stream (R444). A checkpoint that waits
refuses it (R426). -/
def execIdeKm (stream : Nat) (key : IdeKey) (s : State) : Out :=
  let w := key.world
  .next (if s.stopping || 16 ≤ stream || 16 ≤ w || key.key.length ≠ 32 || !(w = 0 || s.tdiBound w) then s
    else { s with streams := ⟨stream, w, key.key⟩ :: s.streams.filter fun x => !(x.num = stream || x.world = w) })

/-- A host request refused inside a mapped page (R440). -/
def State.refuseHost (s : State) (ctx pa : Nat) (isRead : Bool) : State :=
  let s := s.logViolation ⟨ctx, 1, 5, 1, 0, true, 0, pa⟩
  if isRead then s.toHost (.response false []) else s

/-- A read or a write of BAR2, performed at the module at system scope through the host's view, or refused (R440, R445, R448). The host's later
reads find what was performed at system scope before (R377). -/
def State.bar2 (s : State) (acc : HostAccess) : State :=
  let isRead := acc.data.isNone
  let n := match acc.data with | some d => d.length | none => acc.len
  let off := acc.offset % 0x100_0000
  match s.apertures.find? fun a => a.page = acc.offset / 0x100_0000 with
  | none => if isRead then s.toHost (.response false []) else s
  | some a =>
    let w := s.ctxWorld a.ctx
    let pa := a.base + off
    let refuse (s : State) : State := s.refuseHost a.ctx pa isRead
    if s.stopping || s.tdiBars w acc.stream acc.tbit || a.len < off + n || (if isRead then !a.read else !a.write) || n = 0 then refuse s
    else if !inMemory pa || !inMemory (pa + n - 1) then
      match acc.data with
      | none => match s.devRead pa n with | some d => s.toHost (.response true d) | none => refuse s
      | some d => (s.devWrite pa d).getD (refuse s)
    else match acc.data with
      | none =>
        if s.readRefused w pa n then refuse s
        else match s.outsideFault a.ctx 5 pa n with
          | (s, true) => s.toHost (.response false [])
          | (s, false) => (s.toHost (.response true (s.viewBytes .host .host pa n))).catchUp .host
      | some d =>
        match s.storeAt w .host pa d 4 with
        | some s => s
        | none => refuse (s.noteSpent w pa n)

/-- The mailbox as the host reads it: the request and the response buffer, then the control register (R8, R441). -/
def State.mailboxBytes (s : State) : List Byte :=
  let fit (b : List Byte) : List Byte := (b ++ List.replicate 4096 0).take 4096
  fit s.mbxReq ++ fit s.mbxResp ++ leBytesOf 8 ((if s.doorbell then 1 else 0) + (if s.mbxDone then 2 else 0) + if s.mbxErr then 4 else 0)
/-- Words of the telemetry region read in order, from word `i` on, with their bytes. -/
def State.readWords (stream : Nat) (tbit : Bool) : Nat → State → Nat → List Byte → State × List Byte
  | 0, s, _, acc => (s, acc)
  | k + 1, s, i, acc =>
    let r := s.readTelemetry i stream tbit
    State.readWords stream tbit k r.1 (i + 1) (acc ++ leBytesOf 8 r.2)
/-- `n` bytes of BAR0 read, none where the access is refused: a notify page reads 0, the mailbox, the counters and status words; all else
reads 0 (R351, R440, R441, R455). -/
def State.bar0Read (s : State) (off n stream : Nat) (tbit : Bool) : State × Option (List Byte) :=
  let cut (b : List Byte) (k : Nat) : List Byte := ((b.drop k) ++ List.replicate n 0).take n
  if off < 0x20_0000 then
    match s.queueOf (off / 4096 / 64) (off / 4096 % 64) with
    | some q =>
      if s.tdiBars (s.ctxWorld q.ctx) stream tbit then (s.logViolation ⟨q.ctx, 1, 5, 1, 0, true, 0, off⟩, none) else (s, some (List.replicate n 0))
    | none => (s, some (List.replicate n 0))
  else if off < 0x30_0000 then (s, some (cut s.mailboxBytes (off - 0x20_0000)))
  else
    let i := (off - 0x30_0000) / 8
    let r := State.readWords stream tbit ((off % 8 + n + 7) / 8) s i []
    (r.1, some (cut r.2 (off % 8)))
/-- Bytes of BAR0 written: a notify register, the request buffer, the control register and the status words take them, by the access codes of R8;
all else ignores them (R351, R440, R441, R455, R456). A register takes a write that covers its low byte. -/
def State.bar0Write (s : State) (off : Nat) (d : List Byte) (stream : Nat) (tbit : Bool) : State :=
  let low (at' : Nat) : Option Byte := if off ≤ at' && at' < off + d.length then d[at' - off]? else none
  if off < 0x20_0000 then
    if 8 ≤ off % 4096 then s else s.notify (off / 4096 / 64) (off / 4096 % 64) stream ⟨tbit, false, true⟩
  else if off < 0x20_1000 then
    let b := (s.mbxReq ++ List.replicate 4096 0).take 4096
    let put (e : Byte × Nat) : Byte := (low (0x20_0000 + e.2)).getD e.1
    { s with mbxReq := b.zipIdx.map put }
  else if off < 0x30_0000 then
    match low 0x20_2000 with
    | none => s
    | some v =>
      let s := { s with mbxDone := s.mbxDone && !v.getLsbD 1, mbxErr := s.mbxErr && !v.getLsbD 2 }
      if v.getLsbD 0 then s.ring s.mbxReq else s
  else
    (List.range 16).foldl (fun s i =>
      match low (0x3F_F000 + 8 * i) with
      | some v => if v.getLsbD 0 then { s with denied := s.denied &&& ~~~ (1#16 <<< i) } else s
      | none => s) s
/-- A read or a write of BAR0 (R440); a checkpoint that waits refuses it (R426). -/
def State.bar0 (s : State) (acc : HostAccess) : State :=
  let off := acc.offset % 0x40_0000
  match acc.data with
  | none =>
    if s.stopping then s.toHost (.response false [])
    else match s.bar0Read off acc.len acc.stream acc.tbit with
      | (s, some d) => s.toHost (.response true d)
      | (s, none) => s.toHost (.response false [])
  | some d => if s.stopping then s else s.bar0Write off d acc.stream acc.tbit

/-- HOST_BAR2_ACCESS: the host's access through a BAR; one that fails its integrity check is dropped (R440, R444). -/
def execHostBar2Access (acc : HostAccess) (s : State) : Out :=
  .next (if !acc.intact then s.hostCorrupt acc.stream
    else match acc.bar with
      | .bar0 => s.bar0 acc
      | .bar2 => s.bar2 acc)

end Sys2Proof.Machine
end

