-- ==== Sys2Proof/Machine/Repair.lean ====
section
/-! DEFINITION. Scrubbing, HBM parity groups, spares, and the checkpoint (26_reliability R415 to R428, 29_bringup R459). -/

namespace Sys2Proof.Machine

/-- The corrected errors of a unit, one more: its own counter saturates (R415, R429), that of all units counts modulo 2^64 (R456). -/
def State.countCorrected (s : State) (unit : Nat) : State :=
  let pa := Config.errCounters + 4 * unit
  (s.homePut pa 4 (min (s.homeNat pa 4 + 1) (2 ^ 32 - 1))).count 44 1
/-- A line poisoned, and entered in the module error log (R417). -/
def State.poisonLine (s : State) (line : Nat) : State :=
  ({ s with poison := SMap.set false s.poison line true }).logError 4 (unitOf (line * 64)) (s.locOf (line * 64)) 0 (line * 64)

/-! ### Parity groups (R419 to R422) -/

/-- The rows of a channel. -/
def rowCount : Nat := 6291456
/-- The address of the unit at a position of a row of a group: the inverse of `hbmPlace`. -/
def hbmUnit (g row p : Nat) : Nat :=
  let w := 15 * row + p
  256 * (16 * w + (g ^^^ (w % 16)))
/-- The data unit of a member in a row in parity mode poisoned; the parity unit holds no data (R419, R422). -/
def State.poisonUnit (g row m : Nat) (s : State) : State :=
  let p := (m + 31 - row % 16) % 16
  if p = 15 then s else (List.range 4).foldl (fun s i => s.poisonLine (hbmUnit g row p / 64 + i)) s
/-- A second retirement during a rebuild: every row not yet rebuilt loses the units of both channels (R422). -/
def State.poisonRows (g m1 m2 : Nat) : Nat → Nat → State → State
  | 0, _, s => s
  | k + 1, row, s => State.poisonRows g m1 m2 k (row + 1) (State.poisonUnit g row m2 (State.poisonUnit g row m1 s))

/-- A channel retired (R420, R422). -/
def State.retireChannel (s : State) (ch : Nat) : State :=
  let g := ch % 16
  let m := ch / 16 % 16
  let x := s.parity[Fin.ofNat 16 g]
  match x.retired with
  | none => ({ s with parity := s.parity.set (Fin.ofNat 16 g) ⟨some m, 0⟩ }).logError 7 1 ch 0 0
  | some r =>
    if r = m then s else if x.cursor ≥ rowCount then s.wantService 1 ch 0
    else (State.poisonRows g r m (rowCount - x.cursor) x.cursor s).wantService 1 ch 0
/-- CHANNEL_RETIRE: a channel stops answering (R420). -/
def execChannelRetire (ch : Nat) (s : State) : Out := .next (s.retireChannel (ch % 256))
/-- REBUILD_ROW: the next row of a group in rebuild; no value changes; a checkpoint pauses it (R420, R421, R426). -/
def execRebuildRow (group : Nat) (s : State) : Out :=
  let g := Fin.ofNat 16 group
  let x := s.parity[g]
  .next (if s.stopping || x.retired.isNone || x.cursor ≥ rowCount then s
    else
      let s := { s with parity := s.parity.set g { x with cursor := x.cursor + 1 } }
      if x.cursor + 1 = rowCount then s.logError 8 1 (16 * x.retired.getD 0 + g) 0 0 else s)

/-- A lasting read failure of a row of a channel noted; at 8 distinct rows within an hour the channel is retired (R420). -/
def State.noteRow (s : State) (ch row : Nat) : State :=
  let l := (ch, row, s.now) :: s.chFails.filter fun e => s.now < e.2.2 + 3600000000000
  let s := { s with chFails := l }
  if 8 ≤ (uniq ((l.filter fun e => e.1 = ch).map fun e => e.2.1)).length then s.retireChannel ch else s

/-- A lasting failure of a row with spares noted, and whether the scrubber confirms it (R424). -/
def State.noteFail (s : State) (key : Nat) (scrub : Bool) : State := { s with rowFails := (key, scrub) :: s.rowFails }
/-- A lasting read failure of a line: poisoned, or rebuilt from the other units of its row, unless a second unit of the row fails too (R417,
R419). Where a member of the group is retired another member's unit is lost, and the module needs service (R422); HBM rows with lasting
failures are counted (R420), and those of rows with spares (R424). -/
def State.lastingFailure (s : State) (pa : Nat) (scrub second : Bool) : State :=
  let line := pa / 64
  if !inHbm pa then (s.poisonLine line).noteFail line scrub
  else
    let ch := s.hbmChannel pa
    let (g, row, _) := hbmPlace pa
    match s.parity[Fin.ofNat 16 g].retired with
    | none => if second then (s.poisonLine line).noteRow ch row else ((s.logError 6 1 ch 0 (line * 64)).count (channelItem ch 4) 1).noteRow ch row
    | some m =>
      if ch / 16 = m then (s.logError 6 1 ch 0 (line * 64)).count (channelItem ch 4) 1
      else ((s.poisonLine line).wantService 1 ch (line * 64)).noteRow ch row

/-- What a read of a line finds (R415 to R419). -/
def State.scrubLine (s : State) (pa : Nat) (found : ReadFault) : State :=
  let line := pa / 64
  let unit := unitOf pa
  let ch := s.hbmChannel pa
  let failed (s : State) (kind : Nat) : State :=
    let s := s.logError kind unit (s.locOf pa) 0 (line * 64)
    if inHbm pa then s.count (channelItem ch 3) 1 else s
  if !(inMemory pa || inScratch pa) then s
  else match found with
    | .clean => s
    | .corrected =>
      let s := s.countCorrected unit
      if inHbm pa then s.count (channelItem ch 2) 1 else s
    | .transient => s.logError 1 unit (s.locOf pa) 0 (line * 64)
    | .lasting => (failed s 3).lastingFailure pa true false
    | .demand => (failed s 2).lastingFailure pa false false
    | .double => (failed s 2).lastingFailure pa false true
    | .latentDouble => (failed s 3).lastingFailure pa true true

/-- What a read of a register file or of an array finds: an error that cannot be corrected poisons what it struck, by `poison` (R172, R256,
R415, R429). -/
def State.scrubCore (s : State) (core unit : Nat) (found : ReadFault) (poison : State → State) : State :=
  let bad (kind : Nat) : State := ((poison (s.logError kind unit core 0 0)).logError 4 unit core 0 0)
  match found with
  | .clean => s
  | .corrected => s.countCorrected unit
  | .transient => s.logError 1 unit core 0 0
  | .lasting => bad 3
  | .demand => bad 2
  | .double => bad 2
  | .latentDouble => bad 3

/-- The key under which the lasting failures of a row of a core's register file are noted. -/
def regRow (core row : Nat) : Nat := 2 ^ 64 + 2 ^ 16 * core + row
/-- The row of a core's register file that holds a hart's vector register: one for each register of each crew (log 117). -/
def regRowOf (hart : Nat) (reg : BitVec 5) : Nat := regRow (coreOf hart) (32 * (crewOf hart % 4) + reg.toNat)
/-- A 64-bit word of a vector register that its hart holds, poisoned (R172). -/
def Hart.poisonWord (h : Hart) (reg : BitVec 5) (word : Nat) : Hart :=
  if word < 16 * h.lanes.length then
    { h with vpoison := h.vpoison.set reg.toNat (setField (h.vp reg) (8 * word) 8 255) reg.isLt }
  else h

/-- PATROL_SCRUB: a line read on the scrubber's pass or by a demand read, or an error in a register file or an array, and what was found (R172,
R256, R415 to R419). -/
def execPatrolScrub (place : ScrubPlace) (found : ReadFault) (s : State) : Out :=
  .next (match place with
    | .line pa => s.scrubLine pa found
    | .vreg hart reg word =>
      let h := hart % 512
      s.scrubCore (coreOf h) 5 found fun s =>
        (s.mapHart h fun x => x.poisonWord reg word).noteFail (regRowOf h reg) (found == .lasting || found == .latentDouble)
    | .plane core shadow =>
      s.scrubCore (core % 64) 6 found fun s => s.mapCore (core % 64) fun c =>
        { c with array := if shadow then { c.array with shd := { c.array.shd with poison := true } }
                          else { c.array with act := { c.array.act with poison := true } } }
    | .tileRow core tile row =>
      let t := Fin.ofNat 4 tile
      s.scrubCore (core % 64) 6 found fun s => s.mapCore (core % 64) fun c =>
        { c with array := { c.array with rowPoison := c.array.rowPoison.set t (c.array.rowPoison[t] ||| (1#64 <<< (row % 64))) } })

/-! ### Spares (R423 to R425) -/

/-- A row is to be remapped: two lasting failures are noted in it, or one that the scrubber confirms (R424). -/
def State.rowFailed (s : State) (inRow : Nat → Bool) : Bool :=
  let l := s.rowFails.filter fun e => inRow e.1
  2 ≤ l.length || l.any Prod.snd
/-- The failures of a row forgotten: it has been remapped. -/
def State.rowMended (s : State) (inRow : Nat → Bool) : State := { s with rowFails := s.rowFails.filter fun e => !inRow e.1 }

/-- Line `i` of the row at an address: the lines of one scratchpad bank lie 4 KiB apart (R16), those of a pool die side by side. -/
def rowLine (pa i : Nat) : Nat := if inScratch pa then pa / 64 + 64 * i else pa / 64 + i
/-- A line of the row at an address, of `lines` lines. -/
def inRowOf (pa lines l : Nat) : Bool := (List.range lines).any fun i => rowLine pa i = l && (!inScratch pa || bankOf (64 * l) = bankOf pa)

/-- ROW_REMAP: a failed row of a pool die, a scratchpad bank or a register file moved to a spare; the lines that cannot be read move poisoned
(R424). How many spares a register file has the spec does not say: whether one is left is free (log 117). -/
def execRowRemap (place : RowPlace) (lines : Nat) (lost : List Nat) (s : State) : Out :=
  .next (match place with
    | .memory pa =>
      let inRow (l : Nat) : Bool := inRowOf pa lines l
      let bad (s : State) : State := (lost.filter fun i => i < lines && inRow (rowLine pa i)).foldl (fun s i => s.poisonLine (rowLine pa i)) s
      if !s.rowFailed inRow then s
      else if inPool pa then
        let d := poolDie pa
        if (s.dieAt d).spareRows < 1024 then
          ((bad (s.mapDie d fun x => { x with spareRows := x.spareRows + 1 })).rowMended inRow).logError 9 3 d 0 pa
        else (bad s).wantService 3 d pa
      else if inScratch pa then
        let bank := bankOf pa
        let n := SMap.get 0 s.bankRows bank
        if n < 16 then ((bad { s with bankRows := SMap.set 0 s.bankRows bank (n + 1) }).rowMended inRow).logError 9 4 bank 0 pa
        else (bad s).wantService 4 bank pa
      else s
    | .registers core row =>
      let c := core % 64
      let inRow (l : Nat) : Bool := l == regRow c row
      if !s.rowFailed inRow then s
      else
        let d := s.draw
        if Config.freeBit d.1 then ((d.2.rowMended inRow).count 47 1).logError 9 5 c 0 0 else d.2.wantService 5 c 0)

/-- The spare core takes a failed core's number with its own scratchpad banks and register files, whose rows have neither failed nor been
spared; or the core stays out of service (R423, R424). -/
def State.swapCore (s : State) (c : Nat) : State :=
  let lo := scratchPa c 0
  let hi := scratchPa (c + 1) 0
  let mine (key : Nat) : Bool := (lo ≤ 64 * key && 64 * key < hi) || (regRow c 0 ≤ key && key < regRow (c + 1) 0)
  if (s.dieAt (c / 8)).spareUsed then s.wantService 8 c 0
  else
    let s := { s with mem := s.mem.filter (fun e => !(decide (lo ≤ e.1) && decide (e.1 < hi))),
                      poison := s.poison.filter (fun e => !(decide (lo ≤ 64 * e.1) && decide (64 * e.1 < hi))),
                      bankRows := s.bankRows.filter (fun e => e.1 / 64 ≠ c), rowFails := s.rowFails.filter fun e => !mine e.1 }
    let s := s.mapCore c fun k => { Core.reset with lanes := k.lanes.map fun g => { g with owner := none } }
    (s.mapDie (c / 8) fun d => { d with spareUsed := true }).logError 10 8 c 0 0

/-- CORE_SPARE: a core with a lasting failure: its crews leave, or end as an abandoned trap with CAUSE 9; a launch that holds
scratchpad on it is abandoned; once it is empty the spare takes its place (R423). -/
def execCoreSpare (core : Nat) (readable : Bool) (s : State) : Out :=
  let c := core % 64
  let s := s.mapCore c fun k => { k with inService := false }
  let lost (l : Launch) : Bool := l.scratch ≠ 0 && (s.coreAt c).scratchOwner = some l.lid
  let gone := s.launches.filter fun l => l.st ≠ .ending &&
    (lost l || (!readable && (coreCrews c).any fun n => (match (s.crewAt n).resident with | some r => r.lid = l.lid | none => false)))
  let crewOn (l : Launch) : Nat :=
    ((coreCrews c).find? fun n => match (s.crewAt n).resident with | some r => r.lid = l.lid | none => false).getD (4 * c)
  let s := gone.foldl (fun t l => t.abandon l (crewOn l) 9) s
  .next (if (coreCrews c).all fun n => (s.crewAt n).resident.isNone then s.swapCore c
    else (coreCrews c).foldl (fun s n =>
      let x := s.crewAt n
      if x.resident.isNone || x.ending || x.abandoned || x.preempt then s else s.request n none) s)

/-! ### The checkpoint (R426 to R428) -/

/-- A crew stopped for the checkpoint as a pre-emption stops it, without a handler: tags drained, taint empty, commands at unit
boundaries, the matrix queue drained, deliveries dropped and copy-fed data rolled back (R426). -/
def State.freeze (s : State) (n : Nat) : State :=
  if (s.crewAt n).resident.isNone then s
  else
    let still (s : State) (h : Nat) : State :=
      ((s.performTags h fun _ => true).withdrawPage h).mapHart h fun x => { x.clearTaint with stalled := none, run := none }
    let s := (((still (still s (2 * n)) (2 * n + 1)).drainCopies (2 * n)).mxDrain n).sluicePark n
    let c := s.crewAt n
    let s := s.mapHart (2 * n) fun x => { x with copies := x.copies.map c.rollBack }
    s.mapCrew n fun c => { c with chutes := c.chutes.map fun q => if q.kept then q else { q with entries := [], resv := 0, feeder := q.keeper } }

/-- Bytes as sparse data from an address on. -/
def cellsOf (pa : Nat) (b : List Byte) : SMap Byte := SMap.setRange 0 [] pa b
/-- The parts of memory that the image copies, as (address, size, offset in the image): scratchpad, backed pool SRAM, HBM (R427). -/
def imageParts : List (Nat × Nat × Nat) :=
  (0x204_0000_0000, 0x8000_0000, 0x4000_0000) ::
  ((List.range 8).map fun d => (0x200_0000_0000 + d * 0x8000_0000, 0x7000_0000, 0x1_0000_0000 + d * 0x7000_0000)) ++
  [(0, 0x5A_0000_0000, 0x5_0000_0000)]
/-- The header of the image: VALID, the sequence number, time, mode, retired member and cursor of each group, the spare cores and the spare rows
of the pool dies and the scratchpad banks. The widths are the model's (R427, log 44). -/
def State.imageHeader (s : State) : List Byte :=
  leBytesOf 8 1 ++ leBytesOf 8 s.ckptSeq ++ leBytesOf 8 s.ckptTime ++
  (s.parity.toList.flatMap fun g =>
    leBytesOf 8 (if g.retired.isNone then 0 else if g.cursor < rowCount then 1 else 2) ++ leBytesOf 8 (g.retired.elim 0 (· + 1)) ++ leBytesOf 8 g.cursor) ++
  (s.dies.toList.flatMap fun d => leBytesOf 8 (if d.spareUsed then 1 else 0) ++ leBytesOf 8 d.spareRows) ++
  leBytesOf 2560 (packCodes 5 ((List.range 4096).map fun b => SMap.get 0 s.bankRows b))
/-- The x, v and k registers and the CSRs of a hart in the image, in a form of the model's (R427, log 44). -/
def State.imageHart (s : State) (h : Nat) : List Byte :=
  let x := s.hartAt h
  wordBytes (x.x.toList.map BitVec.toNat) ++ (x.v.toList.flatMap fun r => leBytesOf 2048 r.toNat) ++ (x.k.toList.flatMap fun r => leBytesOf 512 r.toNat) ++
  wordBytes ([x.pc.toNat, if x.sup then 1 else 0, x.fcsr.toNat, x.vstart.toNat, x.vl.toNat, x.vtype.toNat, x.lanes.length, x.lgquota.toNat, x.vdirty.toNat,
    x.kdirty.toNat, x.vstate.toNat, x.attncfg.toNat, x.cpbar.toNat, x.sstatus.toNat, x.stvec.toNat, x.sepc.toNat, x.scause.toNat, x.stval.toNat,
    x.sscratch.toNat, x.sxlat.toNat, x.violog.toNat, s.cycleOf h, x.instret.toNat])
/-- The hardware sections of a crew by their offsets in its save area (R406, R427). -/
def State.imageCrew (s : State) (n : Nat) : List (Nat × List Byte) :=
  let c := s.crewAt n
  [(0, s.saveHeader n), (4096, c.chuteSection), (73728, if c.lease = .held then ((s.coreAt (n / 4)).array).save else leBytesOf 8 0),
   (372736, (s.hartAt (2 * n + 1)).chain.section'), (413696, c.cursorSection), (425984, (s.hartAt (2 * n)).copySection)]
/-- The sections of the image outside memory, by their offsets (R427). -/
def State.imageSections (s : State) : List (Nat × List Byte) :=
  ((List.range 512).map fun h => (0x10_0000 + 0x2_0000 * h, s.imageHart h)) ++
  ((List.range 256).flatMap fun n => (s.imageCrew n).map fun e => (0x800_0000 + 0x8_0000 * n + e.1, e.2)) ++ [(0, s.imageHeader)]
/-- Memory with the image in the checkpoint region: the parts copied, then the sections, the header with VALID last (R427). -/
def State.imageMem (s : State) : SMap Byte :=
  let m := SMap.splice Config.ckptBase 0x200_0000_0000 s.mem []
  let m := imageParts.foldl (fun m e => SMap.splice (Config.ckptBase + e.2.2) (Config.ckptBase + e.2.2 + e.2.1) m (SMap.move e.1 e.2.1 (Config.ckptBase + e.2.2) s.mem)) m
  s.imageSections.foldl (fun m e => SMap.setRange 0 m (Config.ckptBase + e.1) e.2) m
/-- The poison bits with those of the parts copied, which travel with their lines (R427). -/
def State.imagePoison (s : State) : SMap Bool :=
  let m := SMap.splice (Config.ckptBase / 64) (0x200_0000_0000 / 64) s.poison []
  imageParts.foldl (fun m e =>
    SMap.splice ((Config.ckptBase + e.2.2) / 64) ((Config.ckptBase + e.2.2 + e.2.1) / 64) m (SMap.move (e.1 / 64) (e.2.1 / 64) ((Config.ckptBase + e.2.2) / 64) s.poison)) m

/-- The image written: every hart stopped, every write performed, VALID last (R426, R427). What the homes and schedulers hold goes beside it
(log 44). -/
def State.checkpoint (s : State) : State :=
  let s := ((List.range 256).foldl State.freeze s).performWhere (fun _ => true) 4
  let s := { s with ckptSeq := s.ckptSeq + 1, ckptTime := s.now }.logError 12 8 0 0 0
  { s with mem := s.imageMem, poison := s.imagePoison, image := some { s.toModule with writes := [], mem := [], poison := [] } }

/-- Nothing of the module is outstanding at other devices, and every command stands at a unit boundary (R426). -/
def State.canCheckpoint (s : State) : Bool :=
  s.requests.isEmpty && (List.range 256).all fun n => s.copiesStill (2 * n)
/-- A checkpoint asked for: it is written once nothing is outstanding; until then the harts are stopped, and the host interface and the link
ports refuse new requests (R426). -/
def State.askCheckpoint (s : State) (after : State → State) : State :=
  if s.canCheckpoint then after { s.checkpoint with stopping := false } else { s with stopping := true }
/-- A checkpoint, and the module's power removed; the decision stands until the image is written (R426, R464). -/
def State.shutdown (s : State) : State := { s with dying := true }.askCheckpoint fun s => { s with off := true, dying := false }
/-- CHECKPOINT_WRITE: on loss of supply the image is written, and the module is without power (R426). -/
def execCheckpointWrite (s : State) : Out := .next s.shutdown

/-- VALID of the image's header (R427). -/
def State.imageValid (s : State) : Bool := leValue (SMap.getRange 0 s.mem Config.ckptBase 8) = 1
/-- Memory once an image is copied back over it: LP6, the checkpoint region with it, stays as it was, and VALID is cleared (R426 to R428). -/
def imageBack (mem : SMap Byte) : SMap Byte :=
  let m := imageParts.foldl (fun m e => SMap.splice e.1 (e.1 + e.2.1) m (SMap.move (Config.ckptBase + e.2.2) e.2.1 e.1 mem)) mem
  SMap.setRange 0 m Config.ckptBase (leBytesOf 8 0)
/-- The poison bits copied back. -/
def poisonBack (p : SMap Bool) : SMap Bool :=
  imageParts.foldl (fun m e => SMap.splice (e.1 / 64) ((e.1 + e.2.1) / 64) m (SMap.move ((Config.ckptBase + e.2.2) / 64) (e.2.1 / 64) (e.1 / 64) p)) p
/-- A core as boot leaves it: every lane group tagged with world 0 (R448, R459). -/
def Core.booted (c : Core) : Core := { c with lanes := c.lanes.map fun g => { g with world := 0 } }
/-- A die as boot leaves it: in the decode partition, dispatch open (R428, R459). -/
def Die.booted (d : Die) : Die := { d with decode := true, hold := false }

/-- The restore of a valid image: memory, harts and homes as they stopped, VALID cleared (R428). Boot has tagged every frame and lane group with
world 0, closed every protected world, and put every die in the decode partition; the image holds none of these (R427, R459). -/
def State.restore (s : State) (m : Module) (old : State) : State :=
  let m := { m with
    mem := imageBack old.mem, poison := poisonBack old.poison, frameTag := [], cores := m.cores.map Core.booted, dies := m.dies.map Die.booted,
    worlds := Module.reset.worlds, nextKey := old.nextKey, keyRing := old.keyRing }
  ({ s with toModule := m, image := none, now := old.now }).logError 13 8 0 0 0

/-- MODULE_RESET: the boot; `fail` is the first stage that fails verification: no hart is started then, and the mailbox answers every
request with STATUS 4. With a valid checkpoint the image is restored; the checkpoint region is kept (R426, R428, R459). -/
def execModuleReset (fail : Option Nat) (s : State) : Out :=
  let region := SMap.splice Config.ckptBase 0x200_0000_0000 Module.reset.mem s.mem
  let r := { State.reset with agenda := s.agenda, freeCtr := s.freeCtr, nextReq := s.nextReq, mem := region,
                              poison := SMap.splice (Config.ckptBase / 64) (0x200_0000_0000 / 64) [] s.poison, image := s.image,
                              nextKey := s.nextKey, keyRing := s.keyRing, ckptSeq := s.ckptSeq, ckptTime := if s.image.isSome then s.ckptTime else 0 }
  .next (match fail with
    | some k =>
      { r with bootFailed := true, mbxDone := false, mbxResp := [], ports := Vector.replicate 32 { Port.reset with st := .down },
               mrBoot := Vector.ofFn fun i => if i.val < k then Sys2Proof.Machine.mrBoot i.val else List.replicate 32 0 }
    | none =>
      match s.image with
      | some m => if s.imageValid then r.restore m s else r
      | none => r)

end Sys2Proof.Machine
end

