-- ==== Sys2Proof/Machine/Bringup.lean ====
section
/-! DEFINITION. The firmware commands of the mailbox, and power and temperature (29_bringup R461 to R465). -/

namespace Sys2Proof.Machine

/-! ### Queues (R349, R353, R461) -/

/-- QBIND: a queue bound to a descriptor in the pool SRAM of its die: TAIL, HEAD, N and the reserved bits take their reset value 0 (R349,
R461). -/
def execQbind (die queue ctx va : Nat) (s : State) : Out :=
  .next (s.forCmd 0x01 [(8, 1, die), (9, 1, queue), (10, 2, ctx), (16, 8, va)] fun s =>
    if 8 ≤ die || 64 ≤ queue || 65536 ≤ ctx || va % 64 ≠ 0 then s.respond 2 []
    else if (s.queueOf die queue).isSome || (ctx ≠ 0 && (s.ctxState ctx = 0 || 4 ≤ s.ctxState ctx)) then s.respond 3 []
    else match s.hwPlace (s.dieReq die ctx) va 64 with
      | (s, none) => s.respond 2 []
      | (s, some pa) =>
        let d := s.homeNat pa 64
        if !inPool pa || poolDie pa ≠ die || qdLogn d = 0 || 12 < qdLogn d || qdBase d % 128 ≠ 0 || s.queues.any (fun q => q.hit pa 64) then
          s.respond 2 []
        else
          let v := qdBase d + qdLogn d * 2 ^ 128 + qdPrio d * 2 ^ 132 + ctx * 2 ^ 136 + 2 ^ 152
          let s := s.homeTake pa 64 v
          let q : UserQueue := ⟨die, queue, ctx, pa, false, false, s.clocksOf die, s.nextLid⟩
          (({ s with queues := s.queues ++ [q] }).tdiChange (s.ctxWorld ctx)).respond 0 [])
/-- A queue unbound: BOUND of its descriptor 0 (R349). -/
def State.unbindQueue (s : State) (q : UserQueue) : State :=
  let s := s.homeTake (q.pa + 16) 8 (putBits (s.homeNat (q.pa + 16) 8) 24 1 0)
  ({ s with queues := s.queues.filter fun x => !(x.die = q.die && x.num = q.num) }).tdiChange (s.ctxWorld q.ctx)
/-- QUNBIND: a queue is unmapped first, by the condition of R353: HEAD = TAIL with no record in dispatch. Until then, and while its last swap finds
N set, the command waits (R353, R461). -/
def execQunbind (die queue : Nat) (s : State) : Out :=
  .next (s.forCmd 0x02 [(8, 1, die), (9, 1, queue)] fun s =>
    if 8 ≤ die || 64 ≤ queue then s.respond 2 []
    else match s.queueOf die queue with
      | none => s.respond 3 []
      | some q =>
        if !q.mapped then (s.unbindQueue q).respond 0 []
        else if !s.queueEmpty q then s
        else
          let t := s.unmapQueue q
          match t.queueOf die queue with
          | some q => if q.mapped then t else (t.unbindQueue q).respond 0 []
          | none => t)

/-! ### Partitions and clocks (R17, R18, R463) -/

/-- A change that waits until some dies are drained: dispatch stops on them and their crews receive requests; once no crew is
resident there the change is made (R463). -/
def State.drained (s : State) (dies : List Nat) (apply : State → State) : State :=
  let crews := (List.range 256).filter fun n => dies.contains (n / 32) && (s.crewAt n).resident.isSome
  let s := dies.foldl (fun s d => s.mapDie d fun x => { x with hold := true }) s
  if crews.isEmpty then dies.foldl (fun s d => s.mapDie d fun x => { x with hold := false }) ((apply s).respond 0 [])
  else crews.foldl (fun s n =>
    let x := s.crewAt n
    if x.ending || x.abandoned || x.preempt then s else s.request n none) s

/-- PARTSET (R463). -/
def execPartset (mask : BitVec 8) (s : State) : Out :=
  let moved := (List.range 8).filter fun d => (s.dieAt d).decode != mask.getLsbD d
  .next (s.forCmd 0x03 [(8, 1, mask.toNat)] fun s => s.drained moved fun s => moved.foldl (fun s d => s.mapDie d fun x => { x with decode := mask.getLsbD d }) s)
/-- CLKSET (R463). -/
def execClkset (part mhz : Nat) (s : State) : Out :=
  .next (s.forCmd 0x04 [(8, 1, part), (10, 2, mhz)] fun s =>
    if 2 ≤ part || mhz % 50 ≠ 0 || mhz < 1400 || 2400 < mhz then s.respond 2 []
    else if s.clkset[Fin.ofNat 2 part] = mhz then s.respond 0 []
    else
      let dies := (List.range 8).filter fun d => (s.dieAt d).decode == (part == 1)
      s.drained dies fun s => { s with clkset := s.clkset.set (Fin.ofNat 2 part) mhz, mhz := s.mhz.set (Fin.ofNat 2 part) mhz })
/-- PWRLIM (R461, R464). -/
def execPwrlim (watts : Nat) (s : State) : Out :=
  .next (s.forCmd 0x05 [(8, 2, watts)] fun s => if watts < 1500 || 3400 < watts then s.respond 2 [] else ({ s with pwrLimit := watts }).respond 0 [])
/-- SLICE (R384, R461). -/
def execSlice (log2 : Nat) (s : State) : Out :=
  .next (s.forCmd 0x06 [(8, 1, log2)] fun s => if log2 < 16 || 24 < log2 then s.respond 2 [] else ({ s with sliceLog := log2 }).respond 0 [])

/-! ### Power and temperature (R464) -/

/-- The sensors of a partition's dies, in thousandths of a degree. -/
def State.sensors (s : State) (part : Nat) : List Nat :=
  (List.range 32).filterMap fun i => if (s.dieAt (i / 4)).decode == (part == 1) then some s.temps[Fin.ofNat 32 i] else none
/-- No partition with a die can be throttled further. -/
def State.noThrottle (s : State) : Bool :=
  (List.range 8).all fun d => s.mhz[Fin.ofNat 2 (if (s.dieAt d).decode then 1 else 0)] ≤ 1400
/-- POWER_SAMPLE: power and temperatures sampled; at 110 °C, or after 10 ms above 3,400 W with no throttling left, the module is shut
down (R464). -/
def execPowerSample (milliwatts : Nat) (temps : List Nat) (s : State) : Out :=
  let s := { s with power := milliwatts, temps := Vector.ofFn fun i => temps.getD i.val 0 }
  let s := { s with overSince := if milliwatts > 3400000 && s.noThrottle then some (s.overSince.getD s.now) else none }
  .next (if s.temps.toList.any (fun t => 110000 ≤ t) || (match s.overSince with | some t => t + 10000000 ≤ s.now | none => false) then s.shutdown
    else s)
/-- THROTTLE_STEP: the clock of a partition one step of 50 MHz down once the power reaches its limit or a sensor 95 °C, or up (log 118); no result of an instruction changes (R18, R20, R464). -/
def execThrottleStep (part : Nat) (s : State) : Out :=
  let p := Fin.ofNat 2 part
  let m := s.mhz[p]
  let hot := s.sensors p.val
  .next (if s.pwrLimit * 1000 ≤ s.power || hot.any (fun t => 95000 ≤ t) then { s with mhz := s.mhz.set p (max 1400 (m - 50)) }
    else if s.power < s.pwrLimit * 1000 && hot.all (fun t => t < 90000) then { s with mhz := s.mhz.set p (max m (min s.clkset[p] (m + 50))) }
    else s)

/-! ### The other commands (R461, R462, R465) -/

/-- CHRETIRE: STATUS 3 when the group is degraded, its cursor at the end; a second retirement during a rebuild has the effect of R422 (R420,
R461). -/
def execChretire (ch : Nat) (s : State) : Out :=
  .next (s.forCmd 0x08 [(8, 2, ch)] fun s =>
    let x := s.parity[Fin.ofNat 16 (ch % 16)]
    if 256 ≤ ch then s.respond 2 []
    else if x.retired.isSome && decide (rowCount ≤ x.cursor) then s.respond 3 [] else (s.retireChannel ch).respond 0 [])
/-- REVOKE: the lease of a core revoked (R253, R461). -/
def execRevoke (core : Nat) (s : State) : Out :=
  .next (s.forCmd 0x09 [(8, 1, core)] fun s =>
    if 64 ≤ core then s.respond 2 []
    else match s.leaseHolder core with
      | some n => (s.leaseRevoke n).respond 0 []
      | none => s.respond 0 [])
/-- CKPT: a checkpoint on a firmware command; the answer is its sequence number (R426, R462). A shutdown that waited for the image removes the
power (R464). -/
def execCkpt (s : State) : Out :=
  .next (s.forCmd 0x0A [] fun s => s.askCheckpoint fun s => { s.respond 0 (leBytesOf 8 s.ckptSeq) with off := s.off || s.dying, dying := false })
/-- APMAP: a BAR2 page mapped (R440, R462). -/
def execApmap (page ctx : Nat) (rights : BitVec 2) (base len : Nat) (s : State) : Out :=
  .next (s.forCmd 0x0B [(8, 2, page), (10, 2, ctx), (12, 1, rights.toNat), (16, 8, base), (24, 8, len)] fun s =>
    if 4096 ≤ page || 65536 ≤ ctx || base % 0x1_0000 ≠ 0 || len % 0x1_0000 ≠ 0 || 0x100_0000 < len then s.respond 2 []
    else
      let a : Aperture := ⟨page, ctx, rights.getLsbD 0, rights.getLsbD 1, base, len⟩
      let old := ((s.apertures.filter fun x => x.page = page).map fun x => s.ctxWorld x.ctx).filter fun w => w ≠ s.ctxWorld ctx
      (old.foldl State.tdiChange (({ s with apertures := a :: s.apertures.filter fun x => x.page ≠ page }).tdiChange (s.ctxWorld ctx))).respond 0 [])
/-- APMAP_UNMAP: bit 2 of the rights asks for it (R440, R462). -/
def execApmapUnmap (page : Nat) (s : State) : Out :=
  .next (s.forReq ([4, 5, 6, 7].any fun v => s.asks 0x0B [(8, 2, page), (12, 1, v)]) fun s =>
    if 4096 ≤ page then s.respond 2 []
    else match s.apertures.find? fun x => x.page = page with
      | none => s.respond 0 []
      | some a => (({ s with apertures := s.apertures.filter fun x => x.page ≠ page }).tdiChange (s.ctxWorld a.ctx)).respond 0 [])
/-- LOGREAD: records of the module error log from the first index still held (R429, R462). -/
def execLogread (first count : Nat) (s : State) : Out :=
  .next (s.forCmd 0x0C [(8, 8, first), (16, 2, count)] fun s =>
    if count = 0 || 127 < count then s.respond 2 []
    else
      let wr := s.homeNat Config.errLog 8
      let rd := s.homeNat (Config.errLog + 8) 8
      let lo := max first rd
      s.respond 0 ((List.range (min count (wr - lo))).flatMap fun i => s.homeBytes (Config.errLog + 64 + 32 * ((lo + i) % 4096)) 32))
/-- TIMER: a hart's comparator (R461, R465). -/
def execTimer (hart : Nat) (value : BitVec 64) (s : State) : Out :=
  .next (s.forCmd 0x0D [(8, 2, hart), (16, 8, value.toNat)] fun s => if 512 ≤ hart then s.respond 2 [] else (s.mapHart hart fun x => { x with timecmp := value }).respond 0 [])

end Sys2Proof.Machine
end

