-- ==== Sys2Proof/Machine/Seq.lean ====
section
/-! DEFINITION. The serving descriptor: BSHAPE, SQADM, SQRET and VSTOP (21_queue R354 to R364). -/

namespace Sys2Proof.Machine

/-! ### The serving descriptor, the sequence record and the entries (R354 to R357), as the numbers their bytes make -/

def sdPool (d : Nat) : Nat := bits d 63 0
def sdSeqtab (d : Nat) : Nat := bits d 127 64
def sdNseq (d : Nat) : Nat := bits d 143 128 + 1
def sdAdmn (d : Nat) : Nat := bits d 147 144
def sdCmpln (d : Nat) : Nat := bits d 151 148
def sdStep (d : Nat) : Nat := bits d 191 160
def sdSteps (d : Nat) : Nat := bits d 255 192
def sdAdm (d : Nat) : Nat := bits d 319 256
def sdAdmHead (d : Nat) : Nat := bits d 351 320
def sdAdmTail (d : Nat) : Nat := bits d 383 352
def sdCmpl (d : Nat) : Nat := bits d 447 384
def sdCmplWr (d : Nat) : Nat := bits d 479 448
def sdCmplRd (d : Nat) : Nat := bits d 511 480
/-- The place of a sequence's record (R356). -/
def sdRecord (d s : Nat) : Nat := sdSeqtab d + 8 * sdNseq d + 64 * s
/-- The place of a step entry (R355). -/
def sdEntry (d k : Nat) : Nat := sdSteps d + 16 * (k % 2)

def srState (r : Nat) : Nat := bits r 2 0
def srNstop (r : Nat) : Nat := bits r 11 8
def srCur (r : Nat) : Nat := bits r 18 16
def srCurv (r : Nat) : Bool := r.testBit 19
def srCrew (r : Nat) : Nat := bits r 27 20
def srRhart (r : Nat) : Nat := bits r 63 55
def srBt (r : Nat) : Nat := bits r 127 64
def srNpages (r : Nat) : Nat := bits r 159 128
def srStop (r : Nat) : Nat := bits r 255 192
def srTag (r : Nat) : Nat := bits r 319 256
/-- The reserved bits of a record are zero (R356). -/
def srReservedOk (r : Nat) : Bool :=
  bits r 511 384 = 0 && bits r 191 160 = 0 && bits r 54 28 = 0 && bits r 15 12 = 0 && bits r 7 4 = 0

/-! ### BSHAPE (R359) -/

/-- BSHAPE: it reads and faults like a scalar load, and takes one tag, with rd = x0 too (R214, R359). -/
def execBshape (rd rs1 rs2 : BitVec 5) (s : State) : Out :=
  settle (do
    let h ← getHart
    let va := (h.xr rs1).toNat
    if va % 64 ≠ 0 then trap 0 va
    waitTaint [h.xt rs1, h.xt rs2]
    let tag ← takeTag
    let d := leValue (← doAccess fun s => s.readVa va 64 .read false true)
    let sel := (h.xr rs2).toNat
    let entry (lo n : Nat) : M Nat := do
      let a := (sdEntry d (sdStep d) + lo) % 2 ^ 64
      if a % n ≠ 0 then trap 0 a
      return leValue (← doAccess fun s => s.readVa a n .read false true)
    let v ← match sel with
      | 0 => entry 8 4
      | 1 => entry 0 8
      | 2 => pure (sdSeqtab d)
      | 3 => pure (sdSeqtab d + 4 * sdNseq d)
      | 4 => pure (sdStep d)
      | 5 => pure (sdEntry d (sdStep d + 1))
      | 6 => pure (sdNseq d)
      | _ => pure (2 ^ 64 - 1)
    let _ ← readTag
    writeX rd (BitVec.ofNat 64 v) (← joinX [rs1, rs2] [tag])
    retire 4) s

/-! ### Accesses of SQADM and SQRET: the hart's own path, each fault a code (R360) -/

/-- Why a SEQ command returns: a code, an access that failed with a cause at an address, an answer awaited, or a page that a
home holds back. -/
inductive QStop where
  | code (c v : Nat)
  | fault (c va : Nat)
  | wait
  | held (w : PageWait)
  deriving DecidableEq, Repr

/-- A computation of a SEQ command. -/
abbrev Q := EStateM QStop State

/-- The code of an access's cause (R360). -/
def seqCode (c : Nat) : Nat := if c = 2 then 2 else if c = 3 then 3 else 1

def Q.of {α : Type} (f : State → State × Except AccFault α) : Q α := fun s =>
  match f s with
  | (s, .ok a) => .ok a s
  | (s, .error .wait) => .error .wait s
  | (s, .error (.cause c a)) => .error (.fault c a) s
/-- A number of `n` bytes at a virtual address, by a load of the own path. -/
def Q.read (va n : Nat) : Q Nat := do return leValue (← Q.of fun s => s.readVa (va % 2 ^ 64) n .read false true)
/-- The word at its home: a read at module scope. -/
def Q.home (va n : Nat) : Q Nat := Q.of fun s => s.amoVa .lda (va % 2 ^ 64) n 0 0
/-- The byte at a virtual address lies at another device. -/
def State.isFar (s : State) (va : Nat) (acc : Acc) : Bool :=
  match (s.locate (s.reqFor s.cur) (va % 2 ^ 64) acc).2 with
  | .ok (.remote _ _) => true
  | .ok (.remoteTol _ _ _) => true
  | _ => false
/-- A number stored by the own path; a trial (`dry`) leaves out a store at another device. -/
def Q.write (dry : Bool) (va n v : Nat) : Q Unit := fun s =>
  if dry && s.isFar va .write then .ok () s else Q.of (fun s => s.writeVa (va % 2 ^ 64) (leBytesOf n v) false false) s
/-- A word replaced at its home, or tried. -/
def Q.swap (dry : Bool) (va n v : Nat) : Q Unit := fun s =>
  if dry && s.isFar va .write then .ok () s else (do let _ ← Q.of fun s => s.amoVa .swap (va % 2 ^ 64) n v 0) s
/-- A computation tried: it answers as it would, and changes nothing. -/
def Q.dry {α : Type} (q : Q α) : Q α := fun s =>
  match q s with
  | .ok a _ => .ok a s
  | .error e t => .error e t

/-- The requests and answers of another device kept from an attempt, nothing else. -/
def State.keepRemote (s t : State) : State :=
  ({ s with requests := t.requests, nextReq := t.nextReq, ports := t.ports, hostOut := t.hostOut }).mapMe fun h =>
    { h with remote := t.me.remote }

/-- A failing access entered in the logs (R346, R360, R417, R453). -/
def State.seqFault (s : State) (c va : Nat) : State :=
  let ag := s.hartAgent (s.cur.val % 2)
  match (s.locate ag.rq va .read).2 with
  | .ok (.local pa) => s.cmdFault ag (if c = 8 then 5 else if c = 9 then 4 else c) va pa
  | .ok (.tolerant pa _) => s.cmdFault ag (if c = 8 then 5 else if c = 9 then 4 else c) va pa
  | _ => s.cmdFault ag c va 0

/-- A SEQ command's atomic part: VALUE and CODE. One that returns a non-zero code changes nothing (R466). -/
def runQ {α : Type} (q : Q α) (f : α → M Unit) (done : Nat → Nat → M Unit) : M Unit := do
  let s ← get
  match q s with
  | .ok a t => modState (fun _ => t); f a
  | .error (.code c v) _ => done v c
  | .error (.fault c va) _ =>
    modState fun s => s.seqFault c va
    done 0 (seqCode c)
  | .error .wait t => modState (fun s => s.keepRemote t); stall .remote
  | .error (.held w) _ => do modState (State.pageHold · w); stall .homeHeld

/-- (VALUE << 8) | CODE, with an empty taint set (R360). -/
def seqDone (rd : BitVec 5) (v code : Nat) : M Unit := do
  writeX rd (BitVec.ofNat 64 (v * 2 ^ 8 + code)) noTaint
  retire 4

/-- The serving descriptor: aligned to 64, its reserved byte zero (R354, R360). -/
def Q.descriptor (va : Nat) : Q Nat := do
  if va % 64 ≠ 0 then throw (.code 8 0)
  let d ← Q.read va 64
  if bits d 159 152 ≠ 0 then throw (.code 8 0)
  return d

/-- The pool of a serving descriptor, for the executing hart (R360). -/
def Q.pool (d : Nat) : Q PoolRec := fun s =>
  match s.poolNamed (s.hartAgent (s.cur.val % 2)) (sdPool d) with
  | (s, .ok p) => .ok p s
  | (s, .error 4) => .error (.code 4 0) s
  | (s, .error c) => .error (.fault c (sdPool d)) s

/-! ### SQADM (R361) -/

/-- The lowest free record, from s upward. -/
def Q.freeRecord (d : Nat) : Nat → Nat → Q Nat
  | 0, _ => throw (.code 6 0)
  | k + 1, s => do
    let w ← Q.home (sdRecord d s) 8
    if srState w = 0 then return s else Q.freeRecord d k (s + 1)

/-- The admission of one sequence (R361), whole: within one step no CAS of the loop fails. ADMTAIL is acquired at system scope before the
entry is read. -/
def Q.admitSeq (va reserve : Nat) : Q Nat := do
  let d ← Q.descriptor va
  let h ← Q.home (va + 40) 4
  let t ← Q.home (va + 44) 4
  if h = t then throw (.code 5 0)
  modify fun s => s.catchUp (hartView s.cur)
  let p ← Q.pool d
  let pd := (← get).poolDesc p
  if pdFreeCnt pd < reserve then throw (.code 9 0)
  let s ← Q.freeRecord d (sdNseq d) 0
  let e := sdAdm d + 32 * (h % 2 ^ sdAdmn d)
  let tag ← Q.read e 8
  let bt ← Q.read (e + 8) 8
  let w ← Q.read (e + 16) 8
  let stop ← Q.read (e + 24) 8
  if bits w 27 24 > 8 || bits w 31 28 ≠ 0 then throw (.code 8 0)
  let r := sdRecord d s
  let w0 ← Q.home r 8
  Q.swap false r 8 (putBits (putBits (putBits w0 0 3 1) 3 1 0) 8 4 (bits w 27 24))
  Q.swap false (va + 40) 4 ((h + 1) % 2 ^ 32)
  Q.write false (r + 8) 8 bt
  Q.write false (r + 16) 4 (bits w 63 32)
  Q.write false (r + 24) 8 stop
  Q.write false (r + 32) 8 tag
  Q.write false (r + 44) 4 0
  Q.write false (sdSeqtab d + 4 * s) 4 (bits w 23 0)
  Q.write false (sdSeqtab d + 4 * sdNseq d + 4 * s) 4 0
  return s

/-- SQADM (R360, R361): an acquire at system scope. -/
def execSqadm (rd rs1 rs2 : BitVec 5) (s : State) : Out :=
  settle (do
    let h ← getHart
    waitTaint [h.xt rs1, h.xt rs2]
    runQ (Q.admitSeq (h.xr rs1).toNat ((h.xr rs2).toNat % 2 ^ 32))
      (fun n => do acquireNow; seqDone rd n 0) (seqDone rd)) s

/-! ### SQRET (R362, R363) -/

/-- A sequence marked retiring by the executing hart, its completion record reserved; a record that it is retiring already
goes on. The answer is the descriptor and NPAGES (R362). -/
def Q.retireStart (dry : Bool) (va s : Nat) : Q (Nat × Nat) := do
  let d ← Q.descriptor va
  if s ≥ sdNseq d then throw (.code 8 0)
  let r := sdRecord d s
  let w0 ← Q.home r 8
  let hart := (← get).cur.val
  if srState w0 = 3 then
    if srRhart w0 ≠ hart then throw (.code 10 0) else return (d, ← Q.home (r + 16) 4)
  let rec' ← Q.read r 64
  if srState w0 = 0 || srNstop w0 > 8 || !srReservedOk rec' then throw (.code 8 0)
  let _ ← Q.pool d
  let wr ← Q.home (va + 56) 4
  let rd ← Q.home (va + 60) 4
  if (wr + 2 ^ 32 - rd) % 2 ^ 32 ≥ 2 ^ sdCmpln d then throw (.code 7 0)
  Q.swap dry (va + 56) 4 ((wr + 1) % 2 ^ 32)
  Q.write dry (r + 40) 4 wr
  Q.swap dry r 8 (putBits (putBits (putBits w0 0 3 3) 3 1 (if srState w0 = 1 then 1 else 0)) 55 9 hart)
  return (d, ← Q.home (r + 16) 4)

/-- PGREL of one page for SQRET: whether it failed. A home may hold it, and then it answers it (R275, R362). -/
def Q.release (dry : Bool) (p : PoolRec) (id : Nat) : Q Bool := fun t =>
  match t.me.remote.find? fun r => r.dev == 256 with
  | some r => .ok (leValue ((r.ans.map Prod.snd).getD []) % 256 != 0) (t.mapMe fun h => { h with remote := h.remote.erase r })
  | none =>
    if id ≥ p.npages then .ok true t
    else match t.pageApply p 5 (t.partOf (dieOf t.cur)) id with
      | none => if dry then .ok false t else .error (.held ⟨t.cur, p.pa, 5, id, t.partOf (dieOf t.cur)⟩) t
      | some (t, c) => .ok (c != 0) t
/-- Page `n` − 1 of a retiring sequence released, the last of `n` (R362). -/
def Q.retirePage (dry : Bool) (d s n : Nat) : Q Unit := do
  let r := sdRecord d s
  let at' := (← Q.read (r + 8) 8) + 4 * (n - 1)
  let e ← Q.read at' 4
  if e ≠ 0xFFFF_FFFF then
    if ← Q.release dry (← Q.pool d) e then Q.write dry (r + 44) 4 (((← Q.home (r + 44) 4) + 1) % 2 ^ 32)
  Q.write dry at' 4 0xFFFF_FFFF
  Q.swap dry (r + 16) 4 (n - 1)
/-- The pages of a retiring sequence tried, one after the other. -/
def Q.retirePages (d s : Nat) : Nat → Q Unit
  | 0 => pure ()
  | k + 1 => do Q.retirePage true d s (k + 1); Q.retirePages d s k

/-- The cursor detached, the completion record, and the record freed (R362, R363). The answer is CSLOT. -/
def Q.retireEnd (dry : Bool) (d s : Nat) : Q Nat := do
  let r := sdRecord d s
  let rec' ← Q.read r 64
  let w0 ← Q.home r 8
  let slot ← Q.home (r + 40) 4
  let fails ← Q.home (r + 44) 4
  let pos ← Q.read (sdSeqtab d + 4 * s) 4
  let c := sdCmpl d + 32 * (slot % 2 ^ sdCmpln d)
  if srCurv w0 then
    modify fun t => t.mapCrew (srCrew w0) fun x =>
      let cu := x.cursor (srCur w0)
      x.setCursor (srCur w0) { cu with slots := Vector.replicate 4 .empty }
  Q.write dry c 8 (srTag rec')
  Q.write dry (c + 16) 8 ((pos + 1) % 2 ^ 32 + fails * 2 ^ 32)
  Q.write dry (c + 24) 8 ((← get).now % 2 ^ 64)
  modify fun t => t.performWhere (t.ownWrite none) 4
  Q.write dry (c + 8) 8 ((slot + 1) % 2 ^ 32 + (if w0.testBit 3 then 2 ^ 32 else 0))
  modify fun t => t.performWhere (t.ownWrite none) 4
  Q.swap dry r 8 (putBits w0 0 3 0)
  return slot

/-- All that SQRET has left to do, tried: its codes are found before anything changes (R362, R466). A page that its home holds is taken to be
released, and a store at another device to be acknowledged. -/
def Q.retireAll (va s : Nat) : Q Unit := do
  let (d, n) ← Q.retireStart true va s
  Q.retirePages d s n
  let _ ← Q.retireEnd true d s

/-- SQRET has released a page: the answers of other devices that it used are dropped, and its hart is at a point where it can be pre-empted (R362). -/
def Hart.pageReleased (h : Hart) (ir : Word) : Hart :=
  let r := h.run.getD ⟨ir, h.vstart.toNat, none, none, 0⟩
  { h with run := some { r with pages := r.pages + 1 }, remote := h.remote.filter fun e => !e.own }

/-- SQRET (R360, R362): a release at module scope; the completion record a release at system scope, its SEQ word last. A code is returned
with nothing changed, as far as no other device refuses a store (log 82). After each page, the last too, the hart waits anew, so that a request
or interrupt is taken there; the sequence then goes on from the stored NPAGES. -/
def execSqret (rd rs1 rs2 : BitVec 5) (s : State) : Out :=
  settle (do
    let h ← getHart
    waitTaint [h.xt rs1, h.xt rs2]
    barrierRelease 3
    let va := (h.xr rs1).toNat
    let n := (h.xr rs2).toNat
    runQ (Q.dry (Q.retireAll va n))
      (fun _ => runQ (Q.retireStart false va n)
        (fun x =>
          if x.2 = 0 then do
            barrierRelease 4
            runQ (Q.retireEnd false x.1 n) (fun slot => seqDone rd slot 0) (seqDone rd)
          else
            runQ (Q.retirePage false x.1 n x.2)
              (fun _ => do
                let t ← get
                modHart fun h => h.pageReleased t.ir
                stall .homeHeld)
              (seqDone rd))
        (seqDone rd))
      (seqDone rd)) s

/-! ### VSTOP (R364) -/

/-- A number read for an element of VSTOP, at its natural alignment. -/
def State.stopRead (s : State) (va n : Nat) : State × Except AccFault Nat :=
  let va := va % 2 ^ 64
  if va % n ≠ 0 then (s, .error (.cause 0 va))
  else match s.readVa va n .read true true with
    | (s, .ok b) => (s, .ok (leValue b))
    | (s, .error e) => (s, .error e)

/-- One element of the stop list compared, from k upward. -/
def State.stopGo (base tok : Nat) : Nat → Nat → State → State × Except AccFault Bool
  | 0, _, s => (s, .ok false)
  | k + 1, i, s =>
    match s.stopRead (base + 4 * i) 4 with
    | (s, .error e) => (s, .error e)
    | (s, .ok t) =>
      match State.stopGo base tok k (i + 1) s with
      | (s, .error e) => (s, .error e)
      | (s, .ok b) => (s, .ok (b || t == tok))

/-- Element i of VSTOP: the mask bit written, or none where it is kept; a live record whose token stops it becomes finished
once every read of the element has passed (R364). `bad` says that the token is poisoned: it is read only here, for a live record (R172). -/
def State.stopElem (s : State) (va i tok : Nat) (bad : Bool) : State × Except AccFault (Option Bool) :=
  match s.stopRead va 64 with
  | (s, .error e) => (s, .error e)
  | (s, .ok d) =>
    match s.stopRead (sdEntry d (sdStep d) + 8) 4 with
    | (s, .error e) => (s, .error e)
    | (s, .ok count) =>
      if i ≥ count then (s, .ok none)
      else
        match s.stopRead (sdEntry d (sdStep d)) 8 with
        | (s, .error e) => (s, .error e)
        | (s, .ok base) =>
          match s.stopRead (base + 4 * i) 4 with
          | (s, .error e) => (s, .error e)
          | (s, .ok q) =>
            if q ≥ sdNseq d then (s, .ok (some true))
            else
              match s.stopRead (sdRecord d q) 8, s.amoVa .lda (sdRecord d q % 2 ^ 64) 8 0 0 with
              | (s, .error e), _ => (s, .error e)
              | _, (s, .error e) => (s, .error e)
              | _, (s, .ok w) =>
                if srState w ≠ 1 then (s, .ok (some true))
                else if bad then (s, .error (.cause 0x109 i))
                else
                  match s.stopRead (sdRecord d q + 24) 8 with
                  | (s, .error e) => (s, .error e)
                  | (s, .ok stop) =>
                    match State.stopGo stop tok (min 8 (srNstop w)) 0 s with
                    | (s, .error e) => (s, .error e)
                    | (s, .ok false) => (s, .ok (some false))
                    | (s, .ok true) =>
                      match s.amoVa .cas (sdRecord d q % 2 ^ 64) 8 (putBits w 0 3 2) w with
                      | (s, .error e) => (s, .error e)
                      | (s, .ok _) => (s, .ok (some true))

/-- VSTOP (R364). -/
def execVstop (km : BitVec 3) (vs2 : BitVec 5) (rs1 : BitVec 5) (kd : BitVec 3) (s : State) : Out :=
  let elem (h0 : Hart) (_ : Option Chute) (i : Nat) (s : State) : State × Except AccFault Unit :=
    match s.stopElem (h0.xr rs1).toNat i (h0.elem vs2 32 i) (h0.elemBad vs2 32 i) with
    | (s, .error e) => (s, .error e)
    | (s, .ok none) => (s, .ok ())
    | (s, .ok (some b)) => (s.mapMe fun h => h.setK kd.toNat i b, .ok ())
  settle (vmemRun { km := km, srcV := [vs2], srcX := [rs1], dstK := [kd.toNat] } none false true (fun h => h.sew == 2) elem
    (fun _ _ _ => []) false) s

end Sys2Proof.Machine
end

