-- ==== Sys2Proof/Machine/Dispatch.lean ====
section
/-! DEFINITION. What each instruction does: one arm for each constructor, a direct call of its meaning. -/

namespace Sys2Proof.Machine

def exec (i : Instr) (s : State) : Host.Outcome State Fault Refusal :=
  match i with
  | .cLi rd imm => Sys2Proof.Machine.execCLi rd imm s
  | .cAddi rd imm => Sys2Proof.Machine.execCAddi rd imm s
  | .cMv rd rs => Sys2Proof.Machine.execCMv rd rs s
  | .cAdd rd rs => Sys2Proof.Machine.execCAdd rd rs s
  | .cLd rd rs1 off => Sys2Proof.Machine.execCLd rd rs1 off s
  | .cSd rs2 rs1 off => Sys2Proof.Machine.execCSd rs2 rs1 off s
  | .cJ off => Sys2Proof.Machine.execCJ off s
  | .cBeqz rs1 off => Sys2Proof.Machine.execCBeqz rs1 off s
  | .cBnez rs1 off => Sys2Proof.Machine.execCBnez rs1 off s
  | .cJr rs1 => Sys2Proof.Machine.execCJr rs1 s
  | .cQget rd q => Sys2Proof.Machine.execCQget rd q s
  | .cNop => Sys2Proof.Machine.execCNop s
  | .addi rd rs1 imm => Sys2Proof.Machine.execAddi rd rs1 imm s
  | .slti rd rs1 imm => Sys2Proof.Machine.execSlti rd rs1 imm s
  | .sltiu rd rs1 imm => Sys2Proof.Machine.execSltiu rd rs1 imm s
  | .andi rd rs1 imm => Sys2Proof.Machine.execAndi rd rs1 imm s
  | .ori rd rs1 imm => Sys2Proof.Machine.execOri rd rs1 imm s
  | .xori rd rs1 imm => Sys2Proof.Machine.execXori rd rs1 imm s
  | .slli rd rs1 sh => Sys2Proof.Machine.execSlli rd rs1 sh s
  | .srli rd rs1 sh => Sys2Proof.Machine.execSrli rd rs1 sh s
  | .srai rd rs1 sh => Sys2Proof.Machine.execSrai rd rs1 sh s
  | .add rd rs1 rs2 => Sys2Proof.Machine.execAdd rd rs1 rs2 s
  | .sub rd rs1 rs2 => Sys2Proof.Machine.execSub rd rs1 rs2 s
  | .and rd rs1 rs2 => Sys2Proof.Machine.execAnd rd rs1 rs2 s
  | .or rd rs1 rs2 => Sys2Proof.Machine.execOr rd rs1 rs2 s
  | .xor rd rs1 rs2 => Sys2Proof.Machine.execXor rd rs1 rs2 s
  | .sll rd rs1 rs2 => Sys2Proof.Machine.execSll rd rs1 rs2 s
  | .srl rd rs1 rs2 => Sys2Proof.Machine.execSrl rd rs1 rs2 s
  | .sra rd rs1 rs2 => Sys2Proof.Machine.execSra rd rs1 rs2 s
  | .slt rd rs1 rs2 => Sys2Proof.Machine.execSlt rd rs1 rs2 s
  | .sltu rd rs1 rs2 => Sys2Proof.Machine.execSltu rd rs1 rs2 s
  | .min rd rs1 rs2 => Sys2Proof.Machine.execMin rd rs1 rs2 s
  | .max rd rs1 rs2 => Sys2Proof.Machine.execMax rd rs1 rs2 s
  | .minu rd rs1 rs2 => Sys2Proof.Machine.execMinu rd rs1 rs2 s
  | .maxu rd rs1 rs2 => Sys2Proof.Machine.execMaxu rd rs1 rs2 s
  | .mul rd rs1 rs2 => Sys2Proof.Machine.execMul rd rs1 rs2 s
  | .mulh rd rs1 rs2 => Sys2Proof.Machine.execMulh rd rs1 rs2 s
  | .mulhu rd rs1 rs2 => Sys2Proof.Machine.execMulhu rd rs1 rs2 s
  | .div rd rs1 rs2 => Sys2Proof.Machine.execDiv rd rs1 rs2 s
  | .divu rd rs1 rs2 => Sys2Proof.Machine.execDivu rd rs1 rs2 s
  | .rem rd rs1 rs2 => Sys2Proof.Machine.execRem rd rs1 rs2 s
  | .remu rd rs1 rs2 => Sys2Proof.Machine.execRemu rd rs1 rs2 s
  | .clz rd rs1 => Sys2Proof.Machine.execClz rd rs1 s
  | .ctz rd rs1 => Sys2Proof.Machine.execCtz rd rs1 s
  | .cpop rd rs1 => Sys2Proof.Machine.execCpop rd rs1 s
  | .lui rd imm => Sys2Proof.Machine.execLui rd imm s
  | .auipc rd imm => Sys2Proof.Machine.execAuipc rd imm s
  | .jal rd imm => Sys2Proof.Machine.execJal rd imm s
  | .jalr rd rs1 imm => Sys2Proof.Machine.execJalr rd rs1 imm s
  | .beq rs1 rs2 imm => Sys2Proof.Machine.execBeq rs1 rs2 imm s
  | .bne rs1 rs2 imm => Sys2Proof.Machine.execBne rs1 rs2 imm s
  | .blt rs1 rs2 imm => Sys2Proof.Machine.execBlt rs1 rs2 imm s
  | .bge rs1 rs2 imm => Sys2Proof.Machine.execBge rs1 rs2 imm s
  | .bltu rs1 rs2 imm => Sys2Proof.Machine.execBltu rs1 rs2 imm s
  | .bgeu rs1 rs2 imm => Sys2Proof.Machine.execBgeu rs1 rs2 imm s
  | .ld rd rs1 imm => Sys2Proof.Machine.execLd rd rs1 imm s
  | .lw rd rs1 imm => Sys2Proof.Machine.execLw rd rs1 imm s
  | .lh rd rs1 imm => Sys2Proof.Machine.execLh rd rs1 imm s
  | .lb rd rs1 imm => Sys2Proof.Machine.execLb rd rs1 imm s
  | .lwu rd rs1 imm => Sys2Proof.Machine.execLwu rd rs1 imm s
  | .lhu rd rs1 imm => Sys2Proof.Machine.execLhu rd rs1 imm s
  | .lbu rd rs1 imm => Sys2Proof.Machine.execLbu rd rs1 imm s
  | .sd rs1 rs2 imm => Sys2Proof.Machine.execSd rs1 rs2 imm s
  | .sw rs1 rs2 imm => Sys2Proof.Machine.execSw rs1 rs2 imm s
  | .sh rs1 rs2 imm => Sys2Proof.Machine.execSh rs1 rs2 imm s
  | .sb rs1 rs2 imm => Sys2Proof.Machine.execSb rs1 rs2 imm s
  | .amoswapD ord scope rs2 rs1 rd => Sys2Proof.Machine.execAmoswapD ord scope rs2 rs1 rd s
  | .amoaddD ord scope rs2 rs1 rd => Sys2Proof.Machine.execAmoaddD ord scope rs2 rs1 rd s
  | .amoandD ord scope rs2 rs1 rd => Sys2Proof.Machine.execAmoandD ord scope rs2 rs1 rd s
  | .amoorD ord scope rs2 rs1 rd => Sys2Proof.Machine.execAmoorD ord scope rs2 rs1 rd s
  | .amoxorD ord scope rs2 rs1 rd => Sys2Proof.Machine.execAmoxorD ord scope rs2 rs1 rd s
  | .amominD ord scope rs2 rs1 rd => Sys2Proof.Machine.execAmominD ord scope rs2 rs1 rd s
  | .amomaxD ord scope rs2 rs1 rd => Sys2Proof.Machine.execAmomaxD ord scope rs2 rs1 rd s
  | .amominuD ord scope rs2 rs1 rd => Sys2Proof.Machine.execAmominuD ord scope rs2 rs1 rd s
  | .amomaxuD ord scope rs2 rs1 rd => Sys2Proof.Machine.execAmomaxuD ord scope rs2 rs1 rd s
  | .amocasD ord scope rs2 rs1 rd => Sys2Proof.Machine.execAmocasD ord scope rs2 rs1 rd s
  | .ldaD scope rs1 rd => Sys2Proof.Machine.execLdaD scope rs1 rd s
  | .stlD scope rs2 rs1 => Sys2Proof.Machine.execStlD scope rs2 rs1 s
  | .amoswapW ord scope rs2 rs1 rd => Sys2Proof.Machine.execAmoswapW ord scope rs2 rs1 rd s
  | .amoaddW ord scope rs2 rs1 rd => Sys2Proof.Machine.execAmoaddW ord scope rs2 rs1 rd s
  | .amoandW ord scope rs2 rs1 rd => Sys2Proof.Machine.execAmoandW ord scope rs2 rs1 rd s
  | .amoorW ord scope rs2 rs1 rd => Sys2Proof.Machine.execAmoorW ord scope rs2 rs1 rd s
  | .amoxorW ord scope rs2 rs1 rd => Sys2Proof.Machine.execAmoxorW ord scope rs2 rs1 rd s
  | .amominW ord scope rs2 rs1 rd => Sys2Proof.Machine.execAmominW ord scope rs2 rs1 rd s
  | .amomaxW ord scope rs2 rs1 rd => Sys2Proof.Machine.execAmomaxW ord scope rs2 rs1 rd s
  | .amominuW ord scope rs2 rs1 rd => Sys2Proof.Machine.execAmominuW ord scope rs2 rs1 rd s
  | .amomaxuW ord scope rs2 rs1 rd => Sys2Proof.Machine.execAmomaxuW ord scope rs2 rs1 rd s
  | .amocasW ord scope rs2 rs1 rd => Sys2Proof.Machine.execAmocasW ord scope rs2 rs1 rd s
  | .ldaW scope rs1 rd => Sys2Proof.Machine.execLdaW scope rs1 rd s
  | .stlW scope rs2 rs1 => Sys2Proof.Machine.execStlW scope rs2 rs1 s
  | .fence scope pred succ => Sys2Proof.Machine.execFence scope pred succ s
  | .fenceX scope src dst => Sys2Proof.Machine.execFenceX scope src dst s
  | .fenceT scope dir pred succ => Sys2Proof.Machine.execFenceT scope dir pred succ s
  | .tclr file reg => Sys2Proof.Machine.execTclr file reg s
  | .tjoin fs fd rs1 rd => Sys2Proof.Machine.execTjoin fs fd rs1 rd s
  | .yield => Sys2Proof.Machine.execYield s
  | .wfi => Sys2Proof.Machine.execWfi s
  | .ecall => Sys2Proof.Machine.execEcall s
  | .ebreak => Sys2Proof.Machine.execEbreak s
  | .eret => Sys2Proof.Machine.execEret s
  | .tlbinv rs1 => Sys2Proof.Machine.execTlbinv rs1 s
  | .csrrw rd rs1 csr => Sys2Proof.Machine.execCsrrw rd rs1 csr s
  | .csrrwi rd uimm csr => Sys2Proof.Machine.execCsrrwi rd uimm csr s
  | .csrrs rd rs1 csr => Sys2Proof.Machine.execCsrrs rd rs1 csr s
  | .csrrsi rd uimm csr => Sys2Proof.Machine.execCsrrsi rd uimm csr s
  | .csrrc rd rs1 csr => Sys2Proof.Machine.execCsrrc rd rs1 csr s
  | .csrrci rd uimm csr => Sys2Proof.Machine.execCsrrci rd uimm csr s
  | .qput q rs2 => Sys2Proof.Machine.execQput q rs2 s
  | .qget rd q => Sys2Proof.Machine.execQget rd q s
  | .qbr q off => Sys2Proof.Machine.execQbr q off s
  | .qstat rd q => Sys2Proof.Machine.execQstat rd q s
  | .cpy rd rs1 rs2 rs3 => Sys2Proof.Machine.execCpy rd rs1 rs2 rs3 s
  | .cpy2d rd rs1 rs2 rs3 => Sys2Proof.Machine.execCpy2d rd rs1 rs2 rs3 s
  | .gathr rd rs1 rs2 rs3 => Sys2Proof.Machine.execGathr rd rs1 rs2 rs3 s
  | .scatr rd rs1 rs2 rs3 => Sys2Proof.Machine.execScatr rd rs1 rs2 rs3 s
  | .cpwait rd rs1 => Sys2Proof.Machine.execCpwait rd rs1 s
  | .binit rd rs1 rs2 => Sys2Proof.Machine.execBinit rd rs1 rs2 s
  | .barr rd rs1 => Sys2Proof.Machine.execBarr rd rs1 s
  | .barrx rd rs1 rs2 => Sys2Proof.Machine.execBarrx rd rs1 rs2 s
  | .barrm rd rs1 rs2 => Sys2Proof.Machine.execBarrm rd rs1 rs2 s
  | .bwait rd rs1 rs2 => Sys2Proof.Machine.execBwait rd rs1 rs2 s
  | .btest rd rs1 rs2 => Sys2Proof.Machine.execBtest rd rs1 rs2 s
  | .bshape rd rs1 rs2 => Sys2Proof.Machine.execBshape rd rs1 rs2 s
  | .sqadm rd rs1 rs2 => Sys2Proof.Machine.execSqadm rd rs1 rs2 s
  | .sqret rd rs1 rs2 => Sys2Proof.Machine.execSqret rd rs1 rs2 s
  | .pgalloc rd rs1 => Sys2Proof.Machine.execPgalloc rd rs1 s
  | .pgref rd rs1 rs2 => Sys2Proof.Machine.execPgref rd rs1 rs2 s
  | .pgrel rd rs1 rs2 => Sys2Proof.Machine.execPgrel rd rs1 rs2 s
  | .pgxfer rd rs1 rs2 => Sys2Proof.Machine.execPgxfer rd rs1 rs2 s
  | .ixinit rd rs1 rs2 => Sys2Proof.Machine.execIxinit rd rs1 rs2 s
  | .ixcur rd rs1 rs2 => Sys2Proof.Machine.execIxcur rd rs1 rs2 s
  | .ixatt rd rs1 rs2 => Sys2Proof.Machine.execIxatt rd rs1 rs2 s
  | .ixdet rd rs1 => Sys2Proof.Machine.execIxdet rd rs1 s
  | .ixext rd rs1 rs2 => Sys2Proof.Machine.execIxext rd rs1 rs2 s
  | .ixmatch rd rs1 rs2 => Sys2Proof.Machine.execIxmatch rd rs1 rs2 s
  | .ixstat rd rs1 rs2 => Sys2Proof.Machine.execIxstat rd rs1 rs2 s
  | .pgsub rd rs1 rs2 => Sys2Proof.Machine.execPgsub rd rs1 rs2 s
  | .pgopen rd rs1 => Sys2Proof.Machine.execPgopen rd rs1 s
  | .mbset rd rs1 rs2 => Sys2Proof.Machine.execMbset rd rs1 rs2 s
  | .vsetvl rd rs1 rs2 => Sys2Proof.Machine.execVsetvl rd rs1 rs2 s
  | .vsetvli rd rs1 vt => Sys2Proof.Machine.execVsetvli rd rs1 vt s
  | .vadd ok km vs2 src vd => Sys2Proof.Machine.execVadd ok km vs2 src vd s
  | .vsub ok km vs2 src vd => Sys2Proof.Machine.execVsub ok km vs2 src vd s
  | .vrsub ok km vs2 src vd => Sys2Proof.Machine.execVrsub ok km vs2 src vd s
  | .vmin ok km vs2 src vd => Sys2Proof.Machine.execVmin ok km vs2 src vd s
  | .vmax ok km vs2 src vd => Sys2Proof.Machine.execVmax ok km vs2 src vd s
  | .vminu ok km vs2 src vd => Sys2Proof.Machine.execVminu ok km vs2 src vd s
  | .vmaxu ok km vs2 src vd => Sys2Proof.Machine.execVmaxu ok km vs2 src vd s
  | .vand ok km vs2 src vd => Sys2Proof.Machine.execVand ok km vs2 src vd s
  | .vor ok km vs2 src vd => Sys2Proof.Machine.execVor ok km vs2 src vd s
  | .vxor ok km vs2 src vd => Sys2Proof.Machine.execVxor ok km vs2 src vd s
  | .vsll ok km vs2 src vd => Sys2Proof.Machine.execVsll ok km vs2 src vd s
  | .vsrl ok km vs2 src vd => Sys2Proof.Machine.execVsrl ok km vs2 src vd s
  | .vsra ok km vs2 src vd => Sys2Proof.Machine.execVsra ok km vs2 src vd s
  | .vsadd ok km vs2 src vd => Sys2Proof.Machine.execVsadd ok km vs2 src vd s
  | .vssub ok km vs2 src vd => Sys2Proof.Machine.execVssub ok km vs2 src vd s
  | .vmerge ok km vs2 src vd => Sys2Proof.Machine.execVmerge ok km vs2 src vd s
  | .vmul ok km vs2 src vd => Sys2Proof.Machine.execVmul ok km vs2 src vd s
  | .vmulh ok km vs2 src vd => Sys2Proof.Machine.execVmulh ok km vs2 src vd s
  | .vmulhu ok km vs2 src vd => Sys2Proof.Machine.execVmulhu ok km vs2 src vd s
  | .vdiv ok km vs2 src vd => Sys2Proof.Machine.execVdiv ok km vs2 src vd s
  | .vdivu ok km vs2 src vd => Sys2Proof.Machine.execVdivu ok km vs2 src vd s
  | .vrem ok km vs2 src vd => Sys2Proof.Machine.execVrem ok km vs2 src vd s
  | .vremu ok km vs2 src vd => Sys2Proof.Machine.execVremu ok km vs2 src vd s
  | .vmacc ok km vs2 src vd => Sys2Proof.Machine.execVmacc ok km vs2 src vd s
  | .vmv ok km src vd => Sys2Proof.Machine.execVmv ok km src vd s
  | .vid km vd => Sys2Proof.Machine.execVid km vd s
  | .vmseq ok km vs2 src kd => Sys2Proof.Machine.execVmseq ok km vs2 src kd s
  | .vmsne ok km vs2 src kd => Sys2Proof.Machine.execVmsne ok km vs2 src kd s
  | .vmslt ok km vs2 src kd => Sys2Proof.Machine.execVmslt ok km vs2 src kd s
  | .vmsltu ok km vs2 src kd => Sys2Proof.Machine.execVmsltu ok km vs2 src kd s
  | .vmsle ok km vs2 src kd => Sys2Proof.Machine.execVmsle ok km vs2 src kd s
  | .vmsleu ok km vs2 src kd => Sys2Proof.Machine.execVmsleu ok km vs2 src kd s
  | .vmsgt ok km vs2 src kd => Sys2Proof.Machine.execVmsgt ok km vs2 src kd s
  | .vmsgtu ok km vs2 src kd => Sys2Proof.Machine.execVmsgtu ok km vs2 src kd s
  | .vmfeq ok km vs2 src kd => Sys2Proof.Machine.execVmfeq ok km vs2 src kd s
  | .vmfne ok km vs2 src kd => Sys2Proof.Machine.execVmfne ok km vs2 src kd s
  | .vmflt ok km vs2 src kd => Sys2Proof.Machine.execVmflt ok km vs2 src kd s
  | .vmfle ok km vs2 src kd => Sys2Proof.Machine.execVmfle ok km vs2 src kd s
  | .vfadd ok km vs2 src vd => Sys2Proof.Machine.execVfadd ok km vs2 src vd s
  | .vfsub ok km vs2 src vd => Sys2Proof.Machine.execVfsub ok km vs2 src vd s
  | .vfmul ok km vs2 src vd => Sys2Proof.Machine.execVfmul ok km vs2 src vd s
  | .vfdiv ok km vs2 src vd => Sys2Proof.Machine.execVfdiv ok km vs2 src vd s
  | .vfmin ok km vs2 src vd => Sys2Proof.Machine.execVfmin ok km vs2 src vd s
  | .vfmax ok km vs2 src vd => Sys2Proof.Machine.execVfmax ok km vs2 src vd s
  | .vfsgnj ok km vs2 src vd => Sys2Proof.Machine.execVfsgnj ok km vs2 src vd s
  | .vfsgnjn ok km vs2 src vd => Sys2Proof.Machine.execVfsgnjn ok km vs2 src vd s
  | .vfsgnjx ok km vs2 src vd => Sys2Proof.Machine.execVfsgnjx ok km vs2 src vd s
  | .vfmacc ok km vs2 src vd => Sys2Proof.Machine.execVfmacc ok km vs2 src vd s
  | .vfnmacc ok km vs2 src vd => Sys2Proof.Machine.execVfnmacc ok km vs2 src vd s
  | .vfmsac ok km vs2 src vd => Sys2Proof.Machine.execVfmsac ok km vs2 src vd s
  | .vfsqrt ok km src vd => Sys2Proof.Machine.execVfsqrt ok km src vd s
  | .vfrcp ok km src vd => Sys2Proof.Machine.execVfrcp ok km src vd s
  | .vfexp2 ok km src vd => Sys2Proof.Machine.execVfexp2 ok km src vd s
  | .vfclass ok km src vd => Sys2Proof.Machine.execVfclass ok km src vd s
  | .vfcvtFX ok km src vd => Sys2Proof.Machine.execVfcvtFX ok km src vd s
  | .vfcvtXF ok km src vd => Sys2Proof.Machine.execVfcvtXF ok km src vd s
  | .vfwcvt ok km fmt src vd => Sys2Proof.Machine.execVfwcvt ok km fmt src vd s
  | .vfncvt ok km fmt src vd => Sys2Proof.Machine.execVfncvt ok km fmt src vd s
  | .vqnt ok km vsc src vd => Sys2Proof.Machine.execVqnt ok km vsc src vd s
  | .vdeq ok km vsc src vd => Sys2Proof.Machine.execVdeq ok km vsc src vd s
  | .kand ks2 ks1 kd => Sys2Proof.Machine.execKand ks2 ks1 kd s
  | .kor ks2 ks1 kd => Sys2Proof.Machine.execKor ks2 ks1 kd s
  | .kxor ks2 ks1 kd => Sys2Proof.Machine.execKxor ks2 ks1 kd s
  | .kandn ks2 ks1 kd => Sys2Proof.Machine.execKandn ks2 ks1 kd s
  | .knot ks1 kd => Sys2Proof.Machine.execKnot ks1 kd s
  | .kfromv km vs1 kd => Sys2Proof.Machine.execKfromv km vs1 kd s
  | .vfromk km ks1 vd => Sys2Proof.Machine.execVfromk km ks1 vd s
  | .kpop ks1 rd => Sys2Proof.Machine.execKpop ks1 rd s
  | .kfirst ks1 rd => Sys2Proof.Machine.execKfirst ks1 rd s
  | .vslideup ok km vs2 src vd => Sys2Proof.Machine.execVslideup ok km vs2 src vd s
  | .vslidedown ok km vs2 src vd => Sys2Proof.Machine.execVslidedown ok km vs2 src vd s
  | .vslide1up ok km vs2 src vd => Sys2Proof.Machine.execVslide1up ok km vs2 src vd s
  | .vslide1down ok km vs2 src vd => Sys2Proof.Machine.execVslide1down ok km vs2 src vd s
  | .vrgather ok km vs2 src vd => Sys2Proof.Machine.execVrgather ok km vs2 src vd s
  | .vcompress km vs1 vd => Sys2Proof.Machine.execVcompress km vs1 vd s
  | .vexpand km vs1 vd => Sys2Proof.Machine.execVexpand km vs1 vd s
  | .viota km ks1 vd => Sys2Proof.Machine.execViota km ks1 vd s
  | .vmvxs vs2 rd => Sys2Proof.Machine.execVmvxs vs2 rd s
  | .vmvsx rs1 vd => Sys2Proof.Machine.execVmvsx rs1 vd s
  | .vredsum ok km vs2 src vd => Sys2Proof.Machine.execVredsum ok km vs2 src vd s
  | .vredmax ok km vs2 src vd => Sys2Proof.Machine.execVredmax ok km vs2 src vd s
  | .vredmin ok km vs2 src vd => Sys2Proof.Machine.execVredmin ok km vs2 src vd s
  | .vredmaxu ok km vs2 src vd => Sys2Proof.Machine.execVredmaxu ok km vs2 src vd s
  | .vredminu ok km vs2 src vd => Sys2Proof.Machine.execVredminu ok km vs2 src vd s
  | .vfredsum ok km vs2 src vd => Sys2Proof.Machine.execVfredsum ok km vs2 src vd s
  | .vfredmax ok km vs2 src vd => Sys2Proof.Machine.execVfredmax ok km vs2 src vd s
  | .vfredmin ok km vs2 src vd => Sys2Proof.Machine.execVfredmin ok km vs2 src vd s
  | .vsegsum km vs2 ks1 vd => Sys2Proof.Machine.execVsegsum km vs2 ks1 vd s
  | .vsegmax km vs2 ks1 vd => Sys2Proof.Machine.execVsegmax km vs2 ks1 vd s
  | .vle ok km rs1 vd => Sys2Proof.Machine.execVle ok km rs1 vd s
  | .vlse ok km rs2 rs1 vd => Sys2Proof.Machine.execVlse ok km rs2 rs1 vd s
  | .vlxe ok km vs2 rs1 vd => Sys2Proof.Machine.execVlxe ok km vs2 rs1 vd s
  | .vlxb ok km vs2 rs1 vd => Sys2Proof.Machine.execVlxb ok km vs2 rs1 vd s
  | .vleff ok km rs1 vd => Sys2Proof.Machine.execVleff ok km rs1 vd s
  | .vlcb km rs2 rs1 vd => Sys2Proof.Machine.execVlcb km rs2 rs1 vd s
  | .vse ok km rs1 vd => Sys2Proof.Machine.execVse ok km rs1 vd s
  | .vsse ok km rs2 rs1 vd => Sys2Proof.Machine.execVsse ok km rs2 rs1 vd s
  | .vsxe ok km vs2 rs1 vd => Sys2Proof.Machine.execVsxe ok km vs2 rs1 vd s
  | .vscadd ok km vs2 rs1 vd => Sys2Proof.Machine.execVscadd ok km vs2 rs1 vd s
  | .vscb rs2 rs1 vd => Sys2Proof.Machine.execVscb rs2 rs1 vd s
  | .vcapp km rd rs1 vd => Sys2Proof.Machine.execVcapp km rd rs1 vd s
  | .vhacc ok km vs2 rs1 vd => Sys2Proof.Machine.execVhacc ok km vs2 rs1 vd s
  | .qputv km vs1 q => Sys2Proof.Machine.execQputv km vs1 q s
  | .qgetv km q vd => Sys2Proof.Machine.execQgetv km q vd s
  | .vascore vs2 q => Sys2Proof.Machine.execVascore vs2 q s
  | .vaexp => Sys2Proof.Machine.execVaexp s
  | .vaacc q => Sys2Proof.Machine.execVaacc q s
  | .vafin rs1 vd => Sys2Proof.Machine.execVafin rs1 vd s
  | .ixprop rd rs1 vd => Sys2Proof.Machine.execIxprop rd rs1 vd s
  | .ixacc vs2 vs1 rd => Sys2Proof.Machine.execIxacc vs2 vs1 rd s
  | .ixextv km vs2 rs1 rd => Sys2Proof.Machine.execIxextv km vs2 rs1 rd s
  | .vstop km vs2 rs1 kd => Sys2Proof.Machine.execVstop km vs2 rs1 kd s
  | .mcfgAcq => Sys2Proof.Machine.execMcfgAcq s
  | .mcfgRel => Sys2Proof.Machine.execMcfgRel s
  | .mcfgSet rs1 => Sys2Proof.Machine.execMcfgSet rs1 s
  | .mlds q fmt => Sys2Proof.Machine.execMlds q fmt s
  | .mswap => Sys2Proof.Machine.execMswap s
  | .mstrm va vsc tile rows fmt => Sys2Proof.Machine.execMstrm va vsc tile rows fmt s
  | .mdrain vd tile rows fmt epi vb => Sys2Proof.Machine.execMdrain vd tile rows fmt epi vb s
  | .mzero tile => Sys2Proof.Machine.execMzero tile s
  | .mwait => Sys2Proof.Machine.execMwait s
  | .mstrmExecute core => Sys2Proof.Machine.execMstrmExecute core s
  | .mdrainExecute core => Sys2Proof.Machine.execMdrainExecute core s
  | .mzeroExecute core => Sys2Proof.Machine.execMzeroExecute core s
  | .mswapExecute core => Sys2Proof.Machine.execMswapExecute core s
  | .mcfgSetExecute core => Sys2Proof.Machine.execMcfgSetExecute core s
  | .leaseGrant core => Sys2Proof.Machine.execLeaseGrant core s
  | .hartStallEnd hart => Sys2Proof.Machine.execHartStallEnd hart s
  | .tagRetire hart tag => Sys2Proof.Machine.execTagRetire hart tag s
  | .viewAdvance wid view => Sys2Proof.Machine.execViewAdvance wid view s
  | .tlbEviction place idx => Sys2Proof.Machine.execTlbEviction place idx s
  | .timerInterrupt hart => Sys2Proof.Machine.execTimerInterrupt hart s
  | .mailboxInterrupt hart => Sys2Proof.Machine.execMailboxInterrupt hart s
  | .preemptionTrap hart => Sys2Proof.Machine.execPreemptionTrap hart s
  | .endOfBody hart => Sys2Proof.Machine.execEndOfBody hart s
  | .qcfgWrite hart v => Sys2Proof.Machine.execQcfgWrite hart v s
  | .sstatusLeave hart => Sys2Proof.Machine.execSstatusLeave hart s
  | .viologWrite hart v => Sys2Proof.Machine.execViologWrite hart v s
  | .registerWrite place v => Sys2Proof.Machine.execRegisterWrite place v s
  | .copyUnit core => Sys2Proof.Machine.execCopyUnit core s
  | .copyComplete core hart ticket => Sys2Proof.Machine.execCopyComplete core hart ticket s
  | .trainAck core hart ticket dev ok => Sys2Proof.Machine.execTrainAck core hart ticket dev ok s
  | .barrierNotice notice => Sys2Proof.Machine.execBarrierNotice notice s
  | .poolValidate pa => Sys2Proof.Machine.execPoolValidate pa s
  | .sluiceFetch die => Sys2Proof.Machine.execSluiceFetch die s
  | .sluiceDelivery die sub => Sys2Proof.Machine.execSluiceDelivery die sub s
  | .stageReclaim die => Sys2Proof.Machine.execStageReclaim die s
  | .sluiceRefetch die => Sys2Proof.Machine.execSluiceRefetch die s
  | .lateJoinerService die => Sys2Proof.Machine.execLateJoinerService die s
  | .partialMerge die gseq mq => Sys2Proof.Machine.execPartialMerge die gseq mq s
  | .queueNotify die queue stream acc => Sys2Proof.Machine.execQueueNotify die queue stream acc s
  | .queueServiceStep die queue => Sys2Proof.Machine.execQueueServiceStep die queue s
  | .queueMap die queue => Sys2Proof.Machine.execQueueMap die queue s
  | .queueUnmap die queue => Sys2Proof.Machine.execQueueUnmap die queue s
  | .launchReady lid => Sys2Proof.Machine.execLaunchReady lid s
  | .placementDispatch lid die => Sys2Proof.Machine.execPlacementDispatch lid die s
  | .temporalRedispatch crew => Sys2Proof.Machine.execTemporalRedispatch crew s
  | .crewEnd crew => Sys2Proof.Machine.execCrewEnd crew s
  | .launchAbandon crew => Sys2Proof.Machine.execLaunchAbandon crew s
  | .sliceExpiry die item => Sys2Proof.Machine.execSliceExpiry die item s
  | .preemptionRequest die item => Sys2Proof.Machine.execPreemptionRequest die item s
  | .switchOut crew => Sys2Proof.Machine.execSwitchOut crew s
  | .crewResume pid => Sys2Proof.Machine.execCrewResume pid s
  | .contextLive ctx => Sys2Proof.Machine.execContextLive ctx s
  | .contextQuiesce ctx => Sys2Proof.Machine.execContextQuiesce ctx s
  | .contextTeardown ctx => Sys2Proof.Machine.execContextTeardown ctx s
  | .teardownComplete ctx => Sys2Proof.Machine.execTeardownComplete ctx s
  | .contextRelease ctx => Sys2Proof.Machine.execContextRelease ctx s
  | .patrolScrub place found => Sys2Proof.Machine.execPatrolScrub place found s
  | .channelRetire ch => Sys2Proof.Machine.execChannelRetire ch s
  | .rebuildRow group => Sys2Proof.Machine.execRebuildRow group s
  | .coreSpare core readable => Sys2Proof.Machine.execCoreSpare core readable s
  | .rowRemap place lines lost => Sys2Proof.Machine.execRowRemap place lines lost s
  | .checkpointWrite => Sys2Proof.Machine.execCheckpointWrite s
  | .moduleReset fail => Sys2Proof.Machine.execModuleReset fail s
  | .linkTrainingDone port lanes devnum => Sys2Proof.Machine.execLinkTrainingDone port lanes devnum s
  | .laneFailure port lane => Sys2Proof.Machine.execLaneFailure port lane s
  | .lossOfSignal port => Sys2Proof.Machine.execLossOfSignal port s
  | .flitReceive port flit => Sys2Proof.Machine.execFlitReceive port flit s
  | .flitReplay port => Sys2Proof.Machine.execFlitReplay port s
  | .requestTimeout rid => Sys2Proof.Machine.execRequestTimeout rid s
  | .atsInvalidation pasid iova len => Sys2Proof.Machine.execAtsInvalidation pasid iova len s
  | .invalidationCompletion => Sys2Proof.Machine.execInvalidationCompletion s
  | .hostBar2Access acc => Sys2Proof.Machine.execHostBar2Access acc s
  | .tdispRequest world msg => Sys2Proof.Machine.execTdispRequest world msg s
  | .ideKm stream key => Sys2Proof.Machine.execIdeKm stream key s
  | .getMeasurements world nonce => Sys2Proof.Machine.execGetMeasurements world nonce s
  | .telemetryRead counter stream acc => Sys2Proof.Machine.execTelemetryRead counter stream acc s
  | .mailboxDoorbell req => Sys2Proof.Machine.execMailboxDoorbell req s
  | .qbind die queue ctx va => Sys2Proof.Machine.execQbind die queue ctx va s
  | .qunbind die queue => Sys2Proof.Machine.execQunbind die queue s
  | .partset mask => Sys2Proof.Machine.execPartset mask s
  | .clkset part mhz => Sys2Proof.Machine.execClkset part mhz s
  | .pwrlim watts => Sys2Proof.Machine.execPwrlim watts s
  | .slice log2 => Sys2Proof.Machine.execSlice log2 s
  | .linkEnable port => Sys2Proof.Machine.execLinkEnable port s
  | .linkDisable port => Sys2Proof.Machine.execLinkDisable port s
  | .linkRetire port => Sys2Proof.Machine.execLinkRetire port s
  | .chretire ch => Sys2Proof.Machine.execChretire ch s
  | .revoke core => Sys2Proof.Machine.execRevoke core s
  | .ckpt => Sys2Proof.Machine.execCkpt s
  | .apmap page ctx rights base len => Sys2Proof.Machine.execApmap page ctx rights base len s
  | .apmapUnmap page => Sys2Proof.Machine.execApmapUnmap page s
  | .logread first count => Sys2Proof.Machine.execLogread first count s
  | .timer hart value => Sys2Proof.Machine.execTimer hart value s
  | .wopen world => Sys2Proof.Machine.execWopen world s
  | .wadmit world ctx => Sys2Proof.Machine.execWadmit world ctx s
  | .lgtag core world mask => Sys2Proof.Machine.execLgtag core world mask s
  | .ftag world frame => Sys2Proof.Machine.execFtag world frame s
  | .tlset world chunk bits => Sys2Proof.Machine.execTlset world chunk bits s
  | .werase world => Sys2Proof.Machine.execWerase world s
  | .attest world nonce => Sys2Proof.Machine.execAttest world nonce s
  | .wexport world report modulus chain => Sys2Proof.Machine.execWexport world report modulus chain s
  | .wimport world blob => Sys2Proof.Machine.execWimport world blob s
  | .mrext world digest => Sys2Proof.Machine.execMrext world digest s
  | .cert => Sys2Proof.Machine.execCert s
  | .powerSample milliwatts temps => Sys2Proof.Machine.execPowerSample milliwatts temps s
  | .throttleStep part => Sys2Proof.Machine.execThrottleStep part s
  | .reservedEncoding => Sys2Proof.Machine.execReservedEncoding s
  | .fetchFault cause addr => Sys2Proof.Machine.execFetchFault cause addr s
  | .hostCompletion rid ans => Sys2Proof.Machine.execHostCompletion rid ans s

end Sys2Proof.Machine
end

