-- ==== Sys2Proof/Machine/Issue.lean ====
section
/-! DEFINITION. How a hart issues its next instruction: the fetch, the traps due at an instruction boundary, the places where
a vector instruction may stop, and what issues when nothing else is asked for (04_encoding R81, R82, R103, 23_group R385 to
R387, 24_traps R394, R397). -/

namespace Sys2Proof.Machine

/-! ### Fetch (R81, R82, R103) -/

/-- `k` parcels fetched from `va` upward. -/
def State.fetchRest : Nat → State → Nat → List Byte → State × Except AccFault (List Byte)
  | 0, s, _, acc => (s, .ok acc)
  | k + 1, s, va, acc =>
    match s.readVa va 2 .fetch false true with
    | (s, .error f) => (s, .error f)
    | (s, .ok b) => State.fetchRest k s ((va + 2) % 2 ^ 64) (acc ++ b)

/-- The bytes of the instruction at the pc of the hart in hand, parcel by parcel, or the fault of the first parcel that
cannot be fetched. -/
def State.fetch (s : State) : State × Except AccFault (List Byte) :=
  let pc := s.me.pc.toNat
  if pc % 2 = 1 then (s, .error (.cause 0 pc))
  else
    match s.readVa pc 2 .fetch false true with
    | (s, .error f) => (s, .error f)
    | (s, .ok b) =>
      let n := classLength (leNat (b.take 1))
      if n = 8 && pc % 8 ≠ 0 then (s, .error (.cause 0 pc)) else State.fetchRest (n / 2 - 1) s ((pc + 2) % 2 ^ 64) b

/-! ### What an issue did -/

/-- The hart in hand retired an instruction between two states. -/
def retiredIn (s t : State) : Bool := t.me.instret != s.me.instret
/-- The hart in hand trapped with cause 4 or 5 between two states. -/
def refusedIn (s t : State) : Bool :=
  !retiredIn s t && t.me.stalled.isNone && (t.me.scause == 4 || t.me.scause == 5)
/-- The instruction is refused by checks 2 to 5 of R103. A tile instruction checks operands of its own with cause 4 after cause 13, so that
without the lease only the earlier checks give it (14_matrix R257). -/
def refusedBy (i : Instr) (s : State) : Bool :=
  let s := if s.ir.toNat % 4 = 3 then s.mapCrew (crewOf s.cur) fun c => { c with lease := .none } else s
  match exec i s with
  | .next t => refusedIn s t
  | _ => false
/-- The pages that SQRET has released in the instruction that a hart is in (R362). -/
def Hart.pagesDone (h : Hart) : Nat := (h.run.map Run.pages).getD 0
/-- The instruction of the hart in hand issued between two states: it retired, trapped of itself, or went on by a part, in vstart, in its requests to
another device, in the attention chain or by a page of SQRET; not where it waits, or was refused by checks 1 to 5 (R386). -/
def issuedIn (i : Instr) (s t : State) : Bool :=
  t.me.vstart != s.me.vstart || t.me.chain != s.me.chain || t.me.pagesDone != s.me.pagesDone || t.me.remote != s.me.remote ||
  (t.me.stalled.isNone && !(refusedIn s t && (s.ir.toNat % 4 ≠ 3 || refusedBy i s)))
/-- Instructions retired, in the crew's telemetry (28_worlds R456). -/
def countRetired (s t : State) : State := if retiredIn s t then t.count (crewItem (crewOf s.cur) (1 + s.cur.val % 2)) 1 else t

/-- The trap step of a request or an interrupt of a hart. -/
noncomputable def trapStep (h : Nat) : Nat → Instr
  | 14 => .preemptionTrap h
  | 1 => .mailboxInterrupt h
  | _ => .timerInterrupt h
/-- The request or interrupt taken at an instruction boundary: a pre-emption request, then the mailbox, then the timer (R394). -/
noncomputable def State.dueTrap (s : State) (h : Nat) : Option Instr := (s.dueOf h).map (trapStep h)

/-! ### Stops inside a vector instruction (R385, R397) -/

/-- The elements between two points where the instruction with this encoding can stop; 0 where it never stops part-way (R97, R397). -/
def stopGrain (bl w : Nat) : Nat :=
  if w % 4 ≠ 2 then 0
  else
    let fn := w / 268435456 % 16
    match w / 4 % 64 with
    | 1 => 1
    | 2 => 1
    | 3 => 1
    | 4 => 1
    | 5 => if fn = 4 then bl else 1
    | 9 => 1
    | 10 => if fn = 4 then 128 else if fn = 5 then 0 else 1
    | 11 => if fn = 1 then 1 else 0
    | 14 => 1
    | _ => 0

/-- An instruction that ended whole, left at element `k`: nothing of it has retired, vl and its taint are what its trim made them, and the
window of R79 closes. -/
def leftAt (k : Nat) (s t u : State) : State :=
  u.mapMe fun h => { h with vl := t.me.vl, taintVl := t.me.taintVl, vstart := BitVec.ofNat 12 k, pc := s.me.pc, instret := s.me.instret,
                            window := false }
/-- The instruction left at element `k`: the elements below `k` are complete, vstart names it, and it has not retired. Where the instruction
does not come so far, it ends as it would (R79, R154, R385). -/
def runTo (k : Nat) (i : Instr) (s : State) : Out :=
  match exec i s with
  | .next t =>
    if retiredIn s t || decide (k < t.me.vst) || (t.me.vst = k && t.me.stalled.isSome) then
      let short (s : State) : State := s.mapMe fun h => { h with vl := BitVec.ofNat 12 k }
      let whole (u : State) : Bool := retiredIn s u && u.me.vl.toNat = k
      match exec i (short s) with
      | .next u =>
        if whole u then .next (leftAt k s t u)
        else match exec i ((short s).mapMe fun h => { h with vtype := BitVec.ofNat 11 (putBits h.vt 5 2 0) }) with
          | .next u => if whole u then .next ((leftAt k s t u).mapMe fun h => { h with vtype := s.me.vtype }) else .next t
          | _ => .next t
      | .fault f => .fault f
      | .refused r => .refused r
    else .next t
  | .fault f => .fault f
  | .refused r => .refused r

/-- The chute that an instruction takes unit by unit, where it may stop between two of them (R397). -/
def chuteWalk : Instr → Option Nat
  | .mlds q _ => some q.toNat
  | .vascore _ q => some q.toNat
  | .vaacc q => some q.toNat
  | _ => none
/-- How far such an instruction has come: the units of MLDS in vstart, the slots of the chain in its cursor (R260, R295). -/
def walkedTo (i : Instr) (h : Hart) : Nat :=
  match i with
  | .mlds _ _ => h.vst
  | .vascore _ _ => if h.chain.phase = 1 then h.chain.cursor else 0
  | _ => if h.chain.phase = 4 then h.chain.cursor else 0
/-- Such an instruction left after `k` units: as it stands where its chute ends there, with the rest of the chute behind it (R79, R397). -/
def runChute (q k : Nat) (i : Instr) (s : State) : Out :=
  let n := crewOf s.cur
  let es := ((s.crewAt n).chute q).entries
  let cut (m : Nat) : State := s.mapCrew n fun c => c.mapChute q fun y => { y with entries := es.take m }
  let there (m : Nat) : Option State :=
    match exec i (cut m) with
    | .next t =>
      if t.me.stalled == some (.chute q) && walkedTo i t.me == k then
        some ((t.mapCrew n fun c => c.mapChute q fun y => { y with entries := y.entries ++ es.drop m }).mapMe fun h =>
          { h with stalled := none, run := none, window := false })
      else none
    | _ => none
  match (List.range es.length).findSome? there with
  | some t => .next t
  | none => exec i s

/-- The decoded instruction run, left at element or unit `stop` where that lies inside it. -/
def run (stop : Nat) (i : Instr) (s : State) : Out :=
  match chuteWalk i with
  | some q => if walkedTo i s.me < stop then runChute q stop i s else exec i s
  | none =>
    let g := stopGrain s.me.bl s.ir.toNat
    if s.me.vst < stop && stop < s.me.vln && g ≠ 0 && stop % g = 0 then runTo stop i s else exec i s

/-- Where the instruction stops: at the next point of R397 when only the window of R79, or an answer of another device that the instruction
still uses, holds a standing request or interrupt off, for that is over there and the trap is due at the first point (R79, R385); else at
`stop`. -/
def State.stopAt (s : State) (stop : Nat) (i : Instr) : Nat :=
  let free := s.mapMe fun h => { h with window := false, remote := h.remote.filter fun r => r.ticket != 0 }
  if (s.dueOf s.cur).isNone && (free.dueOf s.cur).isSome then
    (if (chuteWalk i).isSome then walkedTo i s.me + 1
     else
      let g := stopGrain s.me.bl s.ir.toNat
      (s.me.vst / g + 1) * g)
  else stop

/-! ### Issue -/

/-- The pointer of a hart's pipeline at its crew (R386). -/
def State.point (s : State) (h : Nat) : State :=
  s.mapCore (coreOf h) fun c => if h % 2 = 0 then { c with accessPtr := crewOf h % 4 } else { c with executePtr := crewOf h % 4 }

/-- The instruction of the hart in hand run; the pointer of its pipeline moves to its crew when it has issued (R386). -/
def State.issueRun (s : State) (stop : Nat) (i : Instr) : Out :=
  match run (s.stopAt stop i) i s with
  | .next t => .next (if issuedIn i s t then t.point s.cur else t)
  | .fault f => .fault f
  | .refused r => .refused r

/-- The instruction of the hart in hand executed: a fault of checks 1 to 5 first, else the request or interrupt due, else the
instruction (R103, R394). A WFI that has waited ends first (R138). -/
noncomputable def State.issueDecoded (s : State) (stop : Nat) (i : Instr) : Out :=
  match s.dueTrap s.cur with
  | none => s.issueRun stop i
  | some trap =>
    if i = .wfi && s.me.run.any fun r => r.ir == s.ir then s.issueRun stop i
    else if refusedBy i s then exec i s else exec trap s

/-- The hart in hand fetches, decodes and executes; a fetch from the end address in user mode ends its body (R82, R102, R103, R370). -/
noncomputable def State.issueHere (s : State) (stop : Nat) : Out :=
  if !s.me.sup && s.me.pc = endAddress then exec (.endOfBody s.cur) s
  else
    match s.fetch with
    | (s, .error .wait) => .next (s.takeStall .remote)
    | (s, .error (.cause c a)) => exec (.fetchFault c (BitVec.ofNat 64 a)) s
    | (s, .ok b) =>
      let s := { s with ir := BitVec.ofNat 64 (leNat b) }
      match decode b with
      | .error _ => exec .reservedEncoding s
      | .ok (i, _) => s.issueDecoded stop i

/-- The hart in hand at its opportunity: a wait it was in is tried again (R80, R386). -/
def State.opportunity (s : State) (h : Nat) : State := (s.as h).mapHart h fun x => { x with stalled := none }

/-- What hart `h` does at its opportunity, if its crew is resident and it has neither ended nor left. -/
noncomputable def State.issue (s : State) (h stop : Nat) : Out :=
  let h := h % 512
  if !s.issuing h then .next s
  else
    let s := s.opportunity h
    match s.issueHere stop with
    | .next t => .next (countRetired s t)
    | .fault f => .fault f
    | .refused r => .refused r

/-- What a hart does that is ready: its instruction issues, a trap of it is due, or a wait of it begins; none for a hart that waits on (R80,
R386). -/
noncomputable def State.attempt (s : State) (stop h : Nat) : Option Out :=
  match s.issue h stop with
  | .next t =>
    if (t.hartAt h).instret != (s.hartAt h).instret || decide (t.hartAt h ≠ s.hartAt h) then some (.next t) else none
  | .fault f => some (.fault f)
  | .refused r => some (.refused r)

/-- The opportunity of a pipeline: 2c is core c's access pipeline, 2c + 1 its execute front end. The first ready hart from the one after the
pointer takes it (R386). -/
noncomputable def State.issuePipe (s : State) (pipe stop : Nat) : Option Out :=
  let core := pipe / 2
  let c := s.coreAt core
  let ptr := if pipe % 2 = 0 then c.accessPtr else c.executePtr
  ((crewOrder core ptr).map fun n => 2 * n + pipe % 2).findSome? (s.attempt stop)
/-- The pipeline of a hart. -/
def pipeOf (h : Nat) : Nat := 2 * coreOf h + h % 2

/-- The pipeline that issues next, by its first hart: they are tried in turn from the one after the last (log 1). -/
noncomputable def State.hartNext (s : State) : Option Nat :=
  ((List.range 128).map fun k => (pipeOf s.cur + 1 + k) % 128).findSome? fun p => (s.issuePipe p 0).map fun _ => p / 2 * 8 + p % 2

/-- The hart of a step that takes a request or an interrupt. -/
def trapHart : Instr → Option Nat
  | .preemptionTrap h => some h
  | .mailboxInterrupt h => some h
  | .timerInterrupt h => some h
  | _ => none
/-- A step that takes a request or an interrupt at an instruction boundary: where it is the first that is due, a fault of checks 1 to 5 of the
next instruction comes before it (R394). -/
noncomputable def State.trapAct (s : State) (h : Nat) (i : Instr) : Out :=
  let t := s.wfiOver h
  if t.issuing h && t.dueTrap h == some i then t.issue h 0 else exec i s

/-! ### A place for one instruction -/

/-- The role that an encoding asks for: 1 the execute hart, 0 the access hart (R59, R89, R143 to R145). -/
def roleOf (w : Nat) : Nat :=
  let major := w / 4 % 64
  match w % 4 with
  | 0 => if w / 4 % 16 = 10 then 1 else 0
  | 1 =>
    if major = 13 && (w / 8388608 % 8 = 1 || w / 8388608 % 8 = 2) then 1
    else if major = 11 && w / 262144 % 8 ≥ 2 then 1 else 0
  | _ => 1

/-- The physical addresses of the tables and of the 1 GiB page that hold the instruction. -/
def placeRoot : Nat := 0x1000
def placePage : Nat := 0x4000_0000

/-- Crew 0 resident in context 1 with the hart of the instruction's role at virtual address 0, where the tables map a page for
fetching in user mode that begins with the instruction; the next step is that hart's issue. The window of R79 is open, so
that no request comes first. -/
def State.place (s : State) (w : Nat) : State :=
  let h := roleOf w
  let put (s : State) (pa v : Nat) : State := { s with mem := SMap.setRange 0 s.mem pa (leBytesOf 8 v) }
  let s := put (put (put (put s placeRoot 0x2001) 0x2000 0x3001) 0x3000 (placePage + 0x33)) placePage w
  let s := s.mapCrew 0 fun c =>
    { c with resident := some ⟨1, 0, 0, 0⟩, ending := false, abandoned := false }
  let s := s.mapHart h fun x =>
    { x with pc := 0, sup := false, sxlat := BitVec.ofNat 64 (2 ^ 48 + placeRoot / 4096), ended := false, left := false, window := true,
             stalled := none, run := none, remote := [] }
  let s := s.mapCore 0 fun c => { c with accessPtr := 3, executePtr := 3 }
  { s with off := false, agenda := ⟨0, none, h, 0⟩ :: s.agenda }

end Sys2Proof.Machine
end

