-- ==== Sys2Proof/Machine/Sched.lean ====
section
/-! DEFINITION. What the machine does of itself when the agenda asks for nothing: the engines, homes, schedulers and the firmware go
first, each step only while it has an effect, then the harts issue in turn. It is one schedule that the spec permits; the agenda
gives the others (log 1). -/

namespace Sys2Proof.Machine

/-- The command of the mailbox's request, while DOOR is set (R460). -/
noncomputable def State.mailboxWork (s : State) : List Instr := if s.doorbell && !s.bootFailed then (mbxCommand s.mbxReq).toList else []

/-- A shutdown that waits for its checkpoint is carried out as soon as it can be (R426, R464). -/
noncomputable def State.powerWork (s : State) : List Instr := if s.dying then [.checkpointWrite] else []

/-- The steps that the context table asks for (R331, R334). -/
noncomputable def State.contextWork (s : State) : List Instr :=
  (s.ctxCmds.map fun c => match c.2 with
    | 1 => Instr.contextLive c.1
    | 2 => Instr.contextQuiesce c.1
    | 3 => Instr.contextTeardown c.1
    | _ => Instr.contextRelease c.1) ++
  ((s.mem.filter fun e => inCtxTab e.1 && (e.1 - Config.ctxTab) % 128 = 0 && e.2.toNat % 8 = 4).map fun e =>
    Instr.teardownComplete ((e.1 - Config.ctxTab) / 128))

/-- The steps of the queues and launches (R353, R375, R379, R384, R408). -/
noncomputable def State.launchWork (s : State) : List Instr :=
  (s.queues.flatMap fun q => [.queueServiceStep q.die q.num, .queueMap q.die q.num, .queueUnmap q.die q.num]) ++
  (s.launches.map fun l => .launchReady l.lid) ++
  ((List.range 8).flatMap fun d => (match s.bestItem d with
    | some (.launch lid, _) => [Instr.placementDispatch lid d]
    | some (.parked pid, _) => [Instr.crewResume pid]
    | none => []) ++ (s.waiting d).flatMap fun w => [.preemptionRequest d w, .sliceExpiry d w])

/-- The steps of the resident crews and of a copy engine's commands (R235, R253, R257, R371, R376, R385, R387, R403). -/
noncomputable def State.crewWork (s : State) : List Instr :=
  ((List.range 256).filter fun n => (s.crewAt n).resident.isSome).flatMap fun n =>
    [.switchOut n, .temporalRedispatch n, .crewEnd n, .leaseGrant (n / 4), .mstrmExecute (n / 4), .mdrainExecute (n / 4), .mzeroExecute (n / 4),
     .mswapExecute (n / 4), .mcfgSetExecute (n / 4)] ++
    ((s.hartAt (2 * n)).copies.map fun c => .copyComplete (n / 4) (2 * n) c.ticket) ++ [.copyUnit (n / 4)] ++
    ((s.hartAt (2 * n)).copies.flatMap fun c => c.trains.filterMap fun t =>
      if t.dev = 256 && t.st = .sent then some (.trainAck (n / 4) (2 * n) c.ticket 256 true) else none) ++
    ([2 * n, 2 * n + 1].filter fun h => (s.hartAt h).ended).map fun h => .preemptionTrap h

/-- The steps of the Sluices (R289 to R294). -/
noncomputable def State.sluiceWork (s : State) : List Instr :=
  (s.groups.flatMap fun g => g.inbox.map fun p => .partialMerge g.die g.gseq p.mq) ++
  (s.subs.map fun u => .sluiceDelivery (dieOf u.hart) u.id) ++
  (s.groups.flatMap fun g => [.sluiceFetch g.die, .sluiceRefetch g.die, .lateJoinerService g.die, .stageReclaim g.die])

/-- The steps of memory: writes enter every view, oldest first, and then tags retire (R206, R214). -/
noncomputable def State.memoryWork (s : State) : List Instr :=
  match s.writes.getLast? with
  | some w => [.viewAdvance w.id none]
  | none => (List.range 512).flatMap fun h => (s.hartAt h).tags.map fun t => .tagRetire h t.id

/-- A step has an effect. -/
def State.effective (s : State) (i : Instr) : Bool :=
  match exec i s with
  | .next t => decide (t ≠ s)
  | _ => false

/-- The first step that has an effect, and that needs no hart to issue. -/
noncomputable def State.workNext (s : State) : Option Instr :=
  (s.powerWork ++ s.mailboxWork ++ s.contextWork ++ s.launchWork ++ s.crewWork ++ s.sluiceWork ++ s.memoryWork).find? s.effective

/-- Time passes: `ns` nanoseconds, with the clocks of every die at its partition's frequency, and the waits of the Sluices counted
(R284, R396). -/
def State.pass (s : State) (ns : Nat) : State :=
  if ns = 0 then s
  else
    let tick (d : Die) : Die := { d with clocks := d.clocks + ns * s.mhz[Fin.ofNat 2 (if d.decode then 1 else 0)] }
    let t := { s with now := s.now + ns, dies := s.dies.map tick }
    (List.range 8).foldl (fun t d => t.stallTick d (t.clocksOf d - s.clocksOf d)) t

/-- One act: a step of its own, or the opportunity of a hart's pipeline (R386). -/
noncomputable def State.act (s : State) (a : Act) : Out :=
  match a.what with
  | some i => (match trapHart i with
    | some h => s.trapAct h i
    | none => exec i s)
  | none => (s.issuePipe (pipeOf (a.hart % 512)) a.stop).getD (.next s)

/-- What comes next when the agenda is empty. -/
noncomputable def State.nextAct (s : State) : Act :=
  match s.workNext with
  | some i => ⟨1, some i, 0, 0⟩
  | none =>
    match s.hartNext with
    | some h => ⟨1, none, h, 0⟩
    | none => ⟨1, none, s.cur, 0⟩

end Sys2Proof.Machine
end

