-- ==== Sys2Proof/Machine/Step.lean ====
section
/-! DEFINITION. One step of the machine. -/

namespace Sys2Proof.Machine

/-- An act at its time. Without power only a module reset is a step. -/
noncomputable def stepAct (a : Act) (s : State) : Host.Outcome State Fault Refusal :=
  match s.off, a.what with
  | true, some (.moduleReset f) => exec (.moduleReset f) (s.pass a.ns)
  | true, _ => .fault .powerOff
  | false, _ => (s.pass a.ns).act a

/-- One step: the head of the agenda, or what the machine does of itself. -/
noncomputable def step (s : State) : Host.Outcome State Fault Refusal :=
  match s.agenda with
  | a :: r => stepAct a { s with agenda := r }
  | [] => stepAct s.nextAct s

/-- A state whose next step fetches and runs the instruction with these bits. -/
def State.withFetchWord (s : State) (nbits w : Nat) : State := s.place (w % 2 ^ nbits)

end Sys2Proof.Machine
end

