-- ==== Sys2Proof/Safety.lean ====
section
/-! DEFINITION. The invariants that claims are stated with, and what a safe run is. -/

namespace Sys2Proof.Machine

/-- Memory is in its canonical form: addresses strictly rising, and no entry equal to what an unlisted address reads as. -/
def Memory.wf (m : SMap Byte) : Bool := SMap.wf 0 m

/-- The memory of a state, and of the checkpoint image it holds, is in canonical form. -/
def State.memOk (s : State) : Prop := Memory.wf s.mem = true ∧ ∀ m, s.image = some m → Memory.wf m.mem = true

/-- x0 of every hart is held 0, in a checkpoint image as well (03_crews R57, 04_encoding R83). -/
def State.zeroOk (s : State) : Prop :=
  (∀ h : Fin 512, s.harts[h].x[0] = 0) ∧ ∀ m, s.image = some m → ∀ h : Fin 512, m.harts[h].x[0] = 0

/-- A run is safe while it answers next states: the machine stops only without power. -/
def SafeStep (s : State) : Prop := ∃ t, step s = .next t

end Sys2Proof.Machine
end

