-- ==== Sys2Proof/Certificates/Slice0/Obligations.lean ====
section
/-! DEFINITION. The statements about the model, and the words they are made with. -/

namespace Sys2Proof.Claims
open Sys2Proof.Machine

/-! ## What statements are made with -/

/-- The executing hart after an instruction that writes `v` with taint `t` to register `rd` (x0 takes neither, R83) and goes on
at `pc`: nothing else of the hart changes but what counts the instruction, the window of R79, and what an instruction that had waited
kept. -/
def scalarAfter (h : Hart) (rd : BitVec 5) (v : Word) (t : Taint) (pc : Word) : Hart :=
  { h.setX rd v t with
    pc := pc, instret := h.instret + 1, window := false, run := none, remote := h.remote.filter fun r => !r.own }

/-- The union of the taints of the registers an encoding names (R120, R215). -/
def named (h : Hart) (rs : List (BitVec 5)) : Taint := unionTaint h.issued [] (rs.map h.xt)

/-- Everything a hart's CSRs, mode and vector registers hold: what a scalar instruction leaves alone. -/
def csrsSame (h h' : Hart) : Prop :=
  h'.sup = h.sup ∧ h'.fcsr = h.fcsr ∧ h'.vstart = h.vstart ∧ h'.vl = h.vl ∧ h'.vtype = h.vtype ∧ h'.lanes = h.lanes ∧
  h'.lgquota = h.lgquota ∧ h'.vdirty = h.vdirty ∧ h'.kdirty = h.kdirty ∧ h'.vstate = h.vstate ∧ h'.attncfg = h.attncfg ∧
  h'.cpbar = h.cpbar ∧ h'.sstatus = h.sstatus ∧ h'.stvec = h.stvec ∧ h'.sepc = h.sepc ∧ h'.scause = h.scause ∧
  h'.stval = h.stval ∧ h'.sscratch = h.sscratch ∧ h'.sxlat = h.sxlat ∧ h'.violog = h.violog
/-- The vector and mask registers with their poison. -/
def vectorsSame (h h' : Hart) : Prop := h'.v = h.v ∧ h'.vpoison = h.vpoison ∧ h'.k = h.k
/-- Every register x but one. -/
def xSameBut (h h' : Hart) (rd : BitVec 5) : Prop := ∀ r : BitVec 5, r ≠ rd → h'.xr r = h.xr r
/-- Every other hart's registers, CSRs and pc. -/
def othersSame (s t : State) : Prop := ∀ i : Fin 512, i ≠ s.cur → t.harts[i] = s.harts[i]
/-- Each byte of memory outside `n` bytes from `pa` reads as before. -/
def bytesSameBut (s t : State) (pa n : Nat) : Prop := ∀ a, a < pa ∨ pa + n ≤ a → t.homeByte a = s.homeByte a

/-! ## Scalar arithmetic -/

/-- 1 or 0. -/
def flagWord (b : Bool) : Word := if b then 1 else 0

/-- The OPIMM forms (R122) on the register and the sign-extended immediate. -/
def immForms : List ((BitVec 5 → BitVec 5 → BitVec 11 → Instr) × (Word → Word → Word)) :=
  [(.addi, fun a i => BitVec.ofNat 64 (a.toNat + i.toNat)),
   (.slti, fun a i => flagWord (decide (a.toInt < i.toInt))),
   (.sltiu, fun a i => flagWord (decide (a.toNat < i.toNat))),
   (.andi, fun a i => a &&& i),
   (.ori, fun a i => a ||| i),
   (.xori, fun a i => a ^^^ i)]

/-- The shifts of R122 on the register and the amount. -/
def shiftForms : List ((BitVec 5 → BitVec 5 → BitVec 6 → Instr) × (Word → Nat → Word)) :=
  [(.slli, fun a n => BitVec.ofNat 64 (a.toNat * 2 ^ n)),
   (.srli, fun a n => BitVec.ofNat 64 (a.toNat / 2 ^ n)),
   (.srai, fun a n => BitVec.ofInt 64 (a.toInt / 2 ^ n))]

/-- The two-source OP forms (R123, R29). -/
def regForms : List ((BitVec 5 → BitVec 5 → BitVec 5 → Instr) × (Word → Word → Word)) :=
  [(.add, fun a b => BitVec.ofNat 64 (a.toNat + b.toNat)),
   (.sub, fun a b => BitVec.ofInt 64 ((a.toNat : Int) - b.toNat)),
   (.and, fun a b => a &&& b),
   (.or, fun a b => a ||| b),
   (.xor, fun a b => a ^^^ b),
   (.sll, fun a b => BitVec.ofNat 64 (a.toNat * 2 ^ (b.toNat % 64))),
   (.srl, fun a b => BitVec.ofNat 64 (a.toNat / 2 ^ (b.toNat % 64))),
   (.sra, fun a b => BitVec.ofInt 64 (a.toInt / 2 ^ (b.toNat % 64))),
   (.slt, fun a b => flagWord (decide (a.toInt < b.toInt))),
   (.sltu, fun a b => flagWord (decide (a.toNat < b.toNat))),
   (.min, fun a b => if a.toInt ≤ b.toInt then a else b),
   (.max, fun a b => if a.toInt ≤ b.toInt then b else a),
   (.minu, fun a b => if a.toNat ≤ b.toNat then a else b),
   (.maxu, fun a b => if a.toNat ≤ b.toNat then b else a),
   (.mul, fun a b => BitVec.ofNat 64 (a.toNat * b.toNat)),
   (.mulh, fun a b => (a.signExtend 128 * b.signExtend 128).extractLsb' 64 64),
   (.mulhu, fun a b => (a.setWidth 128 * b.setWidth 128).extractLsb' 64 64),
   (.div, fun a b => if b = 0 then BitVec.allOnes 64 else a.sdiv b),
   (.divu, fun a b => if b = 0 then BitVec.allOnes 64 else a / b),
   (.rem, fun a b => if b = 0 then a else a.srem b),
   (.remu, fun a b => if b = 0 then a else a % b)]

/-- The one-source OP forms (R123). -/
def countForms : List ((BitVec 5 → BitVec 5 → Instr) × (Word → Nat)) :=
  [(.clz, fun a => ((List.range 64).takeWhile fun k => !a.getLsbD (63 - k)).length),
   (.ctz, fun a => ((List.range 64).takeWhile fun k => !a.getLsbD k).length),
   (.cpop, fun a => ((List.range 64).filter fun k => a.getLsbD k).length)]

/-- The branches (R126) with their conditions. -/
def branchForms : List ((BitVec 5 → BitVec 5 → BitVec 11 → Instr) × (Word → Word → Bool)) :=
  [(.beq, fun a b => decide (a = b)), (.bne, fun a b => decide (a ≠ b)),
   (.blt, fun a b => decide (a.toInt < b.toInt)), (.bge, fun a b => decide (a.toInt ≥ b.toInt)),
   (.bltu, fun a b => decide (a.toNat < b.toNat)), (.bgeu, fun a b => decide (a.toNat ≥ b.toNat))]

/-! ## Traps -/

/-- A trap of the executing hart taken between `s` and `t` by the steps of R391, R219 and R395: sepc at the instruction, scause and
stval, the mode and IEN saved in PMODE and PIEN, IEN 0, PREG only for cause 9, supervisor mode at stvec, every tag retired and every
taint set empty; no register, no byte of memory and no other hart changes. -/
def trapped (s t : State) (cause : Nat) (int : Bool) (stval : Word) (preg : Bool) : Prop :=
  t.me.sepc = s.me.pc ∧
  t.me.scause = (if int then BitVec.ofNat 64 cause ||| BitVec.ofNat 64 (2 ^ 63) else BitVec.ofNat 64 cause) ∧
  t.me.stval = stval ∧ t.me.sup = true ∧
  t.me.pc = s.me.stvec &&& ~~~ 3 ∧
  t.me.sstatus.getLsbD 2 = s.me.sup ∧ t.me.sstatus.getLsbD 1 = s.me.sstatus.getLsbD 0 ∧ t.me.sstatus.getLsbD 0 = false ∧
  t.me.sstatus.getLsbD 12 = (if cause = 9 ∧ int = false then preg else s.me.sstatus.getLsbD 12) ∧
  (∀ k, k ≠ 0 → k ≠ 1 → k ≠ 2 → k ≠ 12 → t.me.sstatus.getLsbD k = s.me.sstatus.getLsbD k) ∧
  t.me.tags = [] ∧ (∀ r, t.me.xt r = .tags []) ∧ t.me.taintV = Vector.replicate 32 (.tags []) ∧
  t.me.taintK = Vector.replicate 8 (.tags []) ∧ t.me.taintVl = .tags [] ∧
  t.me.x = s.me.x ∧ vectorsSame s.me t.me ∧ t.me.vl = s.me.vl ∧ t.me.vtype = s.me.vtype ∧ t.me.vstart = s.me.vstart ∧
  t.me.fcsr = s.me.fcsr ∧ t.me.vstate = s.me.vstate ∧ t.me.vdirty = s.me.vdirty ∧ t.me.kdirty = s.me.kdirty ∧
  t.me.stvec = s.me.stvec ∧ t.me.sscratch = s.me.sscratch ∧ t.me.sxlat = s.me.sxlat ∧ t.me.instret = s.me.instret ∧
  t.mem = s.mem ∧ t.cur = s.cur ∧ othersSame s t

/-! ## Loads, stores and atomics -/

/-- The loads (R127): the width in bytes, and the value of the bytes read as a number. -/
def loadForms : List ((BitVec 5 → BitVec 5 → BitVec 11 → Instr) × Nat × (Nat → Int)) :=
  [(.ld, 8, fun v => v), (.lw, 4, fun v => (BitVec.ofNat 32 v).toInt),
   (.lh, 2, fun v => (BitVec.ofNat 16 v).toInt), (.lb, 1, fun v => (BitVec.ofNat 8 v).toInt),
   (.lwu, 4, fun v => v), (.lhu, 2, fun v => v), (.lbu, 1, fun v => v)]
/-- The stores (R128) with their width in bytes. -/
def storeForms : List ((BitVec 5 → BitVec 5 → BitVec 11 → Instr) × Nat) := [(.sd, 8), (.sw, 4), (.sh, 2), (.sb, 1)]

/-- The state once the instruction in hand has its load tag (R214). -/
def tagged (s : State) : State :=
  match takeTag s with
  | .ok _ t => t
  | .error _ t => t
/-- Chute `q` of the executing hart's crew. -/
def myChute (s : State) (q : BitVec 4) : Chute := (s.crewAt (crewOf s.cur)).chutes[q.toNat]'q.isLt
/-- The state once a copy-fed chute that an instruction takes its operand from has its own tag for the pops (R173, R214). -/
def popped (s : State) (chute : Option (BitVec 5)) : State :=
  match chute with
  | none => s
  | some q =>
    if (myChute s (q.setWidth 4)).copyFed then
      match popReadTag s with
      | .ok _ t => t
      | .error _ t => t
    else s
/-- The state once every tag that the taint of some registers names is performed (R216). -/
def waited (s : State) (rs : List (BitVec 5)) : State := s.performTags s.cur fun t => (rs.map s.me.xt).any (·.names t)
/-- The state once the hart's earlier scalar accesses are performed at a scope: a release (R130, R131). -/
def released (s : State) (sc : Nat) : State :=
  let u := s.performTags s.cur fun _ => true
  u.releaseAt (u.ownWrite (some false)) sc

/-- `n` bytes from `pa` are plain memory of a world: its frames carry the world's tag, no home holds any of them, no line of
them fails its MAC, and no bound queue descriptor and no word whose store puts a pool in service lies among them. -/
def plainPlace (s : State) (world pa n : Nat) : Prop :=
  s.readRefused world pa n = false ∧ s.writeRefused world pa n = false ∧ inCtxTab pa = false ∧
  (∀ l ∈ linesOf pa n, s.macBad (l * 64) = false) ∧
  (∀ q ∈ s.queues, q.hit pa n = false) ∧ ¬ (inPool pa = true ∧ pa ≤ pa / 64 * 64 + 24 ∧ pa / 64 * 64 + 32 ≤ pa + n)
/-- No line of `n` bytes from `pa` is poisoned or fails its MAC (R417, R453). -/
def soundLines (s : State) (pa n : Nat) : Prop :=
  ∀ l ∈ linesOf pa n, s.poisoned (l * 64) = false ∧ s.macBad (l * 64) = false

/-- The value an AMO writes to a word of `w` bits, none where it writes nothing (R130), on the signed and unsigned readings of the
words. -/
def amoValue (w : Nat) (op : AmoOp) (old src expect : Nat) : Option Nat :=
  let sg (v : Nat) : Int := (BitVec.ofNat w v).toInt
  match op with
  | .swap => some src
  | .stl => some src
  | .add => some ((old + src) % 2 ^ w)
  | .and => some (old &&& src)
  | .or => some (old ||| src)
  | .xor => some (old ^^^ src)
  | .min => some (if sg old ≤ sg src then old else src)
  | .max => some (if sg old ≤ sg src then src else old)
  | .minu => some (Nat.min old src)
  | .maxu => some (Nat.max old src)
  | .cas => if old = expect then some src else none
  | .lda => none

/-- The AMO forms (R88) with their width in bytes and operation; LDA is an acquire and STL a release, with no third register. -/
def amoForms : List ((BitVec 2 → BitVec 3 → BitVec 5 → BitVec 5 → BitVec 5 → Instr) × Nat × AmoOp) :=
  [(.amoswapD, 8, .swap), (.amoaddD, 8, .add), (.amoandD, 8, .and), (.amoorD, 8, .or), (.amoxorD, 8, .xor), (.amominD, 8, .min),
   (.amomaxD, 8, .max), (.amominuD, 8, .minu), (.amomaxuD, 8, .maxu), (.amocasD, 8, .cas),
   (.amoswapW, 4, .swap), (.amoaddW, 4, .add), (.amoandW, 4, .and), (.amoorW, 4, .or), (.amoxorW, 4, .xor), (.amominW, 4, .min),
   (.amomaxW, 4, .max), (.amominuW, 4, .minu), (.amomaxuW, 4, .maxu), (.amocasW, 4, .cas)]

/-- The registers an AMO's taint wait names (R130, R216). -/
def amoSources (op : AmoOp) (rs2 rs1 rd : BitVec 5) : List (BitVec 5) :=
  match op with
  | .cas => [rs1, rs2, rd]
  | .lda => [rs1]
  | _ => [rs1, rs2]

/-- An atomic of `n` bytes at the word `pa` between `s` and `t`: the old value of the word, sign-extended, in rd (none for STL), the
value of the operation in memory, and nothing else changed (R130). -/
def amoDone (s t : State) (n : Nat) (op : AmoOp) (rs2 rd : BitVec 5) (pa : Nat) : Prop :=
  let old := s.homeNat pa n
  let new := amoValue (8 * n) op old ((s.me.xr rs2).toNat % 2 ^ (8 * n)) ((s.me.xr rd).toNat % 2 ^ (8 * n))
  t.me.xr rd = (if rd = 0 then 0 else if op = .stl then s.me.xr rd else BitVec.ofInt 64 (BitVec.ofNat (8 * n) old).toInt) ∧
  t.homeNat pa n = new.getD old ∧ bytesSameBut s t pa n ∧
  xSameBut s.me t.me rd ∧ csrsSame s.me t.me ∧ vectorsSame s.me t.me ∧ t.me.pc = s.me.pc + 4 ∧ t.me.instret = s.me.instret + 1 ∧
  t.crews = s.crews ∧ othersSame s t

/-- A release, fence or arrival at a scope waits for no device: at system scope the hart's own path has no posted write that another device
has not acknowledged (R437). -/
def noPosted (s : State) (sc : Nat) : Prop := sc = 4 → s.postedOut s.cur = false
/-- The state in which an AMO with these operands reads its word: after its taint wait, its release and its tag. -/
def amoReady (s : State) (op : AmoOp) (ord : BitVec 2) (scope : BitVec 3) (rs2 rs1 rd : BitVec 5) : State :=
  let u := waited s (amoSources op rs2 rs1 rd)
  let u := if ord.getLsbD 1 then released u (scopeNum scope.toNat) else u
  if op = .stl then u else tagged u

/-! ## Fences -/

/-- Whose writes a fence orders: the executing hart's scalar ones, vector ones, or all (R134, R136). -/
def ownWriter (s : State) (vec : Option Bool) (w : Writer) : Bool :=
  match w with
  | .hart h v => h == s.cur.val && (match vec with | none => true | some b => v == b)
  | _ => false
/-- What a fence of the hart's own path leaves: for predecessor reads no tag is outstanding, and for predecessor writes each of them
is performed at the scope or a wider one (R134, R208). -/
def fenced (t : State) (vec : Option Bool) (pred : BitVec 2) (sc : Nat) : Prop :=
  (pred.getLsbD 0 = true → t.me.tags = []) ∧
  (pred.getLsbD 1 = true → ∀ w ∈ t.writes, ownWriter t vec w.who = true → sc ≤ w.scope)
/-- What no fence changes: memory, the registers, the CSRs; the pc moves on. -/
def fenceFrame (s t : State) : Prop :=
  t.mem = s.mem ∧ t.me.x = s.me.x ∧ csrsSame s.me t.me ∧ vectorsSame s.me t.me ∧ t.me.pc = s.me.pc + 4 ∧
  t.me.instret = s.me.instret + 1 ∧ t.crews = s.crews ∧ t.cur = s.cur ∧ othersSame s t

/-! ## CSRs -/

/-- The CSR forms (R140) on a register: the new value from the old one and the operand, and whether the register x0 makes it a read. -/
def csrForms : List ((BitVec 5 → BitVec 5 → BitVec 11 → Instr) × (Word → Word → Word) × Bool × (Hart → BitVec 5 → Word)) :=
  [(.csrrw, fun _ v => v, false, fun h r => h.xr r), (.csrrs, fun o v => o ||| v, true, fun h r => h.xr r),
   (.csrrc, fun o v => o &&& ~~~ v, true, fun h r => h.xr r), (.csrrwi, fun _ v => v, false, fun _ u => u.setWidth 64),
   (.csrrsi, fun o v => o ||| v, true, fun _ u => u.setWidth 64), (.csrrci, fun o v => o &&& ~~~ v, true, fun _ u => u.setWidth 64)]

/-- A CSR access that R105 and R106 allow in the hart's mode: readable, and writable where it writes; on the access hart the CSRs of
the execute hart read 0 and take no write. -/
def csrAllowed (s : State) (n : Nat) (reads : Bool) : Prop :=
  ∃ u p, csrMap n = some (u, p) ∧
    (let a := if s.me.sup then p else u
     a ≠ .none ∧ (a = .ro → reads = true ∨ (s.cur.val % 2 = 0 ∧ readsZero n = true)))

/-! ## Chutes -/

/-- Every other chute of the crew, and every other crew. -/
def chutesSameBut (s t : State) (q : BitVec 4) : Prop :=
  (∀ p : BitVec 4, p ≠ q → myChute t p = myChute s p) ∧ ∀ n : Fin 256, n.val ≠ crewOf s.cur → t.crews[n] = s.crews[n]
/-- What no chute instruction changes. -/
def chuteFrame (s t : State) (rd : BitVec 5) (q : BitVec 4) : Prop :=
  t.mem = s.mem ∧ xSameBut s.me t.me rd ∧ csrsSame s.me t.me ∧ vectorsSame s.me t.me ∧ t.me.instret = s.me.instret + 1 ∧
  chutesSameBut s t q ∧ othersSame s t

/-! ## Vector instructions -/

/-- The state in which a vector instruction reads its operands: the posted matrix entries of its crew are done (R157, R258). -/
def atIssue (s : State) : State := s.mxDrain (crewOf s.cur)

/-- The chute an encoding names in a register field (R93). -/
def srcChute (s : State) (src : BitVec 5) : Chute := (s.crewAt (crewOf s.cur)).chutes[Fin.ofNat 16 src.toNat]
/-- Element `j` beyond the head of a chute, read `w` bits wide, and whether its entry is poisoned (R154, R177). -/
def chuteElem (c : Chute) (w j : Nat) : Nat :=
  let a := c.head + j
  ((c.entries.map ChEntry.bits).getD (a / (64 / w)) 0).toNat / 2 ^ (a % (64 / w) * w) % 2 ^ w
def chuteSound (c : Chute) (w j : Nat) : Prop := (c.entries.map ChEntry.poison).getD ((c.head + j) / (64 / w)) false = false
/-- `n` elements of `w` bits used up (R154): the entries passed leave, and the head stands within the next. -/
def chuteUsed (c c' : Chute) (w n : Nat) : Prop :=
  c'.entries = c.entries.drop ((c.head + n) / (64 / w)) ∧ c'.head = (c.head + n) % (64 / w) ∧
  c'.copyFed = c.copyFed ∧ c'.tokens = c.tokens ∧ c'.resv = c.resv

/-- The length an instruction runs to: vl, or with a chute source what the chute supplies, in whole blocks once the elements up to
vl or one whole block beyond vstart are there; none where it waits (R154). -/
def runLen (s : State) (chute : Option (BitVec 5)) : Option Nat :=
  match chute with
  | none => some s.me.vln
  | some q =>
    let c := srcChute s q
    let avail := 64 / s.me.ew * c.entries.length - c.head
    let n := min s.me.vln (s.me.vst + avail)
    let m := if s.me.bl = 0 then n else n / s.me.bl * s.me.bl
    let next := ((s.me.vst + s.me.bl - 1) / s.me.bl + 1) * s.me.bl
    if 0 < avail ∧ s.me.vst < m ∧ (s.me.bl = 0 ∨ n = s.me.vln ∨ next ≤ n) then some m else none

/-- The second operand of element `i` by its kind: a register, x, an immediate, or a chute (R93, R153, R154). -/
def second (s : State) (ok : BitVec 2) (src : BitVec 5) (signed : Bool) (i : Nat) : Nat :=
  let h := s.me
  if ok = 0 then h.elem src h.ew i
  else if ok = 1 then (h.xr src).toNat % 2 ^ h.ew
  else if ok = 2 then (if signed then (BitVec.ofInt h.ew src.toInt).toNat else src.toNat % 2 ^ h.ew)
  else chuteElem (srcChute s src) h.ew (i - h.vst)
/-- The second operand of element `i` is free of poison. -/
def secondSound (s : State) (ok : BitVec 2) (src : BitVec 5) (i : Nat) : Prop :=
  (ok = 0 → s.me.elemBad src s.me.ew i = false) ∧ (ok = 3 → chuteSound (srcChute s src) s.me.ew (i - s.me.vst))
/-- The chute of an operand kind. -/
def chuteFor (ok : BitVec 2) (src : BitVec 5) : Option (BitVec 5) := if ok = 3 then some src else none

/-- Element `i` is worked on: from vstart, below the length, and not masked off (R155). -/
def active (h : Hart) (km : BitVec 3) (n i : Nat) : Bool :=
  decide (h.vst ≤ i) && decide (i < n) && (km == 0 || (h.kr km.toNat).getLsbD i)

/-- A register between two states of a hart: each element of `w` bits that `val` gives holds that value and no poison, every other
bit and poison mark of the file is as before. -/
def regWritten (h h' : Hart) (vd : BitVec 5) (w : Nat) (val : Nat → Option Nat) : Prop :=
  (∀ b, b < 16384 → (h'.vr vd).getLsbD b = (match val (b / w) with | some v => v.testBit (b % w) | none => (h.vr vd).getLsbD b)) ∧
  (∀ b, b < 2048 → (h'.vp vd).getLsbD b = ((h.vp vd).getLsbD b && !(decide (8 ≤ w) && (val (8 * b / w)).isSome))) ∧
  ∀ r, r ≠ vd → h'.vr r = h.vr r ∧ h'.vp r = h.vp r
/-- A mask register between two states of a hart, bit by bit. -/
def maskWritten (h h' : Hart) (kd : BitVec 3) (val : Nat → Option Bool) : Prop :=
  (∀ b, b < 4096 → (h'.kr kd.toNat).getLsbD b = (val b).getD ((h.kr kd.toNat).getLsbD b)) ∧
  ∀ k : BitVec 3, k ≠ kd → h'.kr k.toNat = h.kr k.toNat

/-- The module error log (R429): its header and its records. -/
def inErrLog (a : Nat) : Prop := Config.errLog ≤ a ∧ a < Config.errLog + 64 + 32 * 4096
/-- Memory after an instruction that stores nothing: as it was where the words of registers that it reads are `clean` of poison, else but for an
event of latent poison in the module error log (R172, R429). -/
def memKept (u t : State) (clean : Prop) : Prop :=
  (clean → t.mem = u.mem) ∧ (u.memOk → ∀ a, ¬ inErrLog a → t.homeByte a = u.homeByte a)
/-- No byte of some registers is poisoned. -/
def cleanRegs (h : Hart) (rs : List (BitVec 5)) : Prop := ∀ r ∈ rs, h.vp r = 0
/-- An address that no event of latent poison reaches. -/
def spared (clean : Prop) (a : Nat) : Prop := clean ∨ ¬ inErrLog a

/-- What a completed vector instruction leaves beside its destination: vl as trimmed, vstart 0, the flags added, the dirty bits of the
destinations, the pc past it, the chute elements used; every x register, every other CSR, memory, the other chutes, the arrays and
the other harts as they were (R154 to R158, R35). -/
def vecAfter (u t : State) (n : Nat) (used : Option (BitVec 5 × Nat)) (dv : List (BitVec 5)) (dk : List (BitVec 3)) (fl : FFlags) : Prop :=
  let h := u.me
  let h' := t.me
  h'.vl = BitVec.ofNat 12 n ∧ h'.vstart = 0 ∧ h'.fcsr = h.fcsr ||| (fl.setWidth 64 <<< 4) ∧
  (∀ r : BitVec 5, h'.vdirty.getLsbD r.toNat = (h.vdirty.getLsbD r.toNat || dv.contains r)) ∧
  (∀ k : BitVec 3, h'.kdirty.getLsbD k.toNat = (h.kdirty.getLsbD k.toNat || dk.contains k)) ∧
  h'.vstate = (if dv = [] ∧ dk = [] then h.vstate else 2) ∧
  h'.pc = h.pc + 4 ∧ h'.instret = h.instret + 1 ∧
  h'.sup = h.sup ∧ h'.vtype = h.vtype ∧ h'.lanes = h.lanes ∧ h'.lgquota = h.lgquota ∧ h'.attncfg = h.attncfg ∧ h'.cpbar = h.cpbar ∧
  h'.sstatus = h.sstatus ∧ h'.stvec = h.stvec ∧ h'.sepc = h.sepc ∧ h'.scause = h.scause ∧ h'.stval = h.stval ∧
  h'.sscratch = h.sscratch ∧ h'.sxlat = h.sxlat ∧ h'.violog = h.violog ∧
  t.cores = u.cores ∧ t.cur = u.cur ∧ othersSame u t ∧
  (match used with
    | none => t.crews = u.crews
    | some (q, k) => chuteUsed (srcChute u q) (srcChute t q) h.ew k ∧ chutesSameBut u t (q.setWidth 4))

/-- A vector instruction may run: on the execute hart, with vstate not Off, at a vtype it is legal at, with an element left (R103, R156). -/
def vecReady (s : State) (legal : Hart → Prop) : Prop :=
  s.cur.val % 2 = 1 ∧ s.me.vstate ≠ 0 ∧ legal s.me ∧ (atIssue s).me.vst < (atIssue s).me.vln

/-- An element-wise instruction completes: `reads` names the registers (with width and index) that element `i` reads, `readsB` whether it
reads the second operand, `flags` what flags its element raises, and `dst` says what the destination holds, from which elements are
active and the second operand. -/
def elementwise (i : Instr) (s : State) (ok : BitVec 2) (km : BitVec 3) (src : BitVec 5) (signed : Bool) (legal : Hart → Prop)
    (reads : Hart → Nat → List (BitVec 5 × Nat × Nat)) (readsB : Hart → Nat → Bool) (flags : Hart → (Nat → Nat) → Nat → FFlags)
    (dv : List (BitVec 5)) (dk : List (BitVec 3)) (dst : Hart → Hart → (Nat → Bool) → (Nat → Nat) → Prop) : Prop :=
  let u := atIssue s
  let h := u.me
  ∀ n, vecReady s legal → runLen u (chuteFor ok src) = some n →
    (∀ j, active h km n j = true → (∀ e ∈ reads h j, h.elemBad e.1 e.2.1 e.2.2 = false) ∧ (readsB h j = true → secondSound u ok src j)) →
    ∃ t, exec i s = .next t ∧ dst h t.me (active h km n) (second u ok src signed) ∧ t.me.x = h.x ∧
      memKept u t (∀ j, active h km n j = true → cleanRegs h ((reads h j).map Prod.fst ++ if readsB h j = true ∧ ok = 0 then [src] else [])) ∧
      (dk = [] → t.me.k = h.k) ∧ (dv = [] → t.me.v = h.v ∧ t.me.vpoison = h.vpoison) ∧
      vecAfter u t n ((chuteFor ok src).map fun q => (q, n - h.vst)) dv dk
        (((List.range n).filter (active h km n)).foldl (fun a j => a ||| flags h (second u ok src signed) j) 0)

/-- Where an element is active, the value of a function; elsewhere none. -/
def only {α : Type} (act : Nat → Bool) (f : Nat → α) (i : Nat) : Option α := if act i then some (f i) else none

/-- A form on vs2 and a second operand that writes vd. -/
abbrev Form2 := BitVec 2 → BitVec 3 → BitVec 5 → BitVec 5 → BitVec 5 → Instr
/-- A form on one operand of a kind. -/
abbrev Form1 := BitVec 2 → BitVec 3 → BitVec 5 → BitVec 5 → Instr
/-- A comparison form. -/
abbrev FormK := BitVec 2 → BitVec 3 → BitVec 5 → BitVec 5 → BitVec 3 → Instr

/-- The integer forms of R159 and R160 with the reading of their immediate and their value on words of `w` bits. -/
def vecIntForms : List (Form2 × Bool × ((w : Nat) → BitVec w → BitVec w → BitVec w)) :=
  [(.vadd, true, fun _ a b => a + b), (.vsub, true, fun _ a b => a - b), (.vrsub, true, fun _ a b => b - a),
   (.vmin, true, fun _ a b => if a.toInt ≤ b.toInt then a else b), (.vmax, true, fun _ a b => if a.toInt ≤ b.toInt then b else a),
   (.vminu, true, fun _ a b => if a.toNat ≤ b.toNat then a else b), (.vmaxu, true, fun _ a b => if a.toNat ≤ b.toNat then b else a),
   (.vand, true, fun _ a b => a &&& b), (.vor, true, fun _ a b => a ||| b), (.vxor, true, fun _ a b => a ^^^ b),
   (.vsll, false, fun w a b => a <<< (b.toNat % w)), (.vsrl, false, fun w a b => a >>> (b.toNat % w)),
   (.vsra, false, fun w a b => a.sshiftRight (b.toNat % w)),
   (.vsadd, true, fun w a b => BitVec.ofInt w (max (-2 ^ (w - 1)) (min (2 ^ (w - 1) - 1) (a.toInt + b.toInt)))),
   (.vssub, true, fun w a b => BitVec.ofInt w (max (-2 ^ (w - 1)) (min (2 ^ (w - 1) - 1) (a.toInt - b.toInt)))),
   (.vmul, true, fun _ a b => a * b),
   (.vmulh, true, fun w a b => BitVec.ofInt w (a.toInt * b.toInt / 2 ^ w)),
   (.vmulhu, true, fun w a b => BitVec.ofNat w (a.toNat * b.toNat / 2 ^ w)),
   (.vdiv, true, fun w a b => if b = 0 then BitVec.allOnes w else a.sdiv b),
   (.vdivu, true, fun w a b => if b = 0 then BitVec.allOnes w else a / b),
   (.vrem, true, fun _ a b => if b = 0 then a else a.srem b),
   (.vremu, true, fun _ a b => if b = 0 then a else a % b)]

/-- The integer comparisons of R161. -/
def vecCmpForms : List (FormK × Bool × ((w : Nat) → BitVec w → BitVec w → Bool)) :=
  [(.vmseq, true, fun _ a b => decide (a = b)), (.vmsne, true, fun _ a b => decide (a ≠ b)),
   (.vmslt, true, fun _ a b => decide (a.toInt < b.toInt)), (.vmsltu, false, fun _ a b => decide (a.toNat < b.toNat)),
   (.vmsle, true, fun _ a b => decide (a.toInt ≤ b.toInt)), (.vmsleu, false, fun _ a b => decide (a.toNat ≤ b.toNat)),
   (.vmsgt, true, fun _ a b => decide (a.toInt > b.toInt)), (.vmsgtu, false, fun _ a b => decide (a.toNat > b.toNat))]

/-- A float SEW (R149), with a rounding mode in frm where the form rounds (R34, R152). -/
def floatSew (rounds : Bool) (h : Hart) : Prop := 4 ≤ h.sew ∧ h.sew ≤ 6 ∧ (rounds = true → h.frm ≤ 4)

/-- An exact value rounded once to the format of vtype by a mode: the code, with the flags of the operation and of the rounding (R31, R36). -/
def rounded (h : Hart) (r : FVal × FFlags) : Nat × FFlags :=
  ((packVal h.fmt h.rnd r.1).1, (packVal h.fmt h.rnd r.1).2 ||| r.2)

/-- The float forms on two sources (R162): whether they round, and code and flags of the result. -/
def vecFloatForms : List (Form2 × Bool × (Hart → Nat → Nat → Nat × FFlags)) :=
  let val (h : Hart) (b : Nat) : FVal := decodeIeee h.fmt true b
  [(.vfadd, true, fun h a b => rounded h (addVal h.rnd (val h a) (val h b))),
   (.vfsub, true, fun h a b => rounded h (addVal h.rnd (val h a) (val h b).neg)),
   (.vfmul, true, fun h a b => rounded h (mulVal (val h a) (val h b))),
   (.vfdiv, true, fun h a b => rounded h (divVal (val h a) (val h b))),
   (.vfmin, false, fun h a b => minMaxBits h.fmt false a b), (.vfmax, false, fun h a b => minMaxBits h.fmt true a b),
   (.vfsgnj, false, fun h a b => if (val h a).isNan then (h.fmt.canon, 0) else (putBits a (h.fmt.width - 1) 1 (bits b (h.fmt.width - 1) (h.fmt.width - 1)), 0)),
   (.vfsgnjn, false, fun h a b =>
     if (val h a).isNan then (h.fmt.canon, 0) else (putBits a (h.fmt.width - 1) 1 (1 - bits b (h.fmt.width - 1) (h.fmt.width - 1)), 0)),
   (.vfsgnjx, false, fun h a b =>
     if (val h a).isNan then (h.fmt.canon, 0)
     else (putBits a (h.fmt.width - 1) 1 ((bits a (h.fmt.width - 1) (h.fmt.width - 1) + bits b (h.fmt.width - 1) (h.fmt.width - 1)) % 2), 0))]

/-- −(a × b) − d, rounded once; where the exact result is zero, with the sign that a × b + d does not have (R162). -/
def negFused (m : Rnd) (a b d : FVal) : FVal × FFlags :=
  match fmaVal m a b d with
  | (.fin n 0 e, fl) => (.fin (!n) 0 e, fl)
  | _ => fmaVal m a.neg b d.neg
/-- The fused forms (R162) on vs2, the second operand and the old element of vd, each rounded once. -/
def vecFusedForms : List (Form2 × (Rnd → FVal → FVal → FVal → FVal × FFlags)) :=
  [(.vfmacc, fun m a b d => fmaVal m a b d), (.vfnmacc, negFused), (.vfmsac, fun m a b d => fmaVal m a b d.neg)]

/-- The float forms on one source (R162 to R164). -/
def vecFloat1Forms : List (Form1 × Bool × (Hart → Nat → Nat × FFlags)) :=
  let val (h : Hart) (b : Nat) : FVal := decodeIeee h.fmt true b
  [(.vfsqrt, true, fun h b => rounded h (sqrtVal (val h b))), (.vfrcp, true, fun h b => rounded h (divVal (.fin false 1 0) (val h b))),
   (.vfexp2, true, fun h b => rounded h (exp2Val (val h b))), (.vfclass, false, fun h b => (classCode h.fmt b, 0)),
   (.vfcvtFX, true, fun h b =>
     let v := (BitVec.ofNat h.ew b).toInt
     rounded h (.fin (decide (v < 0)) v.natAbs 0, 0)),
   (.vfcvtXF, true, fun h b => toIntBits h.rnd h.ew (val h b))]

/-- The float comparisons (R37, R161): false on a NaN but for VMFNE; VMFEQ and VMFNE raise IVO on a signalling NaN, the others on any. -/
def vecFloatCmpForms : List (FormK × Bool × Bool × (Ordering → Bool)) :=
  [(.vmfeq, true, false, fun o => o == .eq), (.vmfne, true, true, fun o => o != .eq),
   (.vmflt, false, false, fun o => o == .lt), (.vmfle, false, false, fun o => o == .lt || o == .eq)]
/-- The bit and the flags of a float comparison. -/
def floatCmp (quiet onNan : Bool) (p : Ordering → Bool) (a b : FVal) : Bool × FFlags :=
  if a.isNan || b.isNan then (onNan, if quiet && !a.isSig && !b.isSig then 0 else flIVO) else (p (cmpVal a b), 0)

/-- The narrower side of VFWCVT and VFNCVT (R95, R165): its width, and the value of a code, from the SEW and the fmt field. -/
def narrow (sew : Nat) (fmt : BitVec 5) : Option (Nat × (Nat → FVal)) :=
  match fmt.toNat with
  | 4 => if sew = 6 then some (16, decodeIeee bf16 true) else none
  | 5 => if sew = 6 then some (16, decodeIeee fp16 true) else none
  | f => if f % 8 = 7 ∧ 4 ≤ sew ∧ sew ≤ 6 then some ((nfOf (f / 8)).width, decodeNarrow (nfOf (f / 8))) else none
/-- A value narrowed: to BF16 or FP16 by frm, to a narrow code by its own rule (R45, R46, R165). -/
def narrowTo (h : Hart) (fmt : BitVec 5) (v : FVal) : Nat × FFlags :=
  if fmt.toNat % 8 = 7 then encodeNarrow (nfOf (fmt.toNat / 8)) v
  else
    let f := if fmt.toNat = 4 then bf16 else fp16
    ((packVal f h.rnd v).1, (packVal f h.rnd v).2 ||| sigFlag v)

/-- The active elements of block `j` of a hart (R166). -/
def blockOf (act : Nat → Bool) (bl j : Nat) : List Nat := ((List.range bl).map fun k => j * bl + k).filter act

/-- A permutation completes (R191): the value of each active element is read before any is written; `q` is a chute that gives one element, and
`bad` says that an element it reads is poisoned, `srcs` are its vector sources. -/
def permutes (i : Instr) (s : State) (q : Option (BitVec 5)) (srcs : List (BitVec 5)) (act : Hart → Nat → Bool) (legal : Hart → Prop)
    (bad : Hart → Nat → Nat → Bool) (val : Hart → Nat → Nat → Option Nat) (vd : BitVec 5) : Prop :=
  let u := atIssue s
  let h := u.me
  let o := match q with | some q => chuteElem (srcChute u q) h.ew 0 | none => 0
  let on (j : Nat) : Bool := decide (h.vst ≤ j) && decide (j < h.vln) && act h j
  vecReady s legal → (∀ r, q = some r → 0 < 64 / h.ew * (srcChute u r).entries.length - (srcChute u r).head ∧ chuteSound (srcChute u r) h.ew 0) →
    (∀ j, on j = true → bad h o j = false) →
    ∃ t, exec i s = .next t ∧ regWritten h t.me vd h.ew (fun j => if on j then val h o j else none) ∧ memKept u t (cleanRegs h srcs) ∧ t.me.x = h.x ∧
      t.me.k = h.k ∧ vecAfter u t h.vln (q.map fun q => (q, 1)) [vd] [] 0

/-- Element `j` of a register within vl, 0 at or beyond it (R193, R194). -/
def within (h : Hart) (r : BitVec 5) (j : Nat) : Nat := if j < h.vln then h.elem r h.ew j else 0
/-- The poison of that read. -/
def withinBad (h : Hart) (r : BitVec 5) (j : Nat) : Bool := decide (j < h.vln) && h.elemBad r h.ew j
/-- The operand of a slide by its kind (R193); `whole` where x is read whole. -/
def slideBy (ok : BitVec 2) (src : BitVec 5) (whole : Bool) (h : Hart) (o : Nat) : Nat :=
  if ok = 0 then h.elem src h.ew 0
  else if ok = 1 then (if whole then (h.xr src).toNat else (h.xr src).toNat % 2 ^ h.ew)
  else if ok = 2 then src.toNat else o
/-- No mask bit set below an index, counted (R195). -/
def bitsBelow (h : Hart) (k : BitVec 3) (i : Nat) : Nat := ((List.range i).filter fun j => (h.kr k.toNat).getLsbD j).length

/-- A reduction completes (R197 to R199): vd.e[0] is the fold of the active elements in ascending order, from vs1.e[0] or x. -/
def reduces (i : Instr) (s : State) (ok : BitVec 2) (km : BitVec 3) (vs2 src vd : BitVec 5) (legal : Hart → Prop)
    (step : Hart → Nat → Nat → Nat × FFlags) : Prop :=
  let u := atIssue s
  let h := u.me
  let act := (List.range h.vln).filter fun j => km == 0 || (h.kr km.toNat).getLsbD j
  let init := if ok = 0 then h.elem src h.ew 0 else (h.xr src).toNat % 2 ^ h.ew
  let res := act.foldl (fun (a : Nat × FFlags) j => ((step h a.1 (h.elem vs2 h.ew j)).1, a.2 ||| (step h a.1 (h.elem vs2 h.ew j)).2)) (init, 0)
  vecReady s (fun h => legal h ∧ h.vst = 0) → (ok = 0 → h.elemBad src h.ew 0 = false) → (∀ j ∈ act, h.elemBad vs2 h.ew j = false) →
    ∃ t, exec i s = .next t ∧ regWritten h t.me vd h.ew (fun j => if j = 0 then some res.1 else none) ∧ t.me.x = h.x ∧
      memKept u t (cleanRegs h (if ok = 0 then [vs2, src] else [vs2])) ∧
      t.me.k = h.k ∧ vecAfter u t h.vln none [vd] [] res.2

/-- The reductions (R198). -/
def reduceForms : List (Form2 × (Hart → Prop) × (Hart → Nat → Nat → Nat × FFlags)) :=
  let sg (h : Hart) (b : Nat) : Int := (BitVec.ofNat h.ew b).toInt
  let val (h : Hart) (b : Nat) : FVal := decodeIeee h.fmt true b
  [(.vredsum, fun h => h.sew ≤ 3, fun h a b => ((a + b) % 2 ^ h.ew, 0)),
   (.vredmax, fun h => h.sew ≤ 3, fun h a b => (if sg h a ≤ sg h b then b else a, 0)),
   (.vredmin, fun h => h.sew ≤ 3, fun h a b => (if sg h a ≤ sg h b then a else b, 0)),
   (.vredmaxu, fun h => h.sew ≤ 3, fun _ a b => (if a ≤ b then b else a, 0)),
   (.vredminu, fun h => h.sew ≤ 3, fun _ a b => (if a ≤ b then a else b, 0)),
   (.vfredsum, floatSew true, fun h a b => rounded h (addVal h.rnd (val h a) (val h b))),
   (.vfredmax, floatSew false, fun h a b => minMaxBits h.fmt true a b),
   (.vfredmin, floatSew false, fun h a b => minMaxBits h.fmt false a b)]

/-- The number of the segment that element `i` lies in: one begins at element 0 and at each bit of ks1 (R199). -/
def segmentNo (h : Hart) (ks1 : BitVec 3) (i : Nat) : Nat := ((List.range i).filter fun j => (h.kr ks1.toNat).getLsbD (j + 1)).length

/-! ## Vector memory and chute transfers -/

/-- The state in which a vector memory instruction makes its accesses: at issue, with every tag named by its operands performed (R157, R216). -/
def memIssue (s : State) (km : BitVec 3) (sv sx : List (BitVec 5)) : State :=
  let u := atIssue s
  let h := u.me
  let ts := (sv.map fun v => h.taintV[v.toNat]'v.isLt) ++ sx.map h.xt ++ (if km = 0 then [] else [h.taintK[km.toNat]'km.isLt]) ++ [h.taintVl]
  u.performTags s.cur fun t => ts.any (·.names t)

/-- The same for an instruction that takes a load tag, once it has taken it (R214). -/
def loadIssue (s : State) (km : BitVec 3) (sv sx : List (BitVec 5)) : State := tagged (memIssue s km sv sx)

/-- The translation of an address is at hand: in a window of R26, or in the TLB of the core, so that no table is read (R340). -/
def atHand (s : State) (rq : Req) (va : Nat) : Prop :=
  (0xF0_0000_0000_0000 ≤ va ∧ va < 0x100_0000_0000_0000) ∨ (tlbFind (s.coreAt rq.core).tlb rq.ctx va).isSome = true
/-- An address whose translation is at hand: the access goes to `pa` of this module and leaves no trace in the TLBs (R339, R340). -/
def placed (s : State) (va : Nat) (acc : Acc) (pa : Nat) : Prop :=
  s.locate (s.reqFor s.cur) va acc = (s, .ok (.local pa)) ∧ atHand s (s.reqFor s.cur) va
/-- The world whose tag an access of the executing hart carries (R448). -/
def myWorld (s : State) : Nat := (s.reqFor s.cur).world
/-- No write to these bytes can be the one that spends its frame's MAJOR (R451). -/
def steady (s : State) (pa n : Nat) : Prop :=
  ∀ l ∈ linesOf pa n, s.tagOf (l * 64) = 0 ∨ SMap.get 0 s.frameMajor (frameOf (l * 64)) + 2 ^ 16 < 2 ^ 48
/-- `n` readable bytes of the executing hart's world, sound, that lie in one page of `va` (R129, R176). -/
def readable (s : State) (va pa n : Nat) : Prop :=
  va % 0x1_0000 + n ≤ 0x1_0000 ∧ placed s va .read pa ∧ s.readRefused (myWorld s) pa n = false ∧ soundLines s pa n
/-- `n` writable bytes of plain memory that lie in one page of `va`. -/
def writable (s : State) (va pa n : Nat) : Prop :=
  va % 0x1_0000 + n ≤ 0x1_0000 ∧ placed s va .write pa ∧ plainPlace s (myWorld s) pa n ∧ steady s pa n
/-- The executing hart's path holds every write to some bytes, so that it reads what their home holds (R205, R206). -/
def known (s : State) (pa n : Nat) : Prop :=
  ∀ x ∈ s.writes, x.pa < pa + n → pa < x.pa + x.old.length → x.inView (hartView s.cur) = true ∨ samePath x.who (.hart s.cur false) = true
/-- Bytes that a SEQ command reads, and a word that it writes as well (R360). -/
def seqRead (s : State) (va pa n : Nat) : Prop := readable s (va % 2 ^ 64) pa n ∧ known s pa n
def seqWord (s : State) (va pa n : Nat) : Prop := seqRead s va pa n ∧ writable s (va % 2 ^ 64) pa n
/-- Two ranges of addresses share no byte. -/
def apart (a n b m : Nat) : Prop := a + n ≤ b ∨ b + m ≤ a

/-- Where element `i` of a memory form lies: its first byte, how many bytes it touches, and its first bit there; TAP6 elements are the
6-bit fields of a stream (R48, R175). -/
def elemByte (w a i : Nat) : Nat := if w = 6 then (a + 6 * i / 8) % 2 ^ 64 else a
def elemLen (w i : Nat) : Nat := if w = 6 then (6 * i + 5) / 8 + 1 - 6 * i / 8 else w / 8
def elemShift (w i : Nat) : Nat := if w = 6 then 6 * i % 8 else 0

/-- The index of element `i` of an indexed form: from vs2, or from a chute (R174). -/
def indexAt (s : State) (chute : Bool) (vs2 : BitVec 5) (i : Nat) : Nat :=
  if chute then chuteElem (srcChute s vs2) s.me.ew (i - s.me.vst) else s.me.elem vs2 s.me.ew i

/-- The addresses of R175. -/
def unitAt (h : Hart) (rs1 : BitVec 5) (i : Nat) : Nat := if h.ew = 6 then (h.xr rs1).toNat else (h.xr rs1 + BitVec.ofNat 64 (h.ew / 8 * i)).toNat
def strideAt (h : Hart) (rs1 rs2 : BitVec 5) (i : Nat) : Nat := (h.xr rs1 + h.xr rs2 * BitVec.ofNat 64 i).toNat
def indexedAt (s : State) (chute : Bool) (rs1 vs2 : BitVec 5) (i : Nat) : Nat :=
  (s.me.xr rs1 + BitVec.ofNat 64 (s.me.ew / 8 * indexAt s chute vs2 i)).toNat

/-- The bytes an access of the executing hart's vector path reads, as a number: the writes it has returned are in its view, and for an ordered
element every write performed at a scope that contains it (R178, R205, R206). -/
def viewed (s : State) (ordered : Bool) (pa n : Nat) : Nat :=
  let v := hartView s.cur
  let u := if ordered then s.enterAll (s.needsOf v) v else s
  leValue ((u.owed v pa n).viewBytes v (.hart s.cur true) pa n)

/-- A vector load (`ordered` for its ordered form), with its tags taken, completes where every active element's place is at hand, aligned and readable, and its index sound: each active element holds
the bytes read, nothing else changes. -/
def loads (i : Instr) (s : State) (km : BitVec 3) (vd : BitVec 5) (sv sx : List (BitVec 5)) (chute : Option (BitVec 5)) (ordered : Bool) (legal : Hart → Prop)
    (addr : State → Nat → Nat) (ok : State → Nat → Prop) : Prop :=
  let w := tagged (popped (memIssue s km sv sx) chute)
  let h := w.me
  ∀ n (pa : Nat → Nat), vecReady s legal → runLen w chute = some n →
    (∀ j, active h km n j = true → ok w j ∧ (h.ew ≠ 6 → addr w j % (h.ew / 8) = 0) ∧
      readable w (elemByte h.ew (addr w j) j) (pa j) (elemLen h.ew j)) →
    ∃ t, exec i s = .next t ∧
      regWritten h t.me vd h.ew (only (active h km n) fun j => viewed w (ordered && decide (h.vst < j)) (pa j) (elemLen h.ew j) / 2 ^ elemShift h.ew j % 2 ^ h.ew) ∧
      memKept w t (cleanRegs h sv) ∧ t.me.x = h.x ∧ t.me.k = h.k ∧ vecAfter w t n (chute.map fun q => (q, n - h.vst)) [vd] [] 0

/-- A vector store completes where every active element's place is at hand, aligned and plain, and its sources sound: an element that no other
active element overlaps (for the ordered forms, no later one) is in memory, bytes of no element are as before, registers are kept, but for an
event of latent poison in the module error log. -/
def stores (i : Instr) (s : State) (km : BitVec 3) (sv sx : List (BitVec 5)) (chute : Option (BitVec 5)) (ordered : Bool) (legal : Hart → Prop)
    (addr : State → Nat → Nat) (ok : State → Nat → Prop) (val : State → Nat → Nat) : Prop :=
  let w := memIssue s km sv sx
  let h := w.me
  let b := h.ew / 8
  ∀ n (pa : Nat → Nat), s.memOk → vecReady s legal → h.ew ≠ 6 → runLen w chute = some n → (chute ≠ none → h.tags.length < 64) →
    (∀ j, active h km n j = true → ok w j ∧ addr w j % b = 0 ∧ writable w (addr w j) (pa j) b) →
    ∃ t, exec i s = .next t ∧
      (∀ a, spared (cleanRegs h sv) a → (∀ j, active h km n j = true → a < pa j ∨ pa j + b ≤ a) → t.homeByte a = w.homeByte a) ∧
      (∀ j, active h km n j = true → (∀ a, pa j ≤ a → a < pa j + b → spared (cleanRegs h sv) a) →
        (∀ k, active h km n k = true → k ≠ j → (ordered = true → j < k) → apart (pa j) b (pa k) b) → t.homeNat (pa j) b = val w j) ∧
      t.me.x = h.x ∧ vectorsSame h t.me ∧ vecAfter w t n (chute.map fun q => (q, n - h.vst)) [] [] 0

/-- The add of R185 on words of `w` bits. -/
def addAt (sew w a b : Nat) : Nat :=
  if sew ≤ 3 then (a + b) % 2 ^ w
  else (packVal (sewFmt sew) .rne (addVal .rne (decodeIeee (sewFmt sew) true a) (decodeIeee (sewFmt sew) true b)).1).1

/-- The non-zero elements of a list (R182). -/
def nonZero (l : List Nat) : List Nat := l.filter fun v => v != 0

/-- The home bucket of a key (R189). -/
def hashHome (key logb : Nat) : Nat := ((key % 2 ^ 32) ^^^ (key / 2 ^ 32 % 2 ^ 32)) * 0x9E37_79B1 % 2 ^ 32 / 2 ^ (32 - logb)

/-! ## Engines a hart commands -/

/-- A 64-byte object of pool SRAM whose translation is at hand: aligned, of the hart's world, and of a frame that takes a write where it is
written (R245, R247, R451). -/
def object (s : State) (va : Nat) (acc : Acc) (pa : Nat) : Prop :=
  va % 64 = 0 ∧ placed s va acc pa ∧ inPool pa = true ∧ s.readRefused (myWorld s) pa 64 = false ∧ (acc = .write → steady s pa 64)
/-- The context of the executing hart (R336). -/
def myCtx (s : State) : Nat := (s.reqFor s.cur).ctx
/-- A command answered: its result word in rd with an empty taint, no other register, CSR or vector register changed, the pc past it. -/
def answered (s t : State) (rd : BitVec 5) (v : Nat) : Prop :=
  t.me.xr rd = (if rd = 0 then 0 else BitVec.ofNat 64 v) ∧ t.me.xt rd = .tags [] ∧ xSameBut s.me t.me rd ∧ csrsSame s.me t.me ∧
  vectorsSame s.me t.me ∧ t.me.pc = s.me.pc + 4 ∧ t.me.instret = s.me.instret + 1 ∧ t.cur = s.cur ∧ othersSame s t
/-- The same for a command that may cut the copies of any hart loose from a record. -/
def answeredButCopies (s t : State) (rd : BitVec 5) (v : Nat) : Prop :=
  t.me.xr rd = (if rd = 0 then 0 else BitVec.ofNat 64 v) ∧ t.me.xt rd = .tags [] ∧ xSameBut s.me t.me rd ∧ csrsSame s.me t.me ∧
  vectorsSame s.me t.me ∧ t.me.pc = s.me.pc + 4 ∧ t.me.instret = s.me.instret + 1 ∧ t.cur = s.cur ∧
  ∀ i : Fin 512, i ≠ s.cur → { t.harts[i] with copies := [] } = { s.harts[i] with copies := [] }

/-- A hart lies in a barrier's scope, measured from the crew that configured it (R243). -/
def inBarrier (v h : Nat) : Prop :=
  (brScope v = 0 → h / 2 = brOcrew v) ∧ (brScope v = 1 → h / 8 = brOcrew v / 4) ∧ (brScope v = 2 → h / 64 = brOcrew v / 32)
/-- A record that an arrival of `m` units may move: counts as R243 keeps them. -/
def barrierSound (v : Nat) : Prop :=
  brArrived v ≤ brExpect v ∧ brEarly v < brExpect v ∧ (brArrived v = brExpect v → brPend v ≠ 0)
/-- An arrival of `m` units and `x` declared bytes moves a record from `v` to `v'` (R243, R244): it is counted in the open phase, or early
for the next; the arrival that makes the count with no copy pending completes the phase, whose code is 9 after a failed copy, 10 where
the bytes differ, else 0, and early arrivals open the next. -/
def arrives (v v' m x : Nat) : Prop :=
  brState v' = 1 ∧ brExpect v' = brExpect v ∧ brCtx v' = brCtx v ∧ brScope v' = brScope v ∧ brOcrew v' = brOcrew v ∧ brPend v' = brPend v ∧
  (if brArrived v < brExpect v then
    let xb := (brXbytes v + x) % 2 ^ 64
    if brArrived v + m = brExpect v ∧ brPend v = 0 then
      brPhase v' = (brPhase v + 1) % 2 ^ 32 ∧ brLast v' = (if brFail v then 9 else if xb ≠ 0 ∧ brCounted v ≠ xb then 10 else 0) ∧
      brFail v' = false ∧ brArrived v' = brEarly v ∧ brXbytes v' = brEarlyx v ∧ brEarly v' = 0 ∧ brEarlyx v' = 0 ∧ brCounted v' = 0
    else
      brArrived v' = brArrived v + m ∧ brXbytes v' = xb ∧ brPhase v' = brPhase v ∧ brLast v' = brLast v ∧ brFail v' = brFail v ∧
      brEarly v' = brEarly v ∧ brEarlyx v' = brEarlyx v ∧ brCounted v' = brCounted v
  else
    brEarly v' = brEarly v + m ∧ brEarlyx v' = (brEarlyx v + x) % 2 ^ 64 ∧ brArrived v' = brArrived v ∧ brXbytes v' = brXbytes v ∧
    brPhase v' = brPhase v ∧ brLast v' = brLast v ∧ brFail v' = brFail v ∧ brCounted v' = brCounted v)
/-- The units an arrival may add now (R243). -/
def arrivalFits (v m : Nat) : Prop :=
  if brArrived v < brExpect v then brArrived v + m ≤ brExpect v else brEarly v + m ≤ brExpect v

/-- The words of a pool that its commands change lie apart from each other (R270, R274, R332). -/
def poolApart (p : PoolRec) (id : Nat) : Prop :=
  apart (p.recPa id) 8 p.pa 64 ∧ (p.ctx ≠ 0 → apart (p.recPa id) 8 (ctxPa p.ctx) 128 ∧ apart p.pa 64 (ctxPa p.ctx) 128)
/-- The frames of a pool's descriptor and of a page's record take the writes of a command (R451). -/
def poolSteady (s : State) (p : PoolRec) (id : Nat) : Prop := steady s p.pa 64 ∧ steady s (p.recPa id) 8
/-- The partition of the executing hart's die (R17, R274). -/
def myPart (s : State) : Nat := if (s.dieAt (s.cur.val / 64)).decode then 1 else 0
/-- A page's record holds a count, a state and a partition, and its other fields as before. -/
def pageHolds (s t : State) (p : PoolRec) (id refs st part : Nat) : Prop :=
  prRefs (t.pageRec p id) = refs ∧ prState (t.pageRec p id) = st ∧ prPart (t.pageRec p id) = part ∧ prInfl (t.pageRec p id) = prInfl (s.pageRec p id)
/-- A page's release as PGREL makes it: a reference less, the page owned at the last but one, freed, or freed once its fetches end, at the last (R275). -/
def pageReleased (s t : State) (p : PoolRec) (id : Nat) : Prop :=
  let r := s.pageRec p id
  (prState r = 2 → 2 < prRefs r → pageHolds s t p id (prRefs r - 1) 2 (myPart s)) ∧
  (prState r = 2 → prRefs r ≤ 2 → pageHolds s t p id 1 1 (myPart s)) ∧
  (prState r = 1 → prInfl r ≠ 0 → pageHolds s t p id 0 4 (myPart s)) ∧
  (prState r = 1 → prInfl r = 0 → pageHolds s t p id 0 0 (myPart s) ∧ pdFreeHead (t.homeNat p.pa 64) = id ∧
    pdFreeCnt (t.homeNat p.pa 64) = (pdFreeCnt (s.homeNat p.pa 64) + 1) % 2 ^ 24)
/-- A pool named by an address for the executing hart (R276). -/
def poolIs (s : State) (va : Nat) (p : PoolRec) : Prop :=
  va % 64 = 0 ∧ (∃ pa, placed s va .read pa ∧ pa % 64 = 0 ∧ s.readRefused (myWorld s) pa 64 = false ∧ s.poolAt pa = some p) ∧ p.ctx = myCtx s
/-- The pages charged to a context, and its quota (R341). -/
def charged (s : State) (ctx : Nat) : Nat := s.ctxField ctx 319 296
def pageQuota (s : State) (ctx : Nat) : Nat := s.ctxField ctx 255 232
/-- Memory outside a page's record, its pool's free list words and the charge of its context. -/
def pageFrame (s t : State) (p : PoolRec) (id : Nat) : Prop :=
  ∀ a, (a < p.recPa id ∨ p.recPa id + 8 ≤ a) → (a < p.pa + 32 ∨ p.pa + 40 ≤ a) → (p.ctx = 0 ∨ a < ctxPa p.ctx ∨ ctxPa p.ctx + 128 ≤ a) →
    t.homeByte a = s.homeByte a
/-- The result word of a page command that reached a page (R276). -/
def pageAnswer (s t : State) (rd : BitVec 5) (id refs st code : Nat) : Prop :=
  answered s t rd (id * 2 ^ 32 + refs * 2 ^ 16 + st * 2 ^ 8 + code)
/-- The state after an own-path release at a scope, every own access performed (R220, R277). -/
def releasedAll (s : State) (sc : Nat) : State :=
  let u := s.performTags s.cur fun _ => true
  u.releaseAt (u.ownWrite none) sc
/-- The state after an acquire: the own view holds what is performed (R207, R220). -/
def caughtUp (t : State) : Prop := t.needsOf (hartView t.cur) = []

/-- The tokens of a stop list from `base`, read one after the other (R364). -/
def tokensRead (base : Nat) : List Nat → Nat → State → State → Prop
  | [], _, s, t => s = t
  | x :: r, i, s, t => ∃ u bs, (base + 4 * i) % 2 ^ 64 % 4 = 0 ∧ s.readVa ((base + 4 * i) % 2 ^ 64) 4 .read true true = (u, .ok bs) ∧
      leValue bs = x ∧ tokensRead base r (i + 1) u t

/-- The first `n` bytes of a bound object are sound: its frames are the hart's world's, and no line is poisoned or fails its MAC (R314, R417, R448,
R453). -/
def ixSound (s : State) (o : IxObj) (n : Nat) : Prop :=
  ∀ k, k < n → s.tagOf (o.at' (k / 64 * 64)) = myWorld s ∧ s.macBad (o.at' (k / 64 * 64)) = false ∧ s.poisoned (o.at' (k / 64 * 64)) = false
/-- The objects that a cursor's slots hold are sound, with their texts. -/
def slotsSound (s : State) (c : Cursor) : Prop :=
  ∀ j : Fin 4, ∀ p g m o, c.slots[j] = .attached p g m → s.ixLive p g = some o → ixSound s o (128 + 4 * ixLen (s.ixHdr o))
/-- The header of an object and the next `k` tokens of its text take writes (R448, R451, R453). -/
def ixTakes (s : State) (o : IxObj) (k : Nat) : Prop :=
  steady s o.pa 64 ∧ ∀ j, j < k →
    let a := o.at' ((128 + 4 * (ixLen (s.ixHdr o) + j)) / 64 * 64)
    s.tagOf a = myWorld s ∧ s.macBad a = false ∧ steady s a 64
/-- The place of an index object, whose translation is at hand, with a sound header where one is bound there (R305, R314). -/
def indexAddr (s : State) (va pa : Nat) : Prop :=
  va % 4096 = 0 ∧ placed s va .read pa ∧ inMemory pa = true ∧ s.readRefused (myWorld s) pa 1 = false ∧ ∀ o, s.ixAt pa = some o → ixSound s o 128
/-- R308: an object of the hart's world that its context owns, or that admits it. -/
def indexUse (s : State) (o : IxObj) (own : Bool) : Prop :=
  ixWorld (s.ixHdr o) = myWorld s ∧ (ixOwner (s.ixHdr o) = myCtx s ∨ (own = false ∧
    (ixWide (s.ixHdr o) = true ∨ ∃ i, i < 8 ∧ i < ixNmatch (s.ixHdr o) ∧ ixMatch (s.ixHdr o) i = myCtx s)))
/-- The own cursor `i` of the crew, and every other cursor and crew as it was. -/
def myCursor (s : State) (i : Nat) : Cursor := (s.crewAt (crewOf s.cur)).cursors[Fin.ofNat 8 i]
def cursorsSameBut (s t : State) (i : Nat) : Prop :=
  (∀ j : Fin 8, j ≠ Fin.ofNat 8 i → (t.crewAt (crewOf s.cur)).cursors[j] = (s.crewAt (crewOf s.cur)).cursors[j]) ∧
  ∀ n : Fin 256, n.val ≠ crewOf s.cur → t.crews[n] = s.crews[n]
/-- The match length of R311: the most tokens, up to a bound, whose last occurrence in the text without its last token matches the window's end. -/
def matchLen (text window : List Nat) (lim m : Nat) : Prop :=
  let stands (k : Nat) : Prop := List.IsInfix (window.drop (window.length - k)) (text.take (text.length - 1))
  m ≤ lim ∧ (m ≠ 0 → stands m) ∧ ∀ k, m < k → k ≤ lim → ¬ stands k
/-- The accepted length of row `j` of a proposal (R325): how many of its tokens, from the first, are not the pad and equal the argmax. -/
def acceptedLen (v2 v1 : Nat → Nat) (l j : Nat) : Nat :=
  ((List.range l).takeWhile fun k => v2 (j * (l + 1) + k + 1) != 0xFFFF_FFFF && v2 (j * (l + 1) + k + 1) == v1 (j * (l + 1) + k)).length

/-! ## Copies, the matrix array, the Sluice and the attention chain -/

/-- The hart past a tile instruction, which is eight bytes long (R82, R257). -/
def tileAfter (h : Hart) : Hart := scalarAfter h 0 0 noTaint (h.pc + 8)
/-- A tile instruction may run: on the execute hart, vstate not Off, the crew holding the lease (R103, R253). -/
def tileReady (s : State) : Prop := s.cur.val % 2 = 1 ∧ s.me.vstate ≠ 0 ∧ (s.crewAt (crewOf s.cur)).lease = .held
/-- The state once the matrix queue has room: with 64 entries posted the oldest executes first (R257). -/
def queueRoom (s : State) : State :=
  match (s.crewAt (crewOf s.cur)).mqueue with
  | e :: r => if r.length + 1 ≥ 64 then (s.mxExec (crewOf s.cur) e).mapCrew (crewOf s.cur) fun c => { c with mqueue := r } else s
  | [] => s
/-- An entry posted at the end of the crew's matrix queue, and the instruction past. -/
def posted (s : State) (e : MxEntry) : State :=
  ((queueRoom s).mapCrew (crewOf s.cur) fun c => { c with mqueue := c.mqueue ++ [e] }).mapMe tileAfter
/-- The rows that fit, and the format of each element, of a tile instruction (R262, R264). -/
def tileRows (rows : BitVec 4) (vl k : Nat) : Nat := if rows = 0 then vl / k else rows.toNat
/-- The format of the plane that will be active once every posted entry has run (R257). -/
def activeFmt (s : State) : Nat :=
  let a := (s.coreAt (coreOf s.cur)).array
  if ((s.crewAt (crewOf s.cur)).mqueue.filter fun e => e = .swap).length % 2 = 0 then a.act.fmt else a.shd.fmt
/-- A crew of a core whose posted entry is next in the array (R253, R257). -/
def nextEntry (s : State) (core n : Nat) (e : MxEntry) (r : List MxEntry) : Prop :=
  core < 64 ∧ n / 4 = core ∧ s.leaseHolder core = some n ∧ (s.crewAt n).mqueue = e :: r
/-- The array of a core. -/
def arrayAt (s : State) (core : Nat) : MxArray := (s.coreAt core).array

/-- What an engine command's address translates to at hand, byte by byte (R227). -/
def placedFor (s : State) (rq : Req) (va : Nat) (acc : Acc) (pa n : Nat) : Prop :=
  ∀ i, i < n → s.locate rq ((va + i) % 2 ^ 64) acc = (s, .ok (.local (pa + i))) ∧ atHand s rq ((va + i) % 2 ^ 64)
/-- The command of a ticket of a hart. -/
def copyOf (s : State) (h ticket : Nat) : Option CopyCmd := (s.hartAt h).copies.find? fun c => c.ticket = ticket
/-- The status word of R228. -/
def statusIs (dn ticket code : Nat) : Word := BitVec.ofNat 64 (dn % 2 ^ 32 * 2 ^ 32 + ticket * 2 ^ 16 + code)

/-- The greatest score of the slots inside the window, minus infinity with none (R298). -/
def chainMax (h : Hart) (c : Chain) (head : Nat) : Nat :=
  match (List.range 64).filter h.inWindow with
  | [] => 0xFF80_0000
  | s :: r => r.foldl (fun m t => (minMaxBits fp32 true m (c.score t head)).1) (c.score s head)
/-- The weight of a slot (R298). -/
def chainWeight (h : Hart) (c : Chain) (head s : Nat) : Nat :=
  if chainMax h c head = 0xFF80_0000 ∨ h.inWindow s = false then 0 else exp32 (sub32 (c.score s head) (chainMax h c head))
/-- The bytes of slot `k` counted from the cursor, of `n` entries a slot. -/
def slotBytes (es : List ChEntry) (n k : Nat) : List Byte := ((es.drop (n * k)).take n).flatMap fun e => leBytesOf 8 e.bits.toNat
/-- The entries of a slot hold every element that the configuration asks for (R290, R296). -/
def slotsHold (h : Hart) (n : Nat) : Prop :=
  ∀ head dim, head < h.acHn → dim < h.acD →
    (head / 2 ^ h.acGsh * hdrD h.chain.hdr1 + dim + 1) * kvBytes (hdrFmt h.chain.hdr1) ≤ 8 * n
/-- A key or value element of a slot (R290). -/
def slotElem (h : Hart) (data : List Byte) (head dim : Nat) : FVal :=
  let b := kvBytes (hdrFmt h.chain.hdr1)
  kvDecode (hdrFmt h.chain.hdr1) (leValue ((data.drop ((head / 2 ^ h.acGsh * hdrD h.chain.hdr1 + dim) * b)).take b))

/-- The Sluice at work on a command of the executing hart (R282): path S, the view of its die, no scratchpad (R26, R203, R204). -/
def sluiceAt (s : State) : Agent :=
  ⟨.engine s.cur .S 0, .die (s.cur.val / 64), { s.reqFor s.cur with scratch := false }, 4, s.cur, 0, s.me.pc.toNat⟩
/-- A command answered, where the homes may meanwhile have answered commands of other harts that they held (R275). -/
def answeredWoken (s t : State) (rd : BitVec 5) (v : Nat) : Prop :=
  t.me.xr rd = (if rd = 0 then 0 else BitVec.ofNat 64 v) ∧ t.me.xt rd = .tags [] ∧ xSameBut s.me t.me rd ∧ csrsSame s.me t.me ∧
  vectorsSame s.me t.me ∧ t.me.pc = s.me.pc + 4 ∧ t.me.instret = s.me.instret + 1 ∧ t.cur = s.cur ∧
  ∀ i : Fin 512, i ≠ s.cur → { t.harts[i] with remote := [] } = { s.harts[i] with remote := [] }
/-- A merge buffer that lies in one frame (R286). -/
def oneFrame (b : MBind) : Prop := b.base % 0x1_0000 + b.size ≤ 0x1_0000
/-- The frames of a merge buffer take the writes of the Sluice (R451). -/
def mbSteady (s : State) (b : MBind) : Prop := ∀ off, off < b.size → steady s (b.pa off) 1
/-- A merge slot holds a partial; heads and dimensions that the partial does not carry are empty (R294). -/
def slotHolds (t : State) (b : MBind) (slot : Nat) (p : Partial) : Prop :=
  ∀ head, head < b.hn →
    t.mbGet b (slot + head * (8 + 4 * b.d)) 4 = p.m1.getD head 0xFF80_0000 % 2 ^ 32 ∧
    t.mbGet b (slot + head * (8 + 4 * b.d) + 4) 4 = p.l1.getD head 0 % 2 ^ 32 ∧
    ∀ i, i < b.d → t.mbGet b (slot + head * (8 + 4 * b.d) + 8 + 4 * i) 4 = (p.o1.getD head []).getD i 0 % 2 ^ 32
/-- The running state of one head, at `run`, merged with a maximum `m1` and the sums `o1` (R51): the new maximum, and each sum scaled by
how far either maximum lies below it; all as it was where every score so far was masked. -/
def mergedHead (s t : State) (b : MBind) (run m1 : Nat) (o1 : Nat → Nat) : Prop :=
  let m := s.mbGet b run 4
  let n := (minMaxBits fp32 true m m1).1
  let so := exp32 (sub32 m n)
  let s1 := exp32 (sub32 m1 n)
  t.mbGet b run 4 = (if n = 0xFF80_0000 then m else n) ∧
  ∀ i, i ≤ b.d → t.mbGet b (run + 4 + 4 * i) 4 =
    if n = 0xFF80_0000 then s.mbGet b (run + 4 + 4 * i) 4
    else r32 (addVal .rne (mulVal (dec32 (s.mbGet b (run + 4 + 4 * i) 4)) (dec32 so)).1 (mulVal (dec32 (o1 i)) (dec32 s1)).1).1

/-! ## Steps with no encoding -/

/-- Every hart but one is as it was. -/
def hartsSameBut (s t : State) (h : Nat) : Prop := ∀ i : Fin 512, i.val ≠ h → t.harts[i] = s.harts[i]
/-- Every crew but one is as it was. -/
def crewsSameBut (s t : State) (n : Nat) : Prop := ∀ i : Fin 256, i.val ≠ n → t.crews[i] = s.crews[i]
/-- The CSRs that take a written value through a mask (R141): the number, the register, and the new value from the old one and the word. -/
def maskedFields : List (Nat × (Hart → Word) × (Word → Word → Word)) :=
  [(0x00A, Hart.cpbar, fun _ v => v), (0x101, Hart.stvec, fun _ v => v &&& ~~~ 3), (0x102, Hart.sepc, fun _ v => v &&& ~~~ 1),
   (0x103, Hart.scause, fun _ v => v), (0x104, Hart.stval, fun _ v => v), (0x106, Hart.sscratch, fun _ v => v),
   (0x107, Hart.sxlat, fun o v => (o &&& ~~~ 0xFF_FFFF_FFFF) ||| (v &&& 0xFF_FFFF_FFFF))]
/-- A pre-emption request stands for a hart that may take it: of an ended hart too, not of one that has left, nor while a
checkpoint has stopped the harts (R385, R394, R426). -/
def requestDue (s : State) (h : Nat) : Prop :=
  h < 512 ∧ s.stopping = false ∧ (s.crewAt (h / 2)).resident ≠ none ∧ (s.crewAt (h / 2)).preempt = true ∧ (s.hartAt h).left = false ∧ (s.hartAt h).mayTake = true
/-- An interrupt whose enable bit is set may be taken by a hart that issues, and no request comes before it (R394). -/
def interruptDue (s : State) (h bit : Nat) : Prop :=
  h < 512 ∧ s.issuing h = true ∧ (s.crewAt (h / 2)).preempt = false ∧ (s.hartAt h).sstatus.getLsbD bit = true ∧ (s.hartAt h).mayTake = true
/-- The mailbox interrupt is due, and the timer interrupt, behind it (R394). -/
def mailboxDue (s : State) (h : Nat) : Prop := interruptDue s h 16 ∧ s.bellPending h = true
def timerDue (s : State) (h : Nat) : Prop :=
  interruptDue s h 17 ∧ s.timerPending h = true ∧ (s.bellPending h = false ∨ (s.hartAt h).sstatus.getLsbD 16 = false)
/-- The trap that is due is taken: at the instruction the hart stands at, or, where it waited in a WFI, at the one behind it (R138, R394). -/
def dueTaken (s t : State) (h cause : Nat) (int : Bool) : Prop :=
  ((s.hartAt h).stalled ≠ some .wfi → trapped (s.as h) t cause int 0 false) ∧
  ((s.hartAt h).stalled = some .wfi → trapped ((s.wfiOver h).as h) t cause int 0 false ∧ t.me.sepc = (s.hartAt h).pc + 4 ∧
    t.me.instret = (s.hartAt h).instret + 1) ∧ t.me.ended = false

/-- The steps by which a hart is interrupted, which change nothing while the cause may not be taken. -/
def mailboxAnswer (s : State) (status : Nat) (data : List Byte) : List Byte :=
  leBytesOf 8 (reqWord s.mbxReq / 2 ^ 32 * 2 ^ 32 + data.length % 2 ^ 16 * 2 ^ 16 + status) ++ data
/-- The request whose doorbell rings names a command and its operands, as (offset, size, value) (R460, R462). -/
def asked (s : State) (cmd : Nat) (ops : List (Nat × Nat × Nat)) : Prop :=
  s.doorbell = true ∧ reqWord s.mbxReq % 2 ^ 16 = cmd ∧ ∀ o ∈ ops, leValue ((s.mbxReq.drop o.1).take o.2.1) = o.2.2
/-- The answer of the mailbox (R441, R460): where a request asks for the command it is answered under its own SEQ, DOOR falls and DONE is set; a
command that no request asks for answers nothing. -/
def responded (s t : State) (ask : Prop) (status : Nat) (data : List Byte) : Prop :=
  (ask → t.doorbell = false ∧ t.mbxDone = true ∧ t.mbxResp = mailboxAnswer s status data) ∧
  (¬ ask → t.doorbell = s.doorbell ∧ t.mbxDone = s.mbxDone ∧ t.mbxResp = s.mbxResp)
/-- The same, with everything else as in `s'`. -/
def replied (s s' t : State) (ask : Prop) (status : Nat) (data : List Byte) : Prop :=
  responded s t ask status data ∧ { t with doorbell := s.doorbell, mbxDone := s.mbxDone, mbxResp := s.mbxResp } = s'

/-- The 128 bytes of a context's record as a number (R332). -/
def ctxWord (s : State) (ctx : Nat) : Nat := s.homeNat (ctxPa ctx) 128
/-- A step that leaves a context's record at a value, every other byte of memory as it was, and no hart or crew changed. -/
def recordBecomes (s t : State) (ctx v : Nat) : Prop :=
  ctxWord t ctx = v ∧ bytesSameBut s t (ctxPa ctx) 128 ∧ t.harts = s.harts
/-- The command at the head of a context's queue (R331). -/
def commanded (s : State) (ctx cmd : Nat) : Prop := s.ctxCmds.find? (fun c => c.1 = ctx) = some (ctx, cmd)

/-- A crew that may be asked to leave (R384): resident, neither ending nor abandoned, with no request standing. -/
def mayBeAsked (s : State) (n : Nat) : Prop :=
  (s.crewAt n).resident ≠ none ∧ (s.crewAt n).ending = false ∧ (s.crewAt n).abandoned = false ∧ (s.crewAt n).preempt = false
/-- A world is protected and in the state that a command needs (R446, R461). -/
def worldIs (s : State) (w : Nat) (isOpen : Bool) : Prop := 1 ≤ w ∧ w ≤ 15 ∧ (s.worldAt w).isOpen = isOpen
/-- A row is to be remapped (R424): two lasting failures are noted in it, or one that the scrubber confirmed. -/
def rowDue (s : State) (inRow : Nat → Bool) : Prop :=
  2 ≤ (s.rowFails.filter fun e => inRow e.1).length ∨ ∃ e ∈ s.rowFails, inRow e.1 = true ∧ e.2 = true
/-- What a read found cannot be corrected (R172, R415). -/
def lost (f : ReadFault) : Prop := f = .lasting ∨ f = .demand ∨ f = .double ∨ f = .latentDouble
/-- Every world but one is as it was. -/
def worldsSameBut (s t : State) (w : Nat) : Prop := ∀ i : Fin 16, i.val ≠ w → t.worlds[i] = s.worlds[i]
/-- The lanes that passed training. -/
def laneCount (l : BitVec 4) : Nat := ((List.range 4).filter fun k => l.getLsbD k).length
/-- A range of memory that a peer's request reaches (R437, R438, R448). -/
def peerRange (s : State) (src pa n : Nat) (write : Bool) (ctx : Nat) : Prop :=
  s.admitted src pa n write = some ctx ∧ inMemory pa = true ∧ inMemory (pa + n - 1) = true ∧ s.readRefused (s.ctxWorld ctx) pa n = false
/-- A flit for this module that arrives in its order, with a receive entry free, and acknowledges nothing, at a port in service (R432, R433, R435). -/
def inOrderFlit (s : State) (port : Nat) (f : Flit) : Prop :=
  port < 32 ∧ s.stopping = false ∧ ((s.portAt port).st = .up ∨ (s.portAt port).st = .degraded) ∧ f.crcOk = true ∧ f.dst = s.devnum ∧ f.room = true ∧ f.ackSeq = none ∧ f.nackSeq = none ∧
  (s.portAt port).fails = 0 ∧ (s.portAt port).held = [] ∧ f.seq = (s.portAt port).rxSeq
/-- The flits that answer a request of a peer: its tag, back to its source, the data in pieces of at most 224 bytes (R432). -/
def answers (l : List SentFlit) (f : Flit) (data : List Byte) : Prop :=
  l ≠ [] ∧ (∀ e ∈ l, e.tag = f.tag % 2 ^ 16 ∧ e.dst = f.src ∧ ∃ d, e.body = .response true d ∧ d.length ≤ 224) ∧
  (l.flatMap fun e => match e.body with | .response _ d => d | _ => []) = data
/-- An access through BAR2 that a mapped page admits (R440): the page, and a world that is not protected. -/
def barRange (s : State) (acc : HostAccess) (a : Aperture) (n pa : Nat) (right : Bool) : Prop :=
  acc.bar = .bar2 ∧ acc.intact = true ∧ s.stopping = false ∧ s.apertures.find? (fun x => x.page = acc.offset / 0x100_0000) = some a ∧ right = true ∧ n ≠ 0 ∧
  acc.offset % 0x100_0000 + n ≤ a.len ∧ pa = a.base + acc.offset % 0x100_0000 ∧ inMemory pa = true ∧ inMemory (pa + n - 1) = true ∧
  s.tdiBars (s.ctxWorld a.ctx) acc.stream acc.tbit = false ∧ s.readRefused (s.ctxWorld a.ctx) pa n = false

end Sys2Proof.Claims

open Sys2Proof Sys2Proof.Machine Sys2Proof.Claims


/-! ## Scalar instructions -/

/-- The word of the OPIMM layout (R122). -/
def Sys2Proof.Claims.immWord (imm fn3 : Nat) (rs1 rd : BitVec 5) : Nat := imm * 2 ^ 21 + fn3 * 2 ^ 18 + rs1.toNat * 2 ^ 13 + rd.toNat * 2 ^ 8 + 1
/-- The word of the OP layout (R123). -/
def Sys2Proof.Claims.regWord (fn9 : Nat) (rs2 rs1 rd : BitVec 5) : Nat :=
  fn9 * 2 ^ 23 + rs2.toNat * 2 ^ 18 + rs1.toNat * 2 ^ 13 + rd.toNat * 2 ^ 8 + 1 * 4 + 1

/-- R122, R100: each OPIMM form, C.LI, C.ADDI and C.NOP complete in every state: x[rd] holds the value of the table on x[rs1] and
the sign-extended immediate (x0 discards it), with the taint of x[rs1], and the pc moves past the instruction. The forms stand in the
order of fn3, with the layout of R122; the shifts it reserves do not decode. -/
def Obligations.ImmediateArithmetic : Prop :=
  (∀ p ∈ immForms, ∀ rd rs1 imm s, exec (p.1 rd rs1 imm) s =
    .next (s.mapMe fun h => scalarAfter h rd (p.2 (h.xr rs1) (imm.signExtend 64)) (named h [rs1]) (h.pc + 4))) ∧
  (∀ p ∈ immForms.zipIdx, ∀ rd rs1 (imm : BitVec 11), encode (p.1.1 rd rs1 imm) = some (32, immWord imm.toNat p.2 rs1 rd)) ∧
  (∀ p ∈ shiftForms, ∀ rd rs1 sh s, exec (p.1 rd rs1 sh) s =
    .next (s.mapMe fun h => scalarAfter h rd (p.2 (h.xr rs1) sh.toNat) (named h [rs1]) (h.pc + 4))) ∧
  (∀ rd rs1 (sh : BitVec 6), encode (.slli rd rs1 sh) = some (32, immWord sh.toNat 6 rs1 rd) ∧
    encode (.srli rd rs1 sh) = some (32, immWord sh.toNat 7 rs1 rd) ∧ encode (.srai rd rs1 sh) = some (32, immWord (1024 + sh.toNat) 7 rs1 rd)) ∧
  (∀ rd rs1 imm, imm < 2 ^ 11 → (64 ≤ imm → decodeTableWord 32 (immWord imm 6 rs1 rd) = none) ∧
    (imm / 64 % 16 ≠ 0 → decodeTableWord 32 (immWord imm 7 rs1 rd) = none)) ∧
  (∀ rd imm s, exec (.cLi rd imm) s = .next (s.mapMe fun h => scalarAfter h rd (imm.signExtend 64) noTaint (h.pc + 2))) ∧
  (∀ rd imm s, exec (.cAddi rd imm) s =
    .next (s.mapMe fun h => scalarAfter h rd (h.xr rd + imm.signExtend 64) (named h [rd]) (h.pc + 2))) ∧
  (∀ s, exec .cNop s = .next (s.mapMe fun h => scalarAfter h 0 0 noTaint (h.pc + 2)))

/-- R123, R29, R100: each OP form, C.MV and C.ADD complete in every state with the value of the table; no operand traps and no
flag is set. The forms stand in the order of fn9, with the layout of R123; CLZ, CTZ and CPOP with rs2 set do not decode. -/
def Obligations.RegisterArithmetic : Prop :=
  (∀ p ∈ regForms, ∀ rd rs1 rs2 s, exec (p.1 rd rs1 rs2) s =
    .next (s.mapMe fun h => scalarAfter h rd (p.2 (h.xr rs1) (h.xr rs2)) (named h [rs1, rs2]) (h.pc + 4))) ∧
  (∀ p ∈ regForms.zipIdx, ∀ rd rs1 rs2, encode (p.1.1 rd rs1 rs2) = some (32, regWord p.2 rs2 rs1 rd)) ∧
  (∀ p ∈ countForms, ∀ rd rs1 s, exec (p.1 rd rs1) s =
    .next (s.mapMe fun h => scalarAfter h rd (BitVec.ofNat 64 (p.2 (h.xr rs1))) (named h [rs1]) (h.pc + 4))) ∧
  (∀ p ∈ countForms.zipIdx, ∀ rd rs1, encode (p.1.1 rd rs1) = some (32, regWord (21 + p.2) 0 rs1 rd) ∧
    ∀ rs2, rs2 ≠ 0 → decodeTableWord 32 (regWord (21 + p.2) rs2 rs1 rd) = none) ∧
  (∀ rd rs s, exec (.cMv rd rs) s = .next (s.mapMe fun h => scalarAfter h rd (h.xr rs) (named h [0, rs]) (h.pc + 2))) ∧
  (∀ rd rs s, exec (.cAdd rd rs) s =
    .next (s.mapMe fun h => scalarAfter h rd (h.xr rd + h.xr rs) (named h [rd, rs]) (h.pc + 2)))

/-- R124: LUI and AUIPC complete in every state: x[rd] is sext(imm19 << 11), or pc + sext(imm19 << 11) with pc the instruction's own
address, and its taint set is empty. Both have the layout of R124. -/
def Obligations.UpperImmediates : Prop :=
  (∀ rd imm s, exec (.lui rd imm) s =
    .next (s.mapMe fun h => scalarAfter h rd (BitVec.ofInt 64 (imm.toInt * 2 ^ 11)) noTaint (h.pc + 4))) ∧
  (∀ rd imm s, exec (.auipc rd imm) s =
    .next (s.mapMe fun h => scalarAfter h rd (h.pc + BitVec.ofInt 64 (imm.toInt * 2 ^ 11)) noTaint (h.pc + 4))) ∧
  ∀ (rd : BitVec 5) (imm : BitVec 19), encode (.lui rd imm) = some (32, imm.toNat * 2 ^ 13 + rd.toNat * 2 ^ 8 + 2 * 4 + 1) ∧
    encode (.auipc rd imm) = some (32, imm.toNat * 2 ^ 13 + rd.toNat * 2 ^ 8 + 3 * 4 + 1)

/-- R125, R100: JAL, JALR, C.J and C.JR complete in every state: the link, with an empty taint, goes to rd, and the pc to the target, read
before rd is written. -/
def Obligations.Jumps : Prop :=
  (∀ rd imm s, exec (.jal rd imm) s =
    .next (s.mapMe fun h => scalarAfter h rd (h.pc + 4) noTaint (h.pc + BitVec.ofInt 64 (2 * imm.toInt)))) ∧
  (∀ rd rs1 imm s, exec (.jalr rd rs1 imm) s =
    .next (s.mapMe fun h => scalarAfter h rd (h.pc + 4) noTaint ((h.xr rs1 + imm.signExtend 64) &&& ~~~ 1))) ∧
  (∀ off s, exec (.cJ off) s = .next (s.mapMe fun h => scalarAfter h 0 0 noTaint (h.pc + BitVec.ofInt 64 (2 * off.toInt)))) ∧
  (∀ rs1 s, exec (.cJr rs1) s = .next (s.mapMe fun h => scalarAfter h 0 0 noTaint (h.xr rs1 &&& ~~~ 1)))

/-- R126, R121, R100: each branch completes in every state, whatever its sources' taint: it goes to pc + 2 × sext(imm) when its
condition holds and to the next instruction otherwise, and it writes no register. The forms stand in the order of fn3, with the layout
of R126. -/
def Obligations.Branches : Prop :=
  (∀ p ∈ branchForms, ∀ rs1 rs2 imm s, exec (p.1 rs1 rs2 imm) s =
    .next (s.mapMe fun h => scalarAfter h 0 0 noTaint
      (if p.2 (h.xr rs1) (h.xr rs2) then h.pc + BitVec.ofInt 64 (2 * imm.toInt) else h.pc + 4))) ∧
  (∀ p ∈ branchForms.zipIdx, ∀ rs1 rs2 (imm : BitVec 11), encode (p.1.1 rs1 rs2 imm) =
    some (32, imm.toNat / 32 * 2 ^ 26 + p.2 * 2 ^ 23 + rs2.toNat * 2 ^ 18 + rs1.toNat * 2 ^ 13 + imm.toNat % 32 * 2 ^ 8 + 6 * 4 + 1)) ∧
  (∀ rs1 off s, exec (.cBeqz rs1 off) s = .next (s.mapMe fun h => scalarAfter h 0 0 noTaint
      (if h.xr (BitVec.ofNat 5 (8 + rs1.toNat)) = 0 then h.pc + BitVec.ofInt 64 (2 * off.toInt) else h.pc + 2))) ∧
  (∀ rs1 off s, exec (.cBnez rs1 off) s = .next (s.mapMe fun h => scalarAfter h 0 0 noTaint
      (if h.xr (BitVec.ofNat 5 (8 + rs1.toNat)) ≠ 0 then h.pc + BitVec.ofInt 64 (2 * off.toInt) else h.pc + 2)))

/-! ## Memory -/

/-- R127, R120: a scalar load (or C.LD) whose address is a multiple of its width, and whose bytes the access reads once its tag is taken, completes: rd
holds the bytes extended as the table gives, with the rest of the hart, memory and every other hart as before. -/
def Obligations.ScalarLoads : Prop :=
  (∀ p ∈ loadForms, ∀ rd rs1 imm s u bs,
    let a := (s.me.xr rs1 + imm.signExtend 64).toNat
    a % p.2.1 = 0 → (tagged (waited s [rs1])).readVa a p.2.1 .read false true = (u, .ok bs) →
    ∃ t, exec (p.1 rd rs1 imm) s = .next t ∧ t.me.xr rd = (if rd = 0 then 0 else BitVec.ofInt 64 (p.2.2 (leValue bs))) ∧
      xSameBut s.me t.me rd ∧ csrsSame s.me t.me ∧ vectorsSame s.me t.me ∧ t.me.pc = s.me.pc + 4 ∧ t.me.instret = s.me.instret + 1 ∧
      t.mem = s.mem ∧ t.crews = s.crews ∧ othersSame s t) ∧
  (∀ (rd rs1 : BitVec 3) (off : BitVec 4) s u bs,
    let d := BitVec.ofNat 5 (8 + rd.toNat)
    let r := BitVec.ofNat 5 (8 + rs1.toNat)
    let a := (s.me.xr r + BitVec.ofNat 64 (8 * off.toNat)).toNat
    a % 8 = 0 → (tagged (waited s [r])).readVa a 8 .read false true = (u, .ok bs) →
    ∃ t, exec (.cLd rd rs1 off) s = .next t ∧ t.me.xr d = BitVec.ofNat 64 (leValue bs) ∧
      xSameBut s.me t.me d ∧ csrsSame s.me t.me ∧ vectorsSame s.me t.me ∧ t.me.pc = s.me.pc + 2 ∧ t.me.instret = s.me.instret + 1 ∧
      t.mem = s.mem ∧ t.crews = s.crews ∧ othersSame s t)

/-- R128, R120: a scalar store (or C.SD) to plain memory, at a multiple of its width, completes: the bytes at the physical address
that its virtual address translates to are the low bytes of x[rs2], every other byte of memory, every register and every other hart
is as before. -/
def Sys2Proof.Claims.StoresComplete : Prop :=
  let done (s t : State) (pa n : Nat) (v : Word) (len : Word) : Prop :=
    t.homeNat pa n = v.toNat % 2 ^ (8 * n) ∧ bytesSameBut s t pa n ∧ t.me.x = s.me.x ∧ csrsSame s.me t.me ∧ vectorsSame s.me t.me ∧
    t.me.pc = s.me.pc + len ∧ t.me.instret = s.me.instret + 1 ∧ t.crews = s.crews ∧ othersSame s t
  (∀ p ∈ storeForms, ∀ rs1 rs2 imm s u pa,
    let a := (s.me.xr rs1 + imm.signExtend 64).toNat
    let w := waited s [rs1, rs2]
    s.memOk → a % p.2 = 0 → w.locate (w.reqFor s.cur) a .write = (u, .ok (.local pa)) → plainPlace u (w.reqFor s.cur).world pa p.2 →
    ∃ t, exec (p.1 rs1 rs2 imm) s = .next t ∧ done s t pa p.2 (s.me.xr rs2) 4) ∧
  (∀ (rs2 rs1 : BitVec 3) (off : BitVec 4) s u pa,
    let v := BitVec.ofNat 5 (8 + rs2.toNat)
    let r := BitVec.ofNat 5 (8 + rs1.toNat)
    let a := (s.me.xr r + BitVec.ofNat 64 (8 * off.toNat)).toNat
    let w := waited s [r, v]
    s.memOk → a % 8 = 0 → w.locate (w.reqFor s.cur) a .write = (u, .ok (.local pa)) → plainPlace u (w.reqFor s.cur).world pa 8 →
    ∃ t, exec (.cSd rs2 rs1 off) s = .next t ∧ done s t pa 8 (s.me.xr v) 2)

/-- R129: a scalar load, store or AMO whose address is no multiple of its width traps with cause 0 and the address in stval, and
changes nothing else. -/
def Sys2Proof.Claims.MisalignedAccess : Prop :=
  (∀ p ∈ loadForms, ∀ rd rs1 imm s, (s.me.xr rs1 + imm.signExtend 64).toNat % p.2.1 ≠ 0 →
    ∃ t, exec (p.1 rd rs1 imm) s = .next t ∧ trapped s t 0 false (s.me.xr rs1 + imm.signExtend 64) false) ∧
  (∀ p ∈ storeForms, ∀ rs1 rs2 imm s, (s.me.xr rs1 + imm.signExtend 64).toNat % p.2 ≠ 0 →
    ∃ t, exec (p.1 rs1 rs2 imm) s = .next t ∧ trapped s t 0 false (s.me.xr rs1 + imm.signExtend 64) false) ∧
  (∀ p ∈ amoForms, ∀ ord scope rs2 rs1 rd s, (s.me.xr rs1).toNat % p.2.1 ≠ 0 →
    ∃ t, exec (p.1 ord scope rs2 rs1 rd) s = .next t ∧ trapped s t 0 false (s.me.xr rs1) false) ∧
  (∀ (rd rs1 : BitVec 3) (off : BitVec 4) s, let a := s.me.xr (BitVec.ofNat 5 (8 + rs1.toNat)) + BitVec.ofNat 64 (8 * off.toNat)
    a.toNat % 8 ≠ 0 → (∃ t, exec (.cLd rd rs1 off) s = .next t ∧ trapped s t 0 false a false) ∧
      ∃ t, exec (.cSd rd rs1 off) s = .next t ∧ trapped s t 0 false a false) ∧
  (∀ p ∈ [(Instr.ldaD, 8), (Instr.ldaW, 4)], ∀ scope rs1 rd s, (s.me.xr rs1).toNat % p.2 ≠ 0 →
    ∃ t, exec (p.1 scope rs1 rd) s = .next t ∧ trapped s t 0 false (s.me.xr rs1) false) ∧
  (∀ p ∈ [(Instr.stlD, 8), (Instr.stlW, 4)], ∀ scope rs2 rs1 s, (s.me.xr rs1).toNat % p.2 ≠ 0 →
    ∃ t, exec (p.1 scope rs2 rs1) s = .next t ∧ trapped s t 0 false (s.me.xr rs1) false)

/-- R205, R206: after a hart's store to plain memory, a load of the same bytes by the same hart reads what it stored, performed or
not. -/
def Sys2Proof.Claims.OwnStoreRead : Prop :=
  ∀ (s : State) (pa : Nat) (bytes : List Byte) (vec vec' : Bool) (scope : Nat), s.memOk →
    (s.writeBytes (.hart s.cur vec) pa bytes scope).viewBytes (hartView s.cur) (.hart s.cur vec') pa bytes.length = bytes

/-- R130: each AMO of an aligned word in plain, sound memory completes (a release of system scope with no write of the path unacknowledged): rd holds the old value sign-extended, memory the value of the
operation (AMOCAS none where the word differs, LDA none), and nothing else changes.
Readings of the model: log 17. -/
def Obligations.Atomics : Prop :=
  (∀ p ∈ amoForms, ∀ ord scope rs2 rs1 rd s u pa,
    let w := amoReady s p.2.2 ord scope rs2 rs1 rd
    s.memOk → (ord.getLsbD 1 = true → noPosted s (scopeNum scope.toNat)) → (s.me.xr rs1).toNat % p.2.1 = 0 → w.locate (w.reqFor s.cur) (s.me.xr rs1).toNat .write = (u, .ok (.local pa)) →
    plainPlace u (w.reqFor s.cur).world pa p.2.1 → soundLines u pa p.2.1 →
    ∃ t, exec (p.1 ord scope rs2 rs1 rd) s = .next t ∧ amoDone s t p.2.1 p.2.2 rs2 rd pa) ∧
  (∀ p ∈ [(Instr.ldaD, 8), (Instr.ldaW, 4)], ∀ scope rs1 rd s u pa,
    let w := amoReady s .lda 1 scope 0 rs1 rd
    s.memOk → (s.me.xr rs1).toNat % p.2 = 0 → w.locate (w.reqFor s.cur) (s.me.xr rs1).toNat .read = (u, .ok (.local pa)) →
    plainPlace u (w.reqFor s.cur).world pa p.2 → soundLines u pa p.2 →
    ∃ t, exec (p.1 scope rs1 rd) s = .next t ∧ amoDone s t p.2 .lda 0 rd pa) ∧
  (∀ p ∈ [(Instr.stlD, 8), (Instr.stlW, 4)], ∀ scope rs2 rs1 s u pa,
    let w := amoReady s .stl 2 scope rs2 rs1 0
    s.memOk → noPosted s (scopeNum scope.toNat) → (s.me.xr rs1).toNat % p.2 = 0 → w.locate (w.reqFor s.cur) (s.me.xr rs1).toNat .write = (u, .ok (.local pa)) →
    plainPlace u (w.reqFor s.cur).world pa p.2 → soundLines u pa p.2 →
    ∃ t, exec (p.1 scope rs2 rs1) s = .next t ∧ amoDone s t p.2 .stl rs2 0 pa)

/-- R134, R135, R136, R208, R437: FENCE, FENCE.T on the execute hart, and FENCE.X from the hart's own path, from the other hart's (which has
no predecessors), or from an engine with no access of the hart left to make, complete; the predecessors of the named kinds are
performed at the scope, and nothing else changes. At system scope a fence of the own writes waits while another device has not
acknowledged a posted write of the path, and FENCE.X waits while its engine has accesses to make.
Readings of the model: log 5 and 76. -/
def Obligations.Fences : Prop :=
  (∀ scope pred succ s, succ ≠ 0 → (pred.getLsbD 1 = true → noPosted s (scopeNum scope.toNat)) → ∃ t, exec (.fence scope pred succ) s = .next t ∧ fenced t none pred (scopeNum scope.toNat) ∧ fenceFrame s t) ∧
  (∀ scope pred s, ∃ t, exec (.fence scope pred 0) s = .next t ∧ fenceFrame s t) ∧
  (∀ scope pred succ s, succ ≠ 0 → pred.getLsbD 1 = true → ¬ noPosted s (scopeNum scope.toNat) →
    ∃ t, exec (.fence scope pred succ) s = .next t ∧ t.me.stalled = some .remote ∧ t.me.pc = s.me.pc ∧ t.me.x = s.me.x ∧ t.mem = s.mem) ∧
  (∀ scope dir pred succ s, s.cur.val % 2 = 1 → (succ ≠ 0 → pred.getLsbD 1 = true → noPosted s (scopeNum scope.toNat)) → ∃ t, exec (.fenceT scope dir pred succ) s = .next t ∧
    (succ ≠ 0 → fenced t (some (dir == 1)) pred (scopeNum scope.toNat)) ∧ fenceFrame s t) ∧
  (∀ scope (src dst : BitVec 3) s, src.toNat = 2 ∨ src.toNat = 4 → s.engineBusy s.cur src.toNat = true →
    exec (.fenceX scope src dst) s = .next (s.mapMe fun h =>
      { h with stalled := some .engineFence, window := false, run := some (h.run.getD ⟨s.ir, h.vstart.toNat, none, none, 0⟩) })) ∧
  (∀ scope (src dst : BitVec 3) s, src.toNat ≤ 4 → s.engineBusy s.cur src.toNat = false →
    (src.toNat = s.cur.val % 2 → noPosted s (scopeNum scope.toNat)) →
    ∃ t, exec (.fenceX scope src dst) s = .next t ∧ fenceFrame s t ∧
      (src.toNat = s.cur.val % 2 → t.me.tags = [] ∧ ∀ w ∈ t.writes, ownWriter t none w.who = true → scopeNum scope.toNat ≤ w.scope) ∧
      (∀ w ∈ t.writes, ∀ p c, w.who = .engine s.cur p c →
        ((p = .C ∧ src.toNat = 2) ∨ (p = .X ∧ src.toNat = 3) ∨ (p = .S ∧ src.toNat = 4)) → scopeNum scope.toNat ≤ w.scope))

/-- R137: TCLR empties a taint set and TJOIN unites two, on either hart for x and on the execute hart for v, k and vl; no value
changes. -/
def Obligations.TaintControl : Prop :=
  (∀ file reg s, (file = 0 ∨ s.cur.val % 2 = 1) → ∃ t, exec (.tclr file reg) s = .next t ∧ t.me.taintOf file reg = .tags [] ∧
    t.me.pc = s.me.pc + 4 ∧ t.me.x = s.me.x ∧ t.mem = s.mem ∧
    csrsSame (s.mxDrain (crewOf s.cur)).me t.me ∧ vectorsSame (s.mxDrain (crewOf s.cur)).me t.me) ∧
  (∀ fs fd rs1 rd s, ((fs = 0 ∧ fd = 0) ∨ s.cur.val % 2 = 1) → (fd = 0 → rd ≠ 0) →
    let u := s.mxDrain (crewOf s.cur)
    ∃ t, exec (.tjoin fs fd rs1 rd) s = .next t ∧
      t.me.taintOf fd rd = unionTaint u.me.issued [] [u.me.taintOf fd rd, u.me.taintOf fs rs1] ∧
      t.me.pc = s.me.pc + 4 ∧ t.me.x = s.me.x ∧ t.mem = s.mem ∧ csrsSame u.me t.me ∧ vectorsSame u.me t.me) ∧
  (∀ fs rs1 s, (fs = 0 ∨ s.cur.val % 2 = 1) → ∃ t, exec (.tjoin fs 0 rs1 0) s = .next t ∧ t.me.xt 0 = .tags [] ∧
    t.me.pc = s.me.pc + 4 ∧ t.me.x = s.me.x ∧ t.mem = s.mem)

/-! ## System -/

/-- R138, R391, R395, R104: ECALL and EBREAK trap at their own address with causes 6 and 7; a reserved encoding traps with cause 4 and
the encoding in stval, and a fetch that fails with its cause and address. -/
def Sys2Proof.Claims.EcallAndFaults : Prop :=
  (∀ s, ∃ t, exec .ecall s = .next t ∧ trapped s t 6 false 0 false) ∧
  (∀ s, ∃ t, exec .ebreak s = .next t ∧ trapped s t 7 false 0 false) ∧
  (∀ s, ∃ t, exec .reservedEncoding s = .next t ∧ trapped s t 4 false s.ir false) ∧
  (∀ cause addr s, ∃ t, exec (.fetchFault cause addr) s = .next t ∧ trapped s t cause false addr false)

/-- R138, R105, R106: in user mode ERET, WFI, TLBINV, every access of a CSR numbered 0x100 or above, and every write of a CSR that user mode may
only read, trap with cause 4 and the encoding in stval, and change nothing else. -/
def Obligations.SupervisorOnly : Prop :=
  (∀ i ∈ [Instr.eret, Instr.wfi], ∀ s, s.me.sup = false → ∃ t, exec i s = .next t ∧ trapped s t 4 false s.ir false) ∧
  (∀ rs1 s, s.me.sup = false → ∃ t, exec (.tlbinv rs1) s = .next t ∧ trapped s t 4 false s.ir false) ∧
  (∀ p ∈ csrForms, ∀ rd r csr s, s.me.sup = false → (csr.toNat ≥ 0x100 ∨ csrMap csr.toNat = none) →
    ∃ t, exec (p.1 rd r csr) s = .next t ∧ trapped s t 4 false s.ir false) ∧
  (∀ p ∈ csrForms, ∀ rd r csr s p', s.me.sup = false → s.cur.val % 2 = 1 → csrMap csr.toNat = some (.ro, p') → (p.2.2.1 = true → r ≠ 0) →
    ∃ t, exec (p.1 rd r csr) s = .next t ∧ trapped s t 4 false s.ir false)

/-- R138, R391, R402: in supervisor mode ERET goes to sepc in the mode of PMODE, with IEN from PIEN and PIEN 1, and opens the window of R79,
but not in user mode while PLEFT is 1; nothing else changes. -/
def Obligations.ReturnFromTrap : Prop :=
  ∀ s, s.me.sup = true → ∃ t, exec .eret s = .next t ∧
    t.me.pc = s.me.sepc ∧ t.me.sup = s.me.sstatus.getLsbD 2 ∧ t.me.sstatus.getLsbD 0 = s.me.sstatus.getLsbD 1 ∧
    t.me.sstatus.getLsbD 1 = true ∧ (∀ k, k ≠ 0 → k ≠ 1 → t.me.sstatus.getLsbD k = s.me.sstatus.getLsbD k) ∧
    t.me.window = (s.me.sstatus.getLsbD 2 || !s.pleft s.cur) ∧ t.me.instret = s.me.instret + 1 ∧
    t.me.x = s.me.x ∧ vectorsSame s.me t.me ∧ t.me.sepc = s.me.sepc ∧ t.me.scause = s.me.scause ∧ t.me.stval = s.me.stval ∧
    t.me.stvec = s.me.stvec ∧ t.me.sscratch = s.me.sscratch ∧ t.me.sxlat = s.me.sxlat ∧ t.me.fcsr = s.me.fcsr ∧
    t.me.vl = s.me.vl ∧ t.me.vtype = s.me.vtype ∧ t.me.vstart = s.me.vstart ∧ t.mem = s.mem ∧ t.crews = s.crews ∧ othersSame s t

/-- R138, R139, R394: WFI in supervisor mode goes on while an interrupt is pending or a request stands, and waits otherwise, with nothing
changed but that it waits; YIELD goes on, or takes cause 14 with sepc at the next instruction where a request may be taken; TLBINV in
supervisor mode, once no other access or command of its context is under way, leaves no translation of its context (or none that maps its
address) in any TLB or walk cache, and until then it waits.
Readings of the model: log 87 and 115. -/
def Obligations.WaitYieldInvalidate : Prop :=
  (∀ s, s.me.sup = true → (s.timerPending s.cur = true ∨ s.bellPending s.cur = true ∨ (s.crewAt (crewOf s.cur)).preempt = true) →
    exec .wfi s = .next (s.mapMe fun h => scalarAfter h 0 0 noTaint (h.pc + 4))) ∧
  (∀ s, s.me.sup = true → s.timerPending s.cur = false → s.bellPending s.cur = false → (s.crewAt (crewOf s.cur)).preempt = false →
    exec .wfi s = .next (s.mapMe fun h => { h with stalled := some .wfi, run := some (h.run.getD ⟨s.ir, h.vstart.toNat, none, none, 0⟩) })) ∧
  (∀ s, ((s.crewAt (crewOf s.cur)).preempt = false ∨ (s.me.sup = true ∧ s.me.sstatus.getLsbD 0 = false)) →
    exec .yield s = .next (s.mapMe fun h => scalarAfter h 0 0 noTaint (h.pc + 4))) ∧
  (∀ s, (s.crewAt (crewOf s.cur)).preempt = true → (s.me.sup = false ∨ s.me.sstatus.getLsbD 0 = true) →
    ∃ t, exec .yield s = .next t ∧ t.me.sepc = s.me.pc + 4 ∧ t.me.scause = 14 ∧ t.me.stval = 0 ∧ t.me.sup = true ∧
      t.me.pc = s.me.stvec &&& ~~~ 3 ∧ t.me.x = s.me.x ∧ t.mem = s.mem) ∧
  (∀ rs1 s, s.me.sup = true →
    let ctx := bits s.me.sxlat.toNat 63 48
    let va := if rs1 = 0 then none else some (s.me.xr rs1).toNat
    s.ctxBusy ctx = true → s.cached ctx va = true →
    ∃ t, exec (.tlbinv rs1) s = .next t ∧ t.me.stalled = some .remote ∧ t.me.pc = s.me.pc ∧ t.me.x = s.me.x ∧ t.mem = s.mem ∧ t.cores = s.cores) ∧
  (∀ rs1 s, s.me.sup = true →
    (s.ctxBusy (bits s.me.sxlat.toNat 63 48) = false ∨
      s.cached (bits s.me.sxlat.toNat 63 48) (if rs1 = 0 then none else some (s.me.xr rs1).toNat) = false) →
    ∃ t, exec (.tlbinv rs1) s = .next t ∧
    (∀ c : Fin 64, ∀ e ∈ t.cores[c].tlb, e.ctx = bits s.me.sxlat.toNat 63 48 →
      rs1 ≠ 0 ∧ ¬ (e.va ≤ (s.me.xr rs1).toNat ∧ (s.me.xr rs1).toNat < e.va + e.size)) ∧
    (∀ d : Fin 8, ∀ e ∈ t.dies[d].tlb, e.ctx = bits s.me.sxlat.toNat 63 48 →
      rs1 ≠ 0 ∧ ¬ (e.va ≤ (s.me.xr rs1).toNat ∧ (s.me.xr rs1).toNat < e.va + e.size)) ∧
    (rs1 = 0 → ∀ d : Fin 8, ∀ e ∈ t.dies[d].walk, e.ctx ≠ bits s.me.sxlat.toNat 63 48) ∧
    t.me.x = s.me.x ∧ csrsSame s.me t.me ∧ vectorsSame s.me t.me ∧ t.me.pc = s.me.pc + 4 ∧ t.me.instret = s.me.instret + 1 ∧
    t.mem = s.mem ∧ t.crews = s.crews ∧ othersSame s t)

/-- R140, R106, R141: each CSR instruction that R105 allows completes: rd holds the old value with an empty taint (that of vl for vl), the CSR
takes the new value by its field rules unless the instruction only reads, and nothing else changes.
Readings of the model: log 67. -/
def Obligations.CsrAccess : Prop :=
  ∀ p ∈ csrForms, ∀ rd r csr s,
    let reads : Bool := p.2.2.1 && r == 0
    let old := BitVec.ofNat 64 (s.csrRead s.cur csr.toNat)
    let u := if reads then s else s.csrWrite s.cur csr.toNat (p.2.1 old (p.2.2.2 s.me r)).toNat
    csrAllowed s csr.toNat reads →
    exec (p.1 rd r csr) s =
      .next (u.mapMe fun h => scalarAfter h rd old (if csr = 2 ∧ s.cur.val % 2 = 1 then s.me.taintVl else noTaint) (h.pc + 4))

/-- R141, R392, R393, R223, R283, R342: what a writable CSR of a hart reads after a value is written to it: the writable bits of its table, the others as they were;
a bit of qcfg only where its chute is idle. -/
def Obligations.CsrFields : Prop :=
  ∀ (s : State) (h : Nat) (v : Nat), h < 512 → v < 2 ^ 64 →
    (∀ p ∈ [(0x101, 2 ^ 64 - 4), (0x102, 2 ^ 64 - 2), (0x103, 2 ^ 64 - 1), (0x104, 2 ^ 64 - 1), (0x106, 2 ^ 64 - 1), (0x008, 0x1F7),
        (0x00A, 2 ^ 64 - 1), (0x10C, 2 ^ 64 - 4096)],
      (s.csrWrite h p.1 v).csrRead h p.1 = v &&& p.2) ∧
    (s.csrWrite h 0x107 v).csrRead h 0x107 = (s.csrRead h 0x107) / 2 ^ 40 * 2 ^ 40 + v % 2 ^ 40 ∧
    (s.csrWrite h 0x10B v).csrRead h 0x10B = min (v % 32) 16 ∧
    (h % 2 = 1 → (s.csrWrite h 0x001 v).csrRead h 0x001 = v % 2 ^ 12 ∧ (s.csrWrite h 0x005 v).csrRead h 0x005 = v % 2 ^ 32 ∧
      (s.csrWrite h 0x006 v).csrRead h 0x006 = v % 2 ^ 8 ∧ (s.csrWrite h 0x007 v).csrRead h 0x007 = v % 4 ∧
      (s.csrWrite h 0x009 v).csrRead h 0x009 = v &&& 0xFFFF_FFFF_FFC0_FFF0) ∧
    (∀ i, i < 64 → ((s.csrWrite h 0x100 v).csrRead h 0x100).testBit i =
      if i ∈ [0, 1, 2, 16, 17] then v.testBit i else (s.csrRead h 0x100).testBit i) ∧
    (s.csrWrite h 0x109 v).csrRead h 0x109 = v / 64 * 64 ∧
    (∀ q : Fin 16, let c := (s.crewAt (h / 2)).chutes[q]
      ((s.csrWrite h 0x10A v).csrRead h 0x10A).testBit q.val =
        if c.entries = [] ∧ c.tokens = [] ∧ c.resv = 0 ∧ c.head = 0 ∧ c.feeder = none then v.testBit q.val else c.copyFed) ∧
    (h % 2 = 0 → ∀ n ∈ [1, 2, 3, 4, 5, 6, 7, 9], (s.csrWrite h n v) = s ∧ s.csrRead h n = 0)

/-! ## Chutes -/

/-- R143 to R146, R100, R222: QPUT on the access hart, QGET, C.QGET and QBR on the execute hart, and QSTAT on either, complete where the chute
has space or an entry (clean, or thrown away by rd = x0): the entry is added at the young end, or removed whole from the old end with
the head offset 0, and nothing else changes. -/
def Sys2Proof.Claims.ChuteCompletes : Prop :=
  (∀ q rs2 s, s.cur.val % 2 = 0 → (myChute s q).copyFed = false → (myChute s q).free ≠ 0 →
    ∃ t, exec (.qput q rs2) s = .next t ∧ (myChute t q).entries = (myChute s q).entries ++ [⟨s.me.xr rs2, false, .put⟩] ∧
      (myChute t q).head = (myChute s q).head ∧ t.me.pc = s.me.pc + 4 ∧ chuteFrame s t 0 q) ∧
  (∀ p ∈ [(Instr.qget, (4 : Word)), (Instr.cQget, 2)], ∀ rd q s e r, s.cur.val % 2 = 1 → (myChute s q).entries = e :: r →
    (e.poison = false ∨ rd = 0) →
    ∃ t, exec (p.1 rd q) s = .next t ∧ t.me.xr rd = (if rd = 0 then 0 else e.bits) ∧ (myChute t q).entries = r ∧
      (myChute t q).head = 0 ∧ ((myChute s q).copyFed = false → t.me.xt rd = .tags []) ∧ t.me.pc = s.me.pc + p.2 ∧ chuteFrame s t rd q) ∧
  (∀ q off s e r, s.cur.val % 2 = 1 → (myChute s q).entries = e :: r → e.poison = false →
    ∃ t, exec (.qbr q off) s = .next t ∧ (myChute t q).entries = r ∧ (myChute t q).head = 0 ∧
      t.me.pc = (if e.bits ≠ 0 then s.me.pc + BitVec.ofInt 64 (2 * off.toInt) else s.me.pc + 4) ∧ chuteFrame s t 0 q) ∧
  (∀ rd q s, exec (.qstat rd q) s = .next (s.mapMe fun h => scalarAfter h rd
    (BitVec.ofNat 64 ((if (myChute s q).copyFed then 2 ^ 32 else 0) + (myChute s q).free * 2 ^ 16 + (myChute s q).entries.length))
    noTaint (h.pc + 4)))

/-- R80, R144, R145, R225: a hart that meets an empty or full chute waits there with nothing changed but that it waits. -/
def Sys2Proof.Claims.ChuteWaits : Prop :=
  let waits (s t : State) (q : BitVec 4) : Prop := t.me.stalled = some (.chute q.toNat) ∧ t.me.pc = s.me.pc ∧ t.me.x = s.me.x ∧
    t.mem = s.mem ∧ t.crews = s.crews ∧ othersSame s t
  (∀ q rs2 s, s.cur.val % 2 = 0 → (myChute s q).copyFed = false → (myChute s q).free = 0 →
    ∃ t, exec (.qput q rs2) s = .next t ∧ waits s t q) ∧
  (∀ p ∈ [Instr.qget, Instr.cQget], ∀ rd q s, s.cur.val % 2 = 1 → (myChute s q).entries = [] →
    ∃ t, exec (p rd q) s = .next t ∧ waits s t q) ∧
  (∀ q off s, s.cur.val % 2 = 1 → (myChute s q).entries = [] → ∃ t, exec (.qbr q off) s = .next t ∧ waits s t q)

/-- R138, R391, R395, R104, R129: ECALL, EBREAK, a reserved encoding, a failing fetch and a misaligned scalar access each enter their trap. -/
def Obligations.TrapEntry : Prop := Sys2Proof.Claims.EcallAndFaults ∧ Sys2Proof.Claims.MisalignedAccess

/-- R143 to R146, R80, R225: the scalar chute transfers complete where the chute allows, and wait with nothing changed where it does not. -/
def Obligations.ChuteTransfers : Prop := Sys2Proof.Claims.ChuteCompletes ∧ Sys2Proof.Claims.ChuteWaits

/-- R128, R120, R205, R206: scalar stores complete, and their own hart reads what they stored.
Readings of the model: log 88. -/
def Obligations.ScalarStores : Prop := Sys2Proof.Claims.StoresComplete ∧ Sys2Proof.Claims.OwnStoreRead

/-! ## Vector arithmetic -/

/-- R159, R160, R152 to R158: each integer form on two sources completes, at every integer SEW, mask, operand kind, vstart and vl, where its
active sources are free of poison: each active element of vd holds the form's value on the elements as words of the SEW. -/
def Obligations.VectorInteger : Prop :=
  ∀ p ∈ vecIntForms, ∀ ok km vs2 src vd s,
    elementwise (p.1 ok km vs2 src vd) s ok km src p.2.1 (fun h => h.sew ≤ 3) (fun h j => [(vs2, h.ew, j)]) (fun _ _ => true) (fun _ _ _ => 0)
      [vd] [] fun h h' act b => regWritten h h' vd h.ew
        (only act fun j => (p.2.2 h.ew (BitVec.ofNat h.ew (h.elem vs2 h.ew j)) (BitVec.ofNat h.ew (b j))).toNat)

/-- R159, R160: VMACC adds a product to the old element; VMERGE takes the second operand where km is set and vs2 elsewhere, reading only what
it takes; VMV copies the second operand, at every SEW; VID writes the index. -/
def Obligations.VectorMoves : Prop :=
  (∀ ok km vs2 src vd s,
    elementwise (.vmacc ok km vs2 src vd) s ok km src true (fun h => h.sew ≤ 3) (fun h j => [(vs2, h.ew, j), (vd, h.ew, j)]) (fun _ _ => true)
      (fun _ _ _ => 0) [vd] [] fun h h' act b => regWritten h h' vd h.ew
        (only act fun j => (h.elem vd h.ew j + h.elem vs2 h.ew j * b j) % 2 ^ h.ew)) ∧
  (∀ ok km vs2 src vd s,
    let takes (h : Hart) (j : Nat) : Bool := km == 0 || (h.kr km.toNat).getLsbD j
    elementwise (.vmerge ok km vs2 src vd) s ok 0 src true (fun _ => True) (fun h j => if takes h j then [] else [(vs2, h.ew, j)]) takes
      (fun _ _ _ => 0) [vd] [] fun h h' act b => regWritten h h' vd h.ew (only act fun j => if takes h j then b j else h.elem vs2 h.ew j)) ∧
  (∀ ok km src vd s,
    elementwise (.vmv ok km src vd) s ok km src true (fun _ => True) (fun _ _ => []) (fun _ _ => true) (fun _ _ _ => 0) [vd] []
      fun h h' act b => regWritten h h' vd h.ew (only act b)) ∧
  (∀ km vd s,
    elementwise (.vid km vd) s 2 km 0 true (fun h => h.sew ≤ 3) (fun _ _ => []) (fun _ _ => false) (fun _ _ _ => 0) [vd] []
      fun h h' act _ => regWritten h h' vd h.ew (only act fun j => j % 2 ^ h.ew))

/-- R161, R37: each comparison completes with bit `i` of kd the relation of element `i`'s sources where active, other bits of kd and the other
mask registers kept; the float forms raise IVO as R37 says. -/
def Obligations.VectorCompare : Prop :=
  (∀ p ∈ vecCmpForms, ∀ ok km vs2 src kd s,
    elementwise (p.1 ok km vs2 src kd) s ok km src p.2.1 (fun h => h.sew ≤ 3) (fun h j => [(vs2, h.ew, j)]) (fun _ _ => true) (fun _ _ _ => 0)
      [] [kd] fun h h' act b => maskWritten h h' kd
        (only act fun j => p.2.2 h.ew (BitVec.ofNat h.ew (h.elem vs2 h.ew j)) (BitVec.ofNat h.ew (b j)))) ∧
  (∀ p ∈ vecFloatCmpForms, ∀ ok km vs2 src kd s,
    let f (h : Hart) (b : Nat → Nat) (j : Nat) : Bool × FFlags :=
      floatCmp p.2.1 p.2.2.1 p.2.2.2 (decodeIeee h.fmt true (h.elem vs2 h.ew j)) (decodeIeee h.fmt true (b j))
    elementwise (p.1 ok km vs2 src kd) s ok km src true (floatSew false) (fun h j => [(vs2, h.ew, j)]) (fun _ _ => true)
      (fun h b j => (f h b j).2) [] [kd] fun h h' act b => maskWritten h h' kd (only act fun j => (f h b j).1))

/-- R162 to R164: each float form completes at every float SEW (with a rounding mode in frm where it rounds): each active element holds the
operation's exact result rounded once, the fused forms after product and sum, and the flags of the active elements are added to fcsr.
Readings of the model: log 66. -/
def Obligations.VectorFloat : Prop :=
  (∀ p ∈ vecFloatForms, ∀ ok km vs2 src vd s,
    elementwise (p.1 ok km vs2 src vd) s ok km src true (floatSew p.2.1) (fun h j => [(vs2, h.ew, j)]) (fun _ _ => true)
      (fun h b j => (p.2.2 h (h.elem vs2 h.ew j) (b j)).2) [vd] [] fun h h' act b => regWritten h h' vd h.ew
        (only act fun j => (p.2.2 h (h.elem vs2 h.ew j) (b j)).1)) ∧
  (∀ p ∈ vecFusedForms, ∀ ok km vs2 src vd s,
    let f (h : Hart) (b : Nat → Nat) (j : Nat) : Nat × FFlags :=
      rounded h (p.2 h.rnd (decodeIeee h.fmt true (h.elem vs2 h.ew j)) (decodeIeee h.fmt true (b j)) (decodeIeee h.fmt true (h.elem vd h.ew j)))
    elementwise (p.1 ok km vs2 src vd) s ok km src true (floatSew true) (fun h j => [(vs2, h.ew, j), (vd, h.ew, j)]) (fun _ _ => true)
      (fun h b j => (f h b j).2) [vd] [] fun h h' act b => regWritten h h' vd h.ew (only act fun j => (f h b j).1)) ∧
  (∀ p ∈ vecFloat1Forms, ∀ ok km src vd s,
    elementwise (p.1 ok km src vd) s ok km src true (floatSew p.2.1) (fun _ _ => []) (fun _ _ => true)
      (fun h b j => (p.2.2 h (b j)).2) [vd] [] fun h h' act b => regWritten h h' vd h.ew (only act fun j => (p.2.2 h (b j)).1))

/-- R165 to R167: VFWCVT, VFNCVT, VQNT and VDEQ complete for every pair of formats: compact codes on the narrow side, one scale byte per block for
VQNT and VDEQ, chosen by VQNT from the active elements of the block. -/
def Obligations.VectorConvert : Prop :=
  (∀ (ok : BitVec 2) km fmt src vd s w val, ok ≠ 3 → src ≠ vd → narrow s.me.sew fmt = some (w, val) →
    elementwise (.vfwcvt ok km fmt src vd) s 2 km 0 true (fun _ => True) (fun _ j => [(src, w, j)]) (fun _ _ => false)
      (fun h _ j => sigFlag (val (h.elem src w j))) [vd] [] fun h h' act _ => regWritten h h' vd h.ew
        (only act fun j => (packVal h.fmt .rne (val (h.elem src w j))).1)) ∧
  (∀ (ok : BitVec 2) km fmt src vd s w val, (ok = 3 ∨ src ≠ vd) → narrow s.me.sew fmt = some (w, val) →
    elementwise (.vfncvt ok km fmt src vd) s ok km src true (fun h => fmt.toNat % 8 = 7 ∨ h.frm ≤ 4) (fun _ _ => []) (fun _ _ => true)
      (fun h b j => (narrowTo h fmt (decodeIeee h.fmt true (b j))).2) [vd] [] fun h h' act b => regWritten h h' vd w
        (only act fun j => (narrowTo h fmt (decodeIeee h.fmt true (b j))).1)) ∧
  (∀ (ok : BitVec 2) km vsc src vd s, ok ≠ 3 → vd ≠ src → vd ≠ vsc →
    let f (h : Hart) (j : Nat) : Nat × FFlags :=
      dequantiseVal (h.elem src (nfOf (vtNf h.vt)).width j) (h.elem vsc 8 (j / h.bl)) (nfOf (vtNf h.vt)) h.fmt
    elementwise (.vdeq ok km vsc src vd) s 2 km 0 true (fun h => floatSew false h ∧ h.bl ≠ 0)
      (fun h j => [(src, (nfOf (vtNf h.vt)).width, j), (vsc, 8, j / h.bl)]) (fun _ _ => false)
      (fun h _ j => (f h j).2) [vd] [] fun h h' act _ => regWritten h h' vd h.ew (only act fun j => (f h j).1)) ∧
  (∀ (ok : BitVec 2) km vsc src vd s, vd ≠ vsc → (ok = 3 ∨ (ok = 0 ∧ vd ≠ src ∧ vsc ≠ src)) → s.me.bl ≠ 0 → (atIssue s).me.vln % s.me.bl = 0 →
    let f (h : Hart) : NFmt := nfOf (vtNf h.vt)
    let scale (h : Hart) (act : Nat → Bool) (b : Nat → Nat) (j : Nat) : Nat :=
      blockScale ((blockOf act h.bl j).map fun i => decodeIeee h.fmt true (b i)) (f h)
    let code (h : Hart) (act : Nat → Bool) (b : Nat → Nat) (i : Nat) : Nat × FFlags :=
      quantiseVal (decodeIeee h.fmt true (b i)) (scale h act b (i / h.bl)) (f h)
    ∀ n, runLen (atIssue s) (chuteFor ok src) = some n →
    elementwise (.vqnt ok km vsc src vd) s ok km src true (floatSew false) (fun _ _ => []) (fun _ _ => true)
      (fun h b i => (code h (active h km n) b i).2) [vd, vsc] [] fun h h' act b =>
        (∀ q, q < 16384 → (h'.vr vd).getLsbD q =
          (if act (q / (f h).width) then (code h act b (q / (f h).width)).1.testBit (q % (f h).width) else (h.vr vd).getLsbD q)) ∧
        (∀ q, q < 16384 → (h'.vr vsc).getLsbD q =
          (if blockOf act h.bl (q / 8) = [] then (h.vr vsc).getLsbD q else (scale h act b (q / 8)).testBit (q % 8))) ∧
        (∀ r, r ≠ vd → r ≠ vsc → h'.vr r = h.vr r ∧ h'.vp r = h.vp r) ∧ h'.k = h.k)

/-- R168: the mask forms complete at every vtype (VFROMK at an integer SEW): bits vstart to vl - 1 of kd take the form's value and the rest of the
file is kept; KPOP and KFIRST leave the count, or the first set bit or -1, in rd. That they count
elements below vstart too, as where vstart is not below vl, is the model's reading: R156 and R168 differ.
Readings of the model: log 109. -/
def Obligations.MaskForms : Prop :=
  (∀ p ∈ [(Instr.kand, fun a b => a && b), (Instr.kor, fun a b => a || b), (Instr.kxor, fun a b => a != b), (Instr.kandn, fun a b => a && !b)],
    ∀ ks2 ks1 kd s,
    elementwise (p.1 ks2 ks1 kd) s 2 0 0 true (fun _ => True) (fun _ _ => []) (fun _ _ => false) (fun _ _ _ => 0) [] [kd]
      fun h h' act _ => maskWritten h h' kd (only act fun j => p.2 ((h.kr ks2.toNat).getLsbD j) ((h.kr ks1.toNat).getLsbD j))) ∧
  (∀ ks1 kd s,
    elementwise (.knot ks1 kd) s 2 0 0 true (fun _ => True) (fun _ _ => []) (fun _ _ => false) (fun _ _ _ => 0) [] [kd]
      fun h h' act _ => maskWritten h h' kd (only act fun j => !(h.kr ks1.toNat).getLsbD j)) ∧
  (∀ km vs1 kd s,
    elementwise (.kfromv km vs1 kd) s 2 km 0 true (fun _ => True) (fun h j => [(vs1, h.ew, j)]) (fun _ _ => false) (fun _ _ _ => 0) [] [kd]
      fun h h' act _ => maskWritten h h' kd (only act fun j => decide (h.elem vs1 h.ew j ≠ 0))) ∧
  (∀ km ks1 vd s,
    elementwise (.vfromk km ks1 vd) s 2 km 0 true (fun h => h.sew ≤ 3) (fun _ _ => []) (fun _ _ => false) (fun _ _ _ => 0) [vd] []
      fun h h' act _ => regWritten h h' vd h.ew (only act fun j => if (h.kr ks1.toNat).getLsbD j then 1 else 0)) ∧
  (∀ ks1 rd s, s.cur.val % 2 = 1 → s.me.vstate ≠ 0 →
    let u := atIssue s
    let on (j : Nat) : Bool := (u.me.kr ks1.toNat).getLsbD j
    (∃ t, exec (.kpop ks1 rd) s = .next t ∧ (rd ≠ 0 → t.me.xr rd = BitVec.ofNat 64 ((List.range u.me.vln).filter on).length) ∧
      xSameBut u.me t.me rd ∧ vectorsSame u.me t.me ∧ t.mem = u.mem ∧ vecAfter u t u.me.vln none [] [] 0) ∧
    (∃ t, exec (.kfirst ks1 rd) s = .next t ∧
      (rd ≠ 0 → ∀ j, j < u.me.vln → on j = true → (∀ k, k < j → on k = false) → t.me.xr rd = BitVec.ofNat 64 j) ∧
      (rd ≠ 0 → (∀ j, j < u.me.vln → on j = false) → t.me.xr rd = BitVec.allOnes 64) ∧
      xSameBut u.me t.me rd ∧ vectorsSame u.me t.me ∧ t.mem = u.mem ∧ vecAfter u t u.me.vln none [] [] 0))

/-- R150, R151, R68: VSETVL and VSETVLI complete for every vtype of eleven bits: the hart gives up its highest lane groups or takes the lowest free
ones of its world, as far as they go, up to the request and the quota, groups lost or gained reading zero; vl is the request (or
VLMAX for x0) up to VLMAX, in whole blocks; rd takes it; vstart is 0. -/
def Obligations.VectorConfiguration : Prop :=
  let done (s t : State) (avl : Option Word) (vt : Nat) (rd : BitVec 5) : Prop :=
    let u := atIssue s
    let h := u.me
    let want := min (vtLg vt + 1) h.lgquota.toNat
    let free := (List.range 16).filter fun g =>
      let l := (u.coreAt (coreOf s.cur)).lanes[Fin.ofNat 16 g]
      l.owner.isNone && l.world == bits h.sxlat.toNat 43 40
    let lanes := if want < h.lanes.length then h.lanes.take want else h.lanes ++ free.take (want - h.lanes.length)
    let vlmax := 1024 * lanes.length / elemWidth vt
    let m := match avl with | none => vlmax | some a => min a.toNat vlmax
    let vl := if blockLen vt = 0 then m else m / blockLen vt * blockLen vt
    t.me.lanes = lanes ∧ t.me.vtype = BitVec.ofNat 11 vt ∧ t.me.vl = BitVec.ofNat 12 vl ∧ t.me.vstart = 0 ∧
    t.me.xr rd = (if rd = 0 then 0 else BitVec.ofNat 64 vl) ∧ xSameBut h t.me rd ∧
    (∀ r : BitVec 5, ∀ b, b < 16384 → (t.me.vr r).getLsbD b =
      (if min h.lanes.length lanes.length ≤ b / 1024 ∧ b / 1024 < max h.lanes.length lanes.length then false else (h.vr r).getLsbD b)) ∧
    t.me.k = h.k ∧ t.me.fcsr = h.fcsr ∧ t.me.pc = h.pc + 4 ∧ t.me.instret = h.instret + 1 ∧ t.mem = u.mem ∧ t.crews = u.crews ∧ othersSame u t
  (∀ rd rs1 rs2 s, s.cur.val % 2 = 1 → s.me.vstate ≠ 0 → (s.me.xr rs2).toNat < 2 ^ 11 → (atIssue s).me.lanes.length ≤ 16 →
    ∃ t, exec (.vsetvl rd rs1 rs2) s = .next t ∧ done s t (if rs1 = 0 then none else some (s.me.xr rs1)) (s.me.xr rs2).toNat rd) ∧
  (∀ rd rs1 vt s, s.cur.val % 2 = 1 → s.me.vstate ≠ 0 → (atIssue s).me.lanes.length ≤ 16 →
    ∃ t, exec (.vsetvli rd rs1 vt) s = .next t ∧ done s t (if rs1 = 0 then none else some (s.me.xr rs1)) vt.toNat rd)

/-- R191 to R196: each permutation completes; its sources are read as they stood before any element is written. -/
def Obligations.Permutations : Prop :=
  let opBad (ok : BitVec 2) (src : BitVec 5) (h : Hart) : Bool := ok == 0 && h.elemBad src h.ew 0
  let mask (km : BitVec 3) (h : Hart) (j : Nat) : Bool := km == 0 || (h.kr km.toNat).getLsbD j
  (∀ ok km vs2 src vd s, vd ≠ vs2 → (ok = 0 → vd ≠ src) →
    (permutes (.vslideup ok km vs2 src vd) s (chuteFor ok src) (vs2 :: if ok = 0 then [src] else []) (mask km) (fun _ => True)
      (fun h o j => opBad ok src h || (decide (slideBy ok src true h o ≤ j) && withinBad h vs2 (j - slideBy ok src true h o)))
      (fun h o j => if slideBy ok src true h o ≤ j then some (within h vs2 (j - slideBy ok src true h o)) else none) vd) ∧
    (permutes (.vslide1up ok km vs2 src vd) s (chuteFor ok src) (vs2 :: if ok = 0 then [src] else []) (mask km) (fun _ => True)
      (fun h _ j => opBad ok src h || (decide (j ≠ 0) && withinBad h vs2 (j - 1)))
      (fun h o j => some (if j = 0 then slideBy ok src false h o % 2 ^ h.ew else within h vs2 (j - 1))) vd)) ∧
  (∀ ok km vs2 src vd s,
    (permutes (.vslidedown ok km vs2 src vd) s (chuteFor ok src) (vs2 :: if ok = 0 then [src] else []) (mask km) (fun _ => True)
      (fun h o j => opBad ok src h || withinBad h vs2 (j + slideBy ok src true h o))
      (fun h o j => some (within h vs2 (j + slideBy ok src true h o))) vd) ∧
    (permutes (.vslide1down ok km vs2 src vd) s (chuteFor ok src) (vs2 :: if ok = 0 then [src] else []) (mask km) (fun _ => True)
      (fun h _ j => opBad ok src h || (decide (j + 1 ≠ h.vln) && withinBad h vs2 (j + 1)))
      (fun h o j => some (if j + 1 = h.vln then slideBy ok src false h o % 2 ^ h.ew else within h vs2 (j + 1))) vd)) ∧
  (∀ (ok : BitVec 2) km vs2 src vd s, vd ≠ vs2 → (ok = 0 → vd ≠ src) →
    let idx (h : Hart) (j : Nat) : Nat := if ok = 0 then h.elem src h.ew j else if ok = 1 then (h.xr src).toNat else src.toNat
    permutes (.vrgather ok km vs2 src vd) s none (vs2 :: if ok = 0 then [src] else []) (mask km) (fun _ => True)
      (fun h _ j => (ok == 0 && h.elemBad src h.ew j) || withinBad h vs2 (idx h j)) (fun h _ j => some (within h vs2 (idx h j))) vd) ∧
  (∀ km vs1 vd s, vd ≠ vs1 →
    let kept (h : Hart) : List Nat := (List.range h.vln).filter (mask km h)
    permutes (.vcompress km vs1 vd) s none [vs1] (fun h j => decide (j < (kept h).length) || mask km h j) (fun h => h.vst = 0)
      (fun h _ j => mask km h j && h.elemBad vs1 h.ew j) (fun h _ j => ((kept h)[j]?).map fun i => h.elem vs1 h.ew i) vd) ∧
  (∀ (km : BitVec 3) vs1 vd s, vd ≠ vs1 →
    permutes (.vexpand km vs1 vd) s none [vs1] (mask km) (fun h => h.vst = 0)
      (fun h _ j => h.elemBad vs1 h.ew (bitsBelow h km j)) (fun h _ j => some (h.elem vs1 h.ew (bitsBelow h km j))) vd) ∧
  (∀ km ks1 vd s,
    permutes (.viota km ks1 vd) s none [] (mask km) (fun h => h.sew ≤ 3 ∧ h.vst = 0) (fun _ _ _ => false)
      (fun h _ j => some (bitsBelow h ks1 j % 2 ^ h.ew)) vd) ∧
  (∀ rs1 vd s,
    permutes (.vmvsx rs1 vd) s none [] (fun _ j => j == 0) (fun _ => True) (fun _ _ _ => false)
      (fun h _ _ => some ((h.xr rs1).toNat % 2 ^ h.ew)) vd) ∧
  (∀ vs2 rd s, vecReady s (fun _ => True) → (atIssue s).me.elemBad vs2 (atIssue s).me.ew 0 = false →
    let u := atIssue s
    ∃ t, exec (.vmvxs vs2 rd) s = .next t ∧
      t.me.xr rd = (if rd = 0 then 0 else BitVec.ofInt 64 (BitVec.ofNat u.me.ew (u.me.elem vs2 u.me.ew 0)).toInt) ∧
      xSameBut u.me t.me rd ∧ vectorsSame u.me t.me ∧ memKept u t (cleanRegs u.me [vs2]) ∧ vecAfter u t u.me.vln none [] [] 0)

/-- R197, R198: each reduction completes from vstart 0 with the fold of its active elements in element 0 of vd. -/
def Sys2Proof.Claims.Reductions : Prop :=
  ∀ p ∈ reduceForms, ∀ ok km vs2 src vd s, reduces (p.1 ok km vs2 src vd) s ok km vs2 src vd p.2.1 p.2.2

/-- R199: VSEGSUM and VSEGMAX complete: element `j` of vd holds the sum, or the greatest, of the active elements of segment `j` (0, or the least
value, where there is none), and the elements beyond the last segment are kept. -/
def Sys2Proof.Claims.Segments : Prop :=
  let seg (i : Instr) (km ks1 : BitVec 3) (vs2 vd : BitVec 5) (s : State) (legal : Hart → Prop) (step : Hart → Nat → Nat → Nat × FFlags)
      (none' : Hart → Nat) : Prop :=
    let u := atIssue s
    let h := u.me
    let on (j : Nat) : Bool := km == 0 || (h.kr km.toNat).getLsbD j
    let first (b : Nat) : Nat × FFlags :=
      if h.sew ≤ 3 then (b, 0)
      else if (decodeIeee h.fmt true b).isNan then (h.fmt.canon, sigFlag (decodeIeee h.fmt true b)) else (b, 0)
    let members (j : Nat) : List Nat := (List.range h.vln).filter fun i => segmentNo h ks1 i == j && on i
    let res (j : Nat) : Nat × FFlags :=
      match members j with
      | [] => (none' h, 0)
      | i :: r => r.foldl (fun (a : Nat × FFlags) i => ((step h a.1 (h.elem vs2 h.ew i)).1, a.2 ||| (step h a.1 (h.elem vs2 h.ew i)).2))
          (first (h.elem vs2 h.ew i))
    let count := segmentNo h ks1 (h.vln - 1) + 1
    vecReady s (fun h => legal h ∧ h.vst = 0) → vd ≠ vs2 → (∀ j, j < h.vln → on j = true → h.elemBad vs2 h.ew j = false) →
      ∃ t, exec i s = .next t ∧ regWritten h t.me vd h.ew (fun j => if j < count then some (res j).1 else none) ∧ memKept u t (cleanRegs h [vs2]) ∧
        t.me.x = h.x ∧ t.me.k = h.k ∧ vecAfter u t h.vln none [vd] [] ((List.range count).foldl (fun a j => a ||| (res j).2) 0)
  ∀ km ks1 vs2 vd s,
    seg (.vsegsum km vs2 ks1 vd) km ks1 vs2 vd s (fun h => h.sew ≤ 3 ∨ floatSew true h)
      (fun h a b => if h.sew ≤ 3 then ((a + b) % 2 ^ h.ew, 0)
        else rounded h (addVal h.rnd (decodeIeee h.fmt true a) (decodeIeee h.fmt true b))) (fun _ => 0) ∧
    seg (.vsegmax km vs2 ks1 vd) km ks1 vs2 vd s (fun h => h.sew ≤ 6)
      (fun h a b => if h.sew ≤ 3 then (if (BitVec.ofNat h.ew a).toInt ≤ (BitVec.ofNat h.ew b).toInt then b else a, 0)
        else minMaxBits h.fmt true a b)
      (fun h => if h.sew ≤ 3 then 2 ^ (h.ew - 1) else h.fmt.infBits true)

/-- R103, R59, R152, R155, R156, R172, R55: where an integer form of R159 or R160 does not run: cause 4 on the access hart or at a float SEW, cause 5
with vstate Off, nothing but vstart 0 and the dirty bits at vstart not below vl; and at the first active element with a poisoned source,
cause 9 with PREG and the element in stval and vstart, the elements below it complete.
Readings of the model: log 55. -/
def Obligations.VectorStops : Prop :=
  ∀ p ∈ vecIntForms, ∀ (ok : BitVec 2) km vs2 src vd s,
    let u := atIssue s
    let h := u.me
    (s.cur.val % 2 = 0 → ∃ t, exec (p.1 ok km vs2 src vd) s = .next t ∧ trapped s t 4 false s.ir false) ∧
    (s.cur.val % 2 = 1 → s.me.vstate = 0 → ∃ t, exec (p.1 ok km vs2 src vd) s = .next t ∧ trapped s t 5 false s.ir false) ∧
    (s.cur.val % 2 = 1 → s.me.vstate ≠ 0 → ¬ s.me.sew ≤ 3 → ∃ t, exec (p.1 ok km vs2 src vd) s = .next t ∧ trapped s t 4 false s.ir false) ∧
    (s.cur.val % 2 = 1 → s.me.vstate ≠ 0 → s.me.sew ≤ 3 → h.vln ≤ h.vst → ∃ t, exec (p.1 ok km vs2 src vd) s = .next t ∧
      vectorsSame h t.me ∧ t.mem = u.mem ∧ t.me.x = h.x ∧ vecAfter u t h.vln none [vd] [] 0) ∧
    (∀ j, vecReady s (fun h => h.sew ≤ 3) → ok ≠ 3 → active h km h.vln j = true →
      (∀ k, k < j → active h km h.vln k = true → h.elemBad vs2 h.ew k = false ∧ secondSound u ok src k) →
      (h.elemBad vs2 h.ew j = true ∨ (ok = 0 ∧ h.elemBad src h.ew j = true)) →
      ∃ t, exec (p.1 ok km vs2 src vd) s = .next t ∧
        regWritten h t.me vd h.ew (only (active h km j) fun k => (p.2.2 h.ew (BitVec.ofNat h.ew (h.elem vs2 h.ew k))
          (BitVec.ofNat h.ew (second u ok src p.2.1 k))).toNat) ∧
        t.me.scause = 9 ∧ t.me.stval = BitVec.ofNat 64 j ∧ t.me.vstart = BitVec.ofNat 12 j ∧ t.me.sepc = h.pc ∧
        t.me.sstatus.getLsbD 12 = true ∧ t.me.pc = h.stvec &&& ~~~ 3 ∧ t.me.sup = true ∧ t.me.x = h.x ∧ t.me.k = h.k ∧ t.me.vl = h.vl ∧
        t.me.vtype = h.vtype ∧ t.me.instret = h.instret ∧ t.mem = u.mem ∧ othersSame u t)

/-- R197 to R199: reductions and segment reductions complete. -/
def Obligations.ReductionsAndSegments : Prop := Sys2Proof.Claims.Reductions ∧ Sys2Proof.Claims.Segments

/-! ## Vector memory -/

/-- R179, R180, R181, R175, R174: VLE, VLEFF, VLSE, VLXE and VLXB complete at every SEW, mask and operand kind they have, where their accesses can be
made; the bounded form needs each index below its bound. -/
def Sys2Proof.Claims.LoadsComplete : Prop :=
  (∀ p ∈ [Instr.vle, Instr.vleff], ∀ ok km rs1 vd s,
    loads (p ok km rs1 vd) s km vd [] [rs1] none (ok == 1) (fun _ => True) (fun w j => unitAt w.me rs1 j) fun _ _ => True) ∧
  (∀ ok km rs2 rs1 vd s,
    loads (.vlse ok km rs2 rs1 vd) s km vd [] [rs1, rs2] none (ok == 1) (fun h => h.ew ≠ 6) (fun w j => strideAt w.me rs1 rs2 j) fun _ _ => True) ∧
  (∀ (ok : BitVec 2) km vs2 rs1 vd s, (ok = 2 ∨ vd ≠ vs2) →
    let c := decide (ok = 2)
    let q := if ok = 2 then some vs2 else none
    let sv := if ok = 2 then [] else [vs2]
    let sound (w : State) (j : Nat) : Prop :=
      if ok = 2 then chuteSound (srcChute w vs2) w.me.ew (j - w.me.vst) else w.me.elemBad vs2 w.me.ew j = false
    loads (.vlxe ok km vs2 rs1 vd) s km vd sv [rs1] q (ok == 1) (fun h => 1 ≤ h.sew ∧ h.sew ≤ 6) (fun w j => indexedAt w c rs1 vs2 j) sound ∧
    (rs1.toNat % 2 = 0 → 2 ≤ rs1.toNat → rs1.toNat ≤ 30 →
      loads (.vlxb ok km vs2 rs1 vd) s km vd sv [rs1, rs1 + 1] q (ok == 1) (fun h => 1 ≤ h.sew ∧ h.sew ≤ 6) (fun w j => indexedAt w c rs1 vs2 j)
        fun w j => sound w j ∧ indexAt w c vs2 j < (w.me.xr (rs1 + 1)).toNat))

/-- R181, R180, R176: VLEFF at an element above the one it was issued at, whose translation fails, trims vl to it (to whole blocks) and completes with no trap; VLXB at
an index not below its bound traps with cause 10 and the index in stval, before any access of that element, the elements below it loaded. -/
def Sys2Proof.Claims.LoadLimits : Prop :=
  (∀ ok km rs1 vd s (pa : Nat → Nat) i c v,
    let w := loadIssue s km [] [rs1]
    let h := w.me
    let cut := if h.bl = 0 then i else i / h.bl * h.bl
    vecReady s (fun _ => True) → h.ew ≠ 6 → active h km h.vln i = true → h.first < cut →
    (∀ j, active h km i j = true → unitAt h rs1 j % (h.ew / 8) = 0 ∧ readable w (unitAt h rs1 j) (pa j) (h.ew / 8)) →
    unitAt h rs1 i % (h.ew / 8) = 0 → w.locate (w.reqFor w.cur) (unitAt h rs1 i) .read = (v, .error c) → v = w →
    ∃ t, exec (.vleff ok km rs1 vd) s = .next t ∧ t.me.vl = BitVec.ofNat 12 cut ∧ t.me.vstart = 0 ∧ t.me.pc = h.pc + 4 ∧
      regWritten h t.me vd h.ew (only (active h km i) fun j => viewed w (ok == 1 && decide (h.vst < j)) (pa j) (h.ew / 8)) ∧ t.me.scause = h.scause ∧
      t.mem = w.mem ∧ t.me.x = h.x ∧ t.me.k = h.k) ∧
  (∀ (ok : BitVec 2) km vs2 rs1 vd s (pa : Nat → Nat) i, ok ≠ 2 → vd ≠ vs2 → rs1.toNat % 2 = 0 → 2 ≤ rs1.toNat → rs1.toNat ≤ 30 →
    let w := loadIssue s km [vs2] [rs1, rs1 + 1]
    let h := w.me
    vecReady s (fun h => 1 ≤ h.sew ∧ h.sew ≤ 6) → active h km h.vln i = true →
    (∀ j, active h km i j = true → h.elemBad vs2 h.ew j = false ∧ indexAt w false vs2 j < (h.xr (rs1 + 1)).toNat ∧
      indexedAt w false rs1 vs2 j % (h.ew / 8) = 0 ∧ readable w (indexedAt w false rs1 vs2 j) (pa j) (h.ew / 8)) →
    h.elemBad vs2 h.ew i = false → (h.xr (rs1 + 1)).toNat ≤ indexAt w false vs2 i →
    ∃ t, exec (.vlxb ok km vs2 rs1 vd) s = .next t ∧ t.me.scause = 10 ∧ t.me.stval = BitVec.ofNat 64 (indexAt w false vs2 i) ∧
      t.me.vstart = BitVec.ofNat 12 i ∧ t.me.sepc = h.pc ∧ t.me.sup = true ∧ t.me.pc = h.stvec &&& ~~~ 3 ∧
      regWritten h t.me vd h.ew (only (active h km i) fun j => viewed w (ok == 1 && decide (h.vst < j)) (pa j) (h.ew / 8)) ∧ t.mem = w.mem ∧
      t.me.x = h.x ∧ t.me.k = h.k)

/-- R184, R178, R48: VSE, VSSE and VSXE complete in every order and with every operand kind; of two elements on the same bytes the later is final
where the form is ordered; a TAP6 VSE replaces the six bits of each active element in the stream and no other bit of memory.
Readings of the model: log 2. -/
def Obligations.VectorStores : Prop :=
  (∀ (ok : BitVec 2) km rs1 vd s,
    let q := if ok = 2 then some vd else none
    let sound (w : State) (j : Nat) : Prop := if ok = 2 then chuteSound (srcChute w vd) w.me.ew (j - w.me.vst) else w.me.elemBad vd w.me.ew j = false
    let val (w : State) (j : Nat) : Nat := indexAt w (decide (ok = 2)) vd j
    let sv := if ok = 2 then [] else [vd]
    stores (.vse ok km rs1 vd) s km sv [rs1] q (ok == 1) (fun _ => True) (fun w j => unitAt w.me rs1 j) sound val ∧
    (∀ rs2, stores (.vsse ok km rs2 rs1 vd) s km sv [rs1, rs2] q (ok == 1) (fun h => h.ew ≠ 6) (fun w j => strideAt w.me rs1 rs2 j) sound val) ∧
    (∀ n base, let w := memIssue s km sv [rs1]
      let h := w.me
      let a := (h.xr rs1).toNat
      s.memOk → vecReady s (fun _ => True) → h.ew = 6 → runLen w q = some n → (q ≠ none → h.tags.length < 64) →
      (∀ j, active h km n j = true → sound w j ∧ ∀ b, (b = 6 * j / 8 ∨ b = (6 * j + 5) / 8) → writable w ((a + b) % 2 ^ 64) (base + b) 1) →
      ∃ t, exec (.vse ok km rs1 vd) s = .next t ∧
        (∀ c k, k < 8 → spared (cleanRegs h sv) (base + c) → (t.homeByte (base + c)).getLsbD k =
          (if active h km n ((8 * c + k) / 6) then (val w ((8 * c + k) / 6)).testBit ((8 * c + k) % 6) else (w.homeByte (base + c)).getLsbD k)) ∧
        (∀ c, c < base → spared (cleanRegs h sv) c → t.homeByte c = w.homeByte c) ∧
        t.me.x = h.x ∧ vectorsSame h t.me ∧ vecAfter w t n (q.map fun q => (q, n - h.vst)) [] [] 0)) ∧
  (∀ (ok : BitVec 2) km vs2 rs1 vd s,
    stores (.vsxe ok km vs2 rs1 vd) s km (if ok = 2 then [vd] else [vd, vs2]) [rs1] (if ok = 2 then some vs2 else none) (ok == 1)
      (fun h => 1 ≤ h.sew ∧ h.sew ≤ 6) (fun w j => indexedAt w (decide (ok = 2)) rs1 vs2 j)
      (fun w j => w.me.elemBad vd w.me.ew j = false ∧
        (if ok = 2 then chuteSound (srcChute w vs2) w.me.ew (j - w.me.vst) else w.me.elemBad vs2 w.me.ew j = false))
      fun w j => w.me.elem vd w.me.ew j)

/-- R185, R178: VSCADD completes: each word addressed holds its old value with every active element of that address added, in ascending order; other
bytes and every register are kept.
Readings of the model: log 2. -/
def Obligations.ScatterAdd : Prop :=
  ∀ (ok : BitVec 2) km vs2 rs1 vd s n (pa : Nat → Nat),
    let w := memIssue s km (if ok = 2 then [vd] else [vd, vs2]) [rs1]
    let h := w.me
    let b := h.ew / 8
    let q := if ok = 2 then some vs2 else none
    let clean := cleanRegs h (if ok = 2 then [vd] else [vd, vs2])
    s.memOk → vecReady s (fun h => 2 ≤ h.sew ∧ h.sew ≤ 6) → runLen w q = some n → (q ≠ none → h.tags.length < 64) →
    (∀ j, active h km n j = true → h.elemBad vd h.ew j = false ∧
      (if ok = 2 then chuteSound (srcChute w vs2) h.ew (j - h.vst) else h.elemBad vs2 h.ew j = false) ∧
      indexedAt w (decide (ok = 2)) rs1 vs2 j % b = 0 ∧ writable w (indexedAt w (decide (ok = 2)) rs1 vs2 j) (pa j) b ∧
      pa j % b = 0 ∧ soundLines w (pa j) b) →
    ∃ t, exec (.vscadd ok km vs2 rs1 vd) s = .next t ∧
      (∀ a, spared clean a → (∀ j, active h km n j = true → a < pa j ∨ pa j + b ≤ a) → t.homeByte a = w.homeByte a) ∧
      (∀ j, active h km n j = true → (∀ a, pa j ≤ a → a < pa j + b → spared clean a) → t.homeNat (pa j) b =
        ((List.range n).filter fun k => active h km n k && pa k == pa j).foldl (fun v k => addAt h.sew h.ew v (h.elem vd h.ew k)) (w.homeNat (pa j) b)) ∧
      t.me.x = h.x ∧ vectorsSame h t.me ∧ vecAfter w t n (q.map fun q => (q, n - h.vst)) [] [] 0

/-- R182, R183, R186: VLCB reads elements of a compressed array, 0 where the bitmap has no bit; VSCB of one chunk writes its bitmap, its
non-zero values in ascending order and the offset of the chunk after it, and nothing else. -/
def Sys2Proof.Claims.CompressedChunks : Prop :=
  (∀ km rs2 rs1 vd s (pe pb pv : Nat → Nat),
    let w := loadIssue s km [] [rs1, rs2]
    let h := w.me
    let b := h.ew / 8
    let t0 := (h.xr rs1).toNat
    let e (j : Nat) : Nat := (h.xr rs2).toNat + j
    let ea (j : Nat) : Nat := (t0 + 4 * (e j / 128)) % 2 ^ 64
    let base (j : Nat) : Nat := (t0 + viewed w false (pe j) 4) % 2 ^ 64
    let bm (j : Nat) : Nat := viewed w false (pb j) 16
    let va (j : Nat) : Nat := (base j + 16 + b * ((List.range (e j % 128)).filter fun k => (bm j).testBit k).length) % 2 ^ 64
    vecReady s (fun h => h.ew ≠ 6) → t0 % 4 = 0 →
    (∀ j, active h km h.vln j = true → readable w (ea j) (pe j) 4 ∧ viewed w false (pe j) 4 % 16 = 0 ∧ readable w (base j) (pb j) 16 ∧
      ((bm j).testBit (e j % 128) = true → va j % b = 0 ∧ readable w (va j) (pv j) b)) →
    ∃ t, exec (.vlcb km rs2 rs1 vd) s = .next t ∧
      regWritten h t.me vd h.ew (only (active h km h.vln) fun j => if (bm j).testBit (e j % 128) then viewed w false (pv j) b else 0) ∧
      t.mem = w.mem ∧ t.me.x = h.x ∧ t.me.k = h.k ∧ vecAfter w t h.vln none [vd] [] 0) ∧
  (∀ rs2 rs1 vd s pe pb pn,
    let w := memIssue s 0 [vd] [rs1, rs2]
    let h := w.me
    let b := h.ew / 8
    let t0 := (h.xr rs1).toNat
    let e0 := (h.xr rs2).toNat
    let c := (e0 + h.vst) / 128
    let vals := (List.range (h.vln - h.vst)).map fun j => h.elem vd h.ew (h.vst + j)
    let nz := nonZero vals
    let off := viewed w false pe 4
    let clean := cleanRegs h [vd]
    s.memOk → vecReady s (fun h => h.ew ≠ 6 ∧ h.vst % 128 = 0) → h.vln ≤ h.vst + 128 → t0 % 4 = 0 → e0 % 128 = 0 →
    (∀ j, h.vst ≤ j → j < h.vln → h.elemBad vd h.ew j = false) →
    readable w ((t0 + 4 * c) % 2 ^ 64) pe 4 → off % 16 = 0 → ((t0 + off) % 2 ^ 64 + 16) % b = 0 →
    writable w ((t0 + off) % 2 ^ 64) pb (16 + b * nz.length) → writable w ((t0 + 4 * (c + 1)) % 2 ^ 64) pn 4 → apart pb (16 + b * nz.length) pn 4 →
    ∃ t, exec (.vscb rs2 rs1 vd) s = .next t ∧
      ((∀ a, pb ≤ a → a < pb + 16 + b * nz.length → spared clean a) → (∀ a, pn ≤ a → a < pn + 4 → spared clean a) →
      (∀ j, j < 128 → (t.homeNat pb 16).testBit j = decide (vals.getD j 0 ≠ 0)) ∧
      (∀ k, k < nz.length → t.homeNat (pb + 16 + b * k) b = nz.getD k 0) ∧
      t.homeNat pn 4 = (off + 16 + b * nz.length + 15) / 16 * 16 % 2 ^ 32) ∧
      (∀ a, spared clean a → (a < pb ∨ pb + 16 + b * nz.length ≤ a) → (a < pn ∨ pn + 4 ≤ a) → t.homeByte a = w.homeByte a) ∧
      t.me.x = h.x ∧ vectorsSame h t.me ∧ vecAfter w t h.vln none [] [] 0)

/-- R187: VCAPP appends its active elements in ascending order as far as the capacity goes, raises COUNT (a COUNT above CAP becomes CAP), and answers the new count with bit 62
where not all fitted and bit 63 where a multiple of VLMAX was passed; nothing else changes. -/
def Sys2Proof.Claims.CompressAppend : Prop :=
  ∀ km rd rs1 vd s dp (pa : Nat → Nat),
    let w := memIssue s km [vd] [rs1]
    let h := w.me
    let b := h.ew / 8
    let act := (List.range h.vln).filter (active h km h.vln)
    let base := w.homeNat dp 8
    let old := w.homeNat (dp + 8) 4
    let cap := w.homeNat (dp + 12) 4
    let k := min act.length (cap - old)
    let new := if cap < old then cap else old + k
    let clean := cleanRegs h [vd]
    let free (pa n : Nat) : Prop := ∀ a, pa ≤ a → a < pa + n → spared clean a
    s.memOk → vecReady s (fun h => h.ew ≠ 6) → act ≠ [] → (∀ j ∈ act, h.elemBad vd h.ew j = false) →
    (h.xr rs1).toNat % 16 = 0 → writable w (h.xr rs1).toNat dp 16 → soundLines w dp 16 → base % b = 0 →
    (∀ j, j < k → writable w ((base + b * (old + j)) % 2 ^ 64) (pa j) b ∧ apart (pa j) b dp 16) →
    (∀ j l, j < l → l < k → apart (pa j) b (pa l) b) →
    ∃ t, exec (.vcapp km rd rs1 vd) s = .next t ∧ (free (dp + 8) 4 → t.homeNat (dp + 8) 4 = new) ∧
      (∀ j, j < k → free (pa j) b → t.homeNat (pa j) b = h.elem vd h.ew (act.getD j 0)) ∧
      (∀ a, spared clean a → (a < dp + 8 ∨ dp + 12 ≤ a) → (∀ j, j < k → a < pa j ∨ pa j + b ≤ a) → t.homeByte a = w.homeByte a) ∧
      t.me.xr rd = (if rd = 0 then 0 else
        BitVec.ofNat 64 ((if old / h.vlmax < new / h.vlmax then 2 ^ 63 else 0) + (if k < act.length then 2 ^ 62 else 0) + new)) ∧
      xSameBut h t.me rd ∧ vectorsSame h t.me ∧ vecAfter w t h.vln none [] [] 0

/-- R188, R189: VHACC of one pair completes in a sound table of the core's scratchpad: the first bucket from the key's home that holds the key takes the
sum, or the first empty one the pair, with the count raised; a key of all ones is passed over.
Readings of the model: log 64. -/
def Obligations.HashAccumulate : Prop :=
  ∀ (ok : BitVec 2) km vs2 rs1 vd s dp n j p,
    let w := memIssue s km (if ok = 2 then [vd] else [vd, vs2]) [rs1]
    let h := w.me
    let b := h.ew / 8
    let desc := viewed w false dp 16
    let lo := desc % 2 ^ 64
    let toff := bits lo 31 0
    let logb := bits lo 36 32
    let q := if ok = 2 then some vs2 else none
    let clean := cleanRegs h (if ok = 2 then [vd] else [vd, vs2])
    let free (pa n : Nat) : Prop := ∀ a, pa ≤ a → a < pa + n → spared clean a
    let key := indexAt w (decide (ok = 2)) vs2 j
    let bucket (p : Nat) : Nat := scratchPa (coreOf s.cur) toff + (hashHome key logb + p) % 2 ^ logb * (2 * b)
    (ok = 0 ∨ ok = 2) → s.memOk → vecReady s (fun h => h.sew = 2 ∨ h.sew = 3 ∨ h.sew = 6) → runLen w q = some n → (q ≠ none → h.tags.length < 64) →
    (List.range n).filter (active h km n) = [j] → (key ≠ 2 ^ h.ew - 1 → h.elemBad vd h.ew j = false) →
    (if ok = 2 then chuteSound (srcChute w vs2) h.ew (j - h.vst) else h.elemBad vs2 h.ew j = false) →
    (h.xr rs1).toNat % 16 = 0 → writable w (h.xr rs1).toNat dp 16 → readable w (h.xr rs1).toNat dp 16 →
    toff % 64 = 0 → toff + 2 ^ logb * (2 * b) ≤ 0x200_0000 → 4 ≤ logb → logb ≤ 20 → bits lo 39 37 = 0 → 1 ≤ bits lo 46 40 → bits lo 46 40 ≤ 64 →
    bits lo 63 47 = 0 → desc / 2 ^ 96 = 0 →
    apart dp 16 (scratchPa (coreOf s.cur) toff) (2 ^ logb * (2 * b)) →
    (∀ a, scratchPa (coreOf s.cur) toff ≤ a → a < scratchPa (coreOf s.cur) toff + 2 ^ logb * (2 * b) → w.tagOf a = myWorld w) →
    (∀ p, soundLines w (bucket p) (2 * b) ∧ steady w (bucket p) (2 * b)) → p < bits lo 46 40 →
    (∀ r, r < p → w.homeNat (bucket r) b ≠ key ∧ w.homeNat (bucket r) b ≠ 2 ^ h.ew - 1) →
    (key ≠ 2 ^ h.ew - 1 → w.homeNat (bucket p) b = key ∨ w.homeNat (bucket p) b = 2 ^ h.ew - 1) →
    ∃ t, exec (.vhacc ok km vs2 rs1 vd) s = .next t ∧
      (key = 2 ^ h.ew - 1 → memKept w t clean) ∧
      (key ≠ 2 ^ h.ew - 1 → w.homeNat (bucket p) b = key →
        (free (bucket p + b) b → t.homeNat (bucket p + b) b = addAt h.sew h.ew (w.homeNat (bucket p + b) b) (h.elem vd h.ew j)) ∧
        ∀ a, spared clean a → (a < bucket p + b ∨ bucket p + 2 * b ≤ a) → t.homeByte a = w.homeByte a) ∧
      (key ≠ 2 ^ h.ew - 1 → w.homeNat (bucket p) b ≠ key →
        (free (bucket p) (2 * b) → t.homeNat (bucket p) b = key ∧ t.homeNat (bucket p + b) b = h.elem vd h.ew j) ∧
        (free (dp + 8) 4 → t.homeNat (dp + 8) 4 = (w.homeNat (dp + 8) 4 + 1) % 2 ^ 32) ∧
        (∀ a, spared clean a → (a < bucket p ∨ bucket p + 2 * b ≤ a) → (a < dp + 8 ∨ dp + 12 ≤ a) → t.homeByte a = w.homeByte a)) ∧
      t.me.x = h.x ∧ vectorsSame h t.me ∧ vecAfter w t n (q.map fun q => (q, n - h.vst)) [] [] 0

/-- R200, R201, R147: QPUTV adds its active elements, packed and zero-filled, to the young end of a chute with room, and QGETV loads its active elements
from a chute's old end; QPUTV to a copy-fed chute traps with cause 11 and its number. That it traps
with vl = 0 or vstart not below vl as well is the model's choice.
Readings of the model: log 108. -/
def Obligations.VectorChutes : Prop :=
  (∀ km vs1 q s,
    let w := memIssue s km [vs1] []
    let h := w.me
    let p := 64 / h.ew
    let act := (List.range h.vln).filter (active h km h.vln)
    vecReady s (fun _ => True) → (myChute s q).copyFed = false → (∀ j ∈ act, h.elemBad vs1 h.ew j = false) →
    (act.length + p - 1) / p ≤ (myChute s q).free →
    ∃ t es, exec (.qputv km vs1 q) s = .next t ∧ (myChute t q).entries = (myChute s q).entries ++ es ∧ es.length = (act.length + p - 1) / p ∧
      (∀ e ∈ es, e.poison = false ∧ e.bits.toNat < 2 ^ (h.ew * p)) ∧
      (∀ i k, i < es.length → k < p →
        ((es.map ChEntry.bits).getD i 0).toNat / 2 ^ (h.ew * k) % 2 ^ h.ew = ((act[p * i + k]?).map (h.elem vs1 h.ew)).getD 0) ∧
      (myChute t q).head = (myChute s q).head ∧ t.me.x = h.x ∧ vectorsSame h t.me ∧ memKept w t (cleanRegs h [vs1]) ∧ t.me.vl = h.vl ∧ t.me.vstart = 0 ∧
      t.me.pc = h.pc + 4 ∧ t.me.instret = h.instret + 1 ∧ t.me.fcsr = h.fcsr ∧ t.me.vdirty = h.vdirty ∧ chutesSameBut w t q ∧ othersSame w t) ∧
  (∀ km q vd s,
    elementwise (.qgetv km q vd) s 3 km (q.setWidth 5) true (fun _ => True) (fun _ _ => []) (fun _ _ => true) (fun _ _ _ => 0) [vd] []
      fun h h' act b => regWritten h h' vd h.ew (only act b)) ∧
  (∀ km vs1 q s, s.cur.val % 2 = 1 → s.me.vstate ≠ 0 → (myChute s q).copyFed = true →
    let h := (atIssue s).me
    ∃ t, exec (.qputv km vs1 q) s = .next t ∧ t.me.scause = 11 ∧ t.me.stval = BitVec.ofNat 64 q.toNat ∧ t.me.sepc = h.pc ∧
      t.me.sup = true ∧ t.me.pc = h.stvec &&& ~~~ 3 ∧ t.me.x = h.x ∧ vectorsSame h t.me ∧ myChute t q = myChute s q)

/-- R174 to R176, R179 to R181: the vector loads complete; VLEFF trims at a failing element and VLXB traps at its bound. -/
def Obligations.VectorLoads : Prop := Sys2Proof.Claims.LoadsComplete ∧ Sys2Proof.Claims.LoadLimits

/-- R182, R183, R186, R187: VLCB, VSCB and VCAPP read and write compressed arrays. A chunk whose bitmap lies at no multiple of 16 is read and
written where it lies: that is the model's choice.
Readings of the model: log 64 and 110. -/
def Obligations.CompressedArrays : Prop := Sys2Proof.Claims.CompressedChunks ∧ Sys2Proof.Claims.CompressAppend

/-! ## Barriers -/

/-- R242, R247, R248: BINIT on a record with no configuration makes one of its count and scope for the hart's context and crew; on its own
context's configured record a count of 0 tears it down, and another count configures it anew while nothing has arrived; the codes
4, 5 and 7 change nothing.
Readings of the model: log 71. -/
def Obligations.BarrierConfigure : Prop :=
  ∀ rd rs1 rs2 s pa,
    let w := waited s [rs1, rs2]
    let v := w.homeNat pa 64
    let cfg := (s.me.xr rs2).toNat
    let count := cfg % 2 ^ 16
    let scope := bits cfg 18 16
    s.memOk → object w (s.me.xr rs1).toNat .write pa → ∃ t, exec (.binit rd rs1 rs2) s = .next t ∧
    let v' := t.homeNat pa 64
    bytesSameBut w t pa 64 ∧
    (cfg < 2 ^ 19 → scope ≤ 4 → (brState v = 0 ∨ brState v = 2) → count ≠ 0 →
      answeredButCopies w t rd 0 ∧ brState v' = 1 ∧ brScope v' = scope ∧ brOcrew v' = s.cur.val / 2 ∧ brCtx v' = myCtx w ∧ brExpect v' = count ∧
      brPhase v' = 0 ∧ brLast v' = 0 ∧ brFail v' = false ∧ brArrived v' = 0 ∧ brEarly v' = 0 ∧ brPend v' = 0 ∧ brXbytes v' = 0 ∧
      brCounted v' = 0 ∧ brEarlyx v' = 0 ∧ t.writeRefused (myWorld w) pa 64 = true) ∧
    (cfg < 2 ^ 19 → scope ≤ 4 → (brState v = 0 ∨ brState v = 2) → count = 0 → answered w t rd (brPhase v * 2 ^ 32) ∧ v' = v) ∧
    (cfg < 2 ^ 19 → scope ≤ 4 → brState v = 1 → brCtx v = myCtx w → count = 0 →
      answered w t rd (brPhase v * 2 ^ 32) ∧ brState v' = 2 ∧ v' / 4 = v / 4 ∧ ∀ h ∈ t.held, ¬ (h.kind = .barrier ∧ h.pa = pa)) ∧
    (cfg < 2 ^ 19 → scope ≤ 4 → brState v = 1 → brCtx v = myCtx w → count ≠ 0 → brArrived v = 0 → brEarly v = 0 → brPend v = 0 →
      answered w t rd (brPhase v * 2 ^ 32) ∧ brExpect v' = count ∧ brScope v' = scope ∧ brOcrew v' = s.cur.val / 2 ∧ brPhase v' = brPhase v ∧
      brState v' = 1 ∧ brCtx v' = brCtx v) ∧
    (cfg < 2 ^ 19 → scope ≤ 4 → brState v = 1 → brCtx v = myCtx w → count ≠ 0 → (brArrived v ≠ 0 ∨ brEarly v ≠ 0 ∨ brPend v ≠ 0) →
      answered w t rd (brPhase v * 2 ^ 32 + 5) ∧ v' = v) ∧
    (cfg < 2 ^ 19 → scope ≤ 4 → (brState v = 3 ∨ (brState v = 1 ∧ brCtx v ≠ myCtx w)) → answered w t rd (brPhase v * 2 ^ 32 + 4) ∧ v' = v) ∧
    ((2 ^ 19 ≤ cfg ∨ 4 < scope) → answered w t rd (brPhase v * 2 ^ 32 + 7) ∧ v' = v)

/-- R243, R244, R248: BARR, BARRX and BARRM arrive with one unit, with one and declared bytes, and with many: the record moves as R243 and R244 say, rd
holds the phase joined and code 0, and the hart's earlier accesses are performed at the record's scope; too many units return 7 or 11,
and a torn down, foreign or out-of-scope record 8, 4 or 6, with nothing changed. At a record of system scope an arrival waits while another
device has not acknowledged a write of the path (R437). -/
def Sys2Proof.Claims.BarrierArrive : Prop :=
  ∀ (i : Instr) (rd rs1 : BitVec 5) (srcs : List (BitVec 5)) (m x : Nat) (s : State) (pa : Nat),
    ((i = .barr rd rs1 ∧ srcs = [rs1] ∧ m = 1 ∧ x = 0) ∨
     (∃ rs2, i = .barrx rd rs1 rs2 ∧ srcs = [rs1, rs2] ∧ m = 1 ∧ x = (s.me.xr rs2).toNat ∧ x < 2 ^ 40) ∨
     (∃ rs2, i = .barrm rd rs1 rs2 ∧ srcs = [rs1, rs2] ∧ m = (s.me.xr rs2).toNat ∧ 1 ≤ m ∧ m ≤ 65535 ∧ x = 0)) →
    let w := waited s srcs
    let v := w.homeNat pa 64
    s.memOk → object w (s.me.xr rs1).toNat .write pa →
    (¬ noPosted s (scopeNum (brScope v)) →
      ∃ t, exec i s = .next t ∧ t.me.stalled = some .remote ∧ t.me.pc = s.me.pc ∧ t.me.x = s.me.x ∧ t.mem = s.mem) ∧
    (noPosted s (scopeNum (brScope v)) → ∃ t, exec i s = .next t ∧
    let v' := t.homeNat pa 64
    bytesSameBut w t pa 64 ∧ t.crews = s.crews ∧ t.me.tags = [] ∧
    (∀ r ∈ t.writes, ownWriter t none r.who = true → scopeNum (brScope v) ≤ r.scope) ∧
    (brState v = 2 → answered w t rd 8 ∧ v' = v) ∧
    ((brState v = 0 ∨ brState v = 3 ∨ (brState v = 1 ∧ brCtx v ≠ myCtx w)) → answered w t rd 4 ∧ v' = v) ∧
    (brState v = 1 → brCtx v = myCtx w → ¬ inBarrier v s.cur → answered w t rd 6 ∧ v' = v) ∧
    (brState v = 1 → brCtx v = myCtx w → inBarrier v s.cur → barrierSound v → arrivalFits v m →
      answered w t rd ((if brArrived v < brExpect v then brPhase v else (brPhase v + 1) % 2 ^ 32) * 2 ^ 32) ∧ arrives v v' m x) ∧
    (brState v = 1 → brCtx v = myCtx w → inBarrier v s.cur → ¬ arrivalFits v m →
      answered w t rd (if brArrived v < brExpect v then 7 else 11) ∧ v' = v))

/-- R245, R248: for phase `p` in rs2, BWAIT and BTEST answer the code of a phase just completed, or 12 for an older one, with the acquire; of a phase
not complete BTEST answers 13 and BWAIT waits; codes 8 and 4 for a torn down or foreign record; memory is as it was. -/
def Sys2Proof.Claims.BarrierWait : Prop :=
  ∀ (test : Bool) rd rs1 rs2 s pa,
    let i := if test then Instr.btest rd rs1 rs2 else Instr.bwait rd rs1 rs2
    let w := waited s [rs1, rs2]
    let v := w.homeNat pa 64
    let p := (s.me.xr rs2).toNat / 2 ^ 32
    let ahead := (brPhase v + 2 ^ 32 - p) % 2 ^ 32
    object w (s.me.xr rs1).toNat .read pa → ∃ t, exec i s = .next t ∧ t.mem = s.mem ∧ t.crews = s.crews ∧
    (brState v = 2 → answered w t rd (p * 2 ^ 32 + 8)) ∧
    ((brState v = 0 ∨ brState v = 3 ∨ (brState v = 1 ∧ brCtx v ≠ myCtx w)) → answered w t rd (p * 2 ^ 32 + 4)) ∧
    (brState v = 1 → brCtx v = myCtx w → ahead = 1 → answered w t rd (p * 2 ^ 32 + brLast v) ∧
      (brLast v = 0 ∨ brLast v = 9 ∨ brLast v = 10 → caughtUp t)) ∧
    (brState v = 1 → brCtx v = myCtx w → 2 ≤ ahead → ahead < 2 ^ 31 → answered w t rd (p * 2 ^ 32 + 12) ∧ caughtUp t) ∧
    (brState v = 1 → brCtx v = myCtx w → (ahead = 0 ∨ 2 ^ 31 ≤ ahead) →
      if test then answered w t rd (p * 2 ^ 32 + 13) else t.me.stalled = some .barrier ∧ t.me.pc = s.me.pc ∧ t.me.x = s.me.x)

/-! ## Pages -/

/-- R275, R276, R277, R341: PGALLOC takes the head of the free list of a pool with a free page and quota left: the record becomes owned with one
reference in the hart's partition, the list and the charge move by one, and rd names the page; with none it answers code 6. -/
def Sys2Proof.Claims.PageAllocate : Prop :=
  ∀ rd rs1 s p,
    let w := waited s [rs1]
    let d := w.homeNat p.pa 64
    let id := pdFreeHead d
    let r := w.pageRec p id
    s.memOk → poolIs w (s.me.xr rs1).toNat p → poolSteady w p id →
    (pdFreeCnt d ≠ 0 → id < p.npages → (p.ctx = 0 ∨ charged w p.ctx < pageQuota w p.ctx) → poolApart p id →
      ∃ t, exec (.pgalloc rd rs1) s = .next t ∧ pageAnswer w t rd id 1 1 0 ∧ pageHolds w t p id 1 1 (myPart w) ∧
        pdFreeHead (t.homeNat p.pa 64) = prNext r ∧ pdFreeCnt (t.homeNat p.pa 64) = pdFreeCnt d - 1 ∧
        (p.ctx ≠ 0 → charged t p.ctx = charged w p.ctx + 1) ∧ pageFrame w t p id ∧ caughtUp t ∧ t.crews = s.crews) ∧
    ((pdFreeCnt d = 0 ∨ (p.ctx ≠ 0 ∧ pageQuota w p.ctx ≤ charged w p.ctx)) →
      ∃ t c, exec (.pgalloc rd rs1) s = .next t ∧ answered w t rd c ∧ c % 2 ^ 8 = 6 ∧ c / 2 ^ 32 = 0 ∧ t.mem = s.mem)

/-- R275, R276, R277, R341: PGREF, PGREL and PGXFER on a page of the hart's partition: a reference more; one less, the last but one leaving the page
owned and the last freeing it to the head of its list; or the page handed to the other partition; each leaves handed-over or freed at once where no
fetch holds the page. The codes 5, 8 and 9 change nothing; a command on a page handed to the own partition but not yet left is held at the
home and waits, and the home's answer to it completes it. -/
def Sys2Proof.Claims.PageReferences : Prop :=
  ∀ rd rs1 rs2 s p,
    let w := waited s [rs1, rs2]
    let id := (s.me.xr rs2).toNat
    let r := w.pageRec p id
    let refs := prRefs r
    let st := prState r
    let held (t : State) (fn : Nat) : Prop :=
      t.me.stalled = some .homeHeld ∧ t.me.pc = s.me.pc ∧ t.mem = s.mem ∧ ⟨s.cur, p.pa, fn, id, myPart w⟩ ∈ t.pageWaits
    (∀ i ∈ [Instr.pgref rd rs1 rs2, .pgrel rd rs1 rs2, .pgxfer rd rs1 rs2], ∀ r n, (s.me.remote.find? fun x => x.dev == 256) = some r →
      r.ans = some (true, leBytesOf 8 n) → n < 2 ^ 64 → ∃ t, exec i s = .next t ∧ answered s t rd n ∧ t.mem = s.mem ∧ t.crews = s.crews) ∧
    (s.memOk → poolIs w (s.me.xr rs1).toNat p → poolSteady w p id → id < p.npages → id < 2 ^ 24 → poolApart p id →
      (s.me.remote.find? fun x => x.dev == 256) = none →
    (∃ t, exec (.pgref rd rs1 rs2) s = .next t ∧ t.crews = s.crews ∧
      (st = 1 → prPart r = myPart w → pageAnswer w t rd id 2 2 0 ∧ pageHolds w t p id 2 2 (myPart w) ∧ bytesSameBut w t (p.recPa id) 8 ∧ caughtUp t) ∧
      (st = 2 → prPart r = myPart w → refs ≠ 65535 →
        pageAnswer w t rd id (refs + 1) 2 0 ∧ pageHolds w t p id (refs + 1) 2 (myPart w) ∧ bytesSameBut w t (p.recPa id) 8 ∧ caughtUp t) ∧
      (st = 2 → prPart r = myPart w → refs = 65535 → pageAnswer w t rd id refs st 9 ∧ t.mem = s.mem) ∧
      ((st = 1 ∨ st = 2 ∨ st = 3) → prPart r ≠ myPart w → pageAnswer w t rd id refs st 5 ∧ t.mem = s.mem) ∧
      (st = 3 → prPart r = myPart w → held t 4) ∧
      ((st = 0 ∨ 4 ≤ st) → pageAnswer w t rd id refs st 8 ∧ t.mem = s.mem)) ∧
    (∃ t, exec (.pgrel rd rs1 rs2) s = .next t ∧ t.crews = s.crews ∧
      (st = 2 → prPart r = myPart w → 2 < refs → pageAnswer w t rd id (refs - 1) 2 0 ∧ pageHolds w t p id (refs - 1) 2 (myPart w)) ∧
      (st = 2 → prPart r = myPart w → refs ≤ 2 → pageAnswer w t rd id 1 1 0 ∧ pageHolds w t p id 1 1 (myPart w)) ∧
      (st = 1 → prPart r = myPart w → prInfl r ≠ 0 →
        pageAnswer w t rd id 0 4 0 ∧ pageHolds w t p id 0 4 (myPart w) ∧ (p.ctx ≠ 0 → charged w p.ctx ≠ 0 → charged t p.ctx = charged w p.ctx - 1)) ∧
      (st = 1 → prPart r = myPart w → prInfl r = 0 →
        pageAnswer w t rd id 0 0 0 ∧ pageHolds w t p id 0 0 (myPart w) ∧ prNext (t.pageRec p id) = pdFreeHead (w.homeNat p.pa 64) ∧
        pdFreeHead (t.homeNat p.pa 64) = id ∧ pdFreeCnt (t.homeNat p.pa 64) = (pdFreeCnt (w.homeNat p.pa 64) + 1) % 2 ^ 24 ∧
        (p.ctx ≠ 0 → charged w p.ctx ≠ 0 → charged t p.ctx = charged w p.ctx - 1)) ∧
      ((st = 1 ∨ st = 2 ∨ st = 3) → prPart r ≠ myPart w → pageAnswer w t rd id refs st 5 ∧ t.mem = s.mem) ∧
      (st = 3 → prPart r = myPart w → held t 5) ∧
      ((st = 0 ∨ 4 ≤ st) → pageAnswer w t rd id refs st 8 ∧ t.mem = s.mem) ∧ pageFrame w t p id) ∧
    (∃ t, exec (.pgxfer rd rs1 rs2) s = .next t ∧ t.crews = s.crews ∧
      ((st = 1 ∨ st = 2) → prPart r = myPart w → prInfl r ≠ 0 →
        pageAnswer w t rd id refs 3 0 ∧ pageHolds w t p id refs 3 (1 - myPart w) ∧ bytesSameBut w t (p.recPa id) 8) ∧
      ((st = 1 ∨ st = 2) → prPart r = myPart w → prInfl r = 0 →
        let st' := if refs = 1 then 1 else 2
        pageAnswer w t rd id refs st' 0 ∧ pageHolds w t p id refs st' (1 - myPart w) ∧ bytesSameBut w t (p.recPa id) 8) ∧
      ((st = 1 ∨ st = 2 ∨ st = 3) → prPart r ≠ myPart w → pageAnswer w t rd id refs st 5 ∧ t.mem = s.mem) ∧
      (st = 3 → prPart r = myPart w → held t 6) ∧
      ((st = 0 ∨ 4 ≤ st) → pageAnswer w t rd id refs st 8 ∧ t.mem = s.mem)))

/-! ## Sequences -/

/-- R355, R359: BSHAPE answers the field of a serving descriptor that rs2 selects: the active sequences' count or list by a second load, the tables, the step,
the next entry, the number of records, and all ones beyond; like a load it takes one tag first, and memory is as it was. -/
def Sys2Proof.Claims.BatchShape : Prop :=
  ∀ rd rs1 rs2 s u bs,
    let w := tagged (waited s [rs1, rs2])
    let d := leValue bs
    let sel := (s.me.xr rs2).toNat
    let entry (k : Nat) : Nat := (bits d 255 192 + 16 * ((bits d 191 160 + k) % 2)) % 2 ^ 64
    let done (t : State) (v : Nat) : Prop := t.me.xr rd = (if rd = 0 then 0 else BitVec.ofNat 64 v) ∧ xSameBut s.me t.me rd ∧
      csrsSame s.me t.me ∧ vectorsSame s.me t.me ∧ t.mem = s.mem ∧ t.me.pc = s.me.pc + 4 ∧ t.me.instret = s.me.instret + 1 ∧ t.crews = s.crews ∧ othersSame s t
    (s.me.xr rs1).toNat % 64 = 0 → w.readVa (s.me.xr rs1).toNat 64 .read false true = (u, .ok bs) →
    (∀ p ∈ [(2, bits d 127 64), (3, bits d 127 64 + 4 * (bits d 143 128 + 1)), (4, bits d 191 160), (5, entry 1), (6, bits d 143 128 + 1)],
      sel = p.1 → ∃ t, exec (.bshape rd rs1 rs2) s = .next t ∧ done t p.2) ∧
    (7 ≤ sel → ∃ t, exec (.bshape rd rs1 rs2) s = .next t ∧ done t (2 ^ 64 - 1)) ∧
    (∀ p ∈ [(0, 8, 4), (1, 0, 8)], ∀ u' bs', sel = p.1 → ((entry 0 + p.2.1) % 2 ^ 64) % p.2.2 = 0 →
      u.readVa ((entry 0 + p.2.1) % 2 ^ 64) p.2.2 .read false true = (u', .ok bs') → ∃ t, exec (.bshape rd rs1 rs2) s = .next t ∧ done t (leValue bs'))

/-- R360, R466: SQADM and SQRET answer a code of their atomic part with nothing changed; SQRET on a sequence with a page left releases it and waits
anew, and one that a home holds is waited for. What a command answers and leaves is what its atomic part gives.
Readings of the model: log 82. -/
def Sys2Proof.Claims.SequenceCommands : Prop :=
  (∀ rd rs1 rs2 s n u, Q.admitSeq (s.me.xr rs1).toNat ((s.me.xr rs2).toNat % 2 ^ 32) (waited s [rs1, rs2]) = .ok n u →
    ∃ t, exec (.sqadm rd rs1 rs2) s = .next t ∧ answered u t rd (n * 2 ^ 8) ∧ t.mem = u.mem ∧ caughtUp t) ∧
  (∀ rd rs1 rs2 s c v u, Q.admitSeq (s.me.xr rs1).toNat ((s.me.xr rs2).toNat % 2 ^ 32) (waited s [rs1, rs2]) = .error (.code c v) u →
    ∃ t, exec (.sqadm rd rs1 rs2) s = .next t ∧ answered s t rd (v * 2 ^ 8 + c) ∧ t.mem = s.mem) ∧
  (∀ rd rs1 rs2 s c a u, Q.admitSeq (s.me.xr rs1).toNat ((s.me.xr rs2).toNat % 2 ^ 32) (waited s [rs1, rs2]) = .error (.fault c a) u →
    (c = 2 ∨ c = 3) → ∃ t, exec (.sqadm rd rs1 rs2) s = .next t ∧ answered s t rd c ∧ t.mem = s.mem) ∧
  (∀ rd rs1 rs2 s,
    let va := (s.me.xr rs1).toNat
    let q := (s.me.xr rs2).toNat
    let w := releasedAll (waited s [rs1, rs2]) 3
    (∀ c v u, Q.retireAll va q w = .error (.code c v) u → ∃ t, exec (.sqret rd rs1 rs2) s = .next t ∧ answered s t rd (v * 2 ^ 8 + c) ∧ t.mem = s.mem) ∧
    (∀ c a u, Q.retireAll va q w = .error (.fault c a) u → (c = 2 ∨ c = 3) →
      ∃ t, exec (.sqret rd rs1 rs2) s = .next t ∧ answered s t rd c ∧ t.mem = s.mem) ∧
    (∀ u d m u1 u2, Q.retireAll va q w = .ok () u → Q.retireStart false va q w = .ok (d, m) u1 → m ≠ 0 → Q.retirePage false d q m u1 = .ok () u2 →
      ∃ t, exec (.sqret rd rs1 rs2) s = .next t ∧ t.me.stalled = some .homeHeld ∧ t.mem = u2.mem ∧ t.me.pc = s.me.pc ∧ t.me.x = s.me.x) ∧
    (∀ u d m x u1 u2, Q.retireAll va q w = .ok () u → Q.retireStart false va q w = .ok (d, m) u1 → m ≠ 0 →
      Q.retirePage false d q m u1 = .error (.held x) u2 →
      ∃ t, exec (.sqret rd rs1 rs2) s = .next t ∧ t.me.stalled = some .homeHeld ∧ x ∈ t.pageWaits ∧ t.mem = u1.mem ∧ t.me.pc = s.me.pc ∧
        t.me.x = s.me.x) ∧
    (∀ u d u1 u3 n, Q.retireAll va q w = .ok () u → Q.retireStart false va q w = .ok (d, 0) u1 → noPosted u1 4 →
      Q.retireEnd false d q (releasedAll u1 4) = .ok n u3 →
      ∃ t, exec (.sqret rd rs1 rs2) s = .next t ∧ answered u3 t rd (n * 2 ^ 8) ∧ t.mem = u3.mem))

/-- R355 to R357, R360, R361: SQADM takes the admission entry at ADMHEAD for the lowest free record: the record is live with the entry's TAG, BT,
NPAGES, STOP and NSTOP and RSN and RELFAIL 0, ADMHEAD is one more, POS of the sequence is the entry's and ACC 0, memory elsewhere is as it was, and rd
names the sequence, with the acquire; with an empty ring, a pool short of the reserve or no free record it answers 5, 9 or 6 and changes nothing. -/
def Sys2Proof.Claims.SequenceAdmission : Prop :=
  ∀ rd rs1 rs2 s p n dp ep (kp : Nat → Nat) pp ap,
    let w := waited s [rs1, rs2]
    let va := (s.me.xr rs1).toNat
    let d := w.homeNat dp 64
    let tab := bits d 127 64
    let nseq := bits d 143 128 + 1
    let head := bits d 351 320
    let entry := bits d 319 256 + 32 * (head % 2 ^ bits d 147 144)
    let e := w.homeNat ep 32
    let place (k : Nat) : Nat := tab + 8 * nseq + 64 * k
    let r := w.homeNat (kp n) 64
    let code (c : Nat) : Prop := ∃ t, exec (.sqadm rd rs1 rs2) s = .next t ∧ answered w t rd c ∧ t.mem = w.mem
    s.memOk → va % 64 = 0 → seqRead w va dp 64 → bits d 159 152 = 0 → seqWord w (va + 40) (dp + 40) 4 → seqRead w (va + 44) (dp + 44) 4 →
    (head = bits d 383 352 → code 5) ∧
    (head ≠ bits d 383 352 → poolIs w (bits d 63 0) p →
      (pdFreeCnt (w.homeNat p.pa 64) < (s.me.xr rs2).toNat % 2 ^ 32 → code 9) ∧
      ((s.me.xr rs2).toNat % 2 ^ 32 ≤ pdFreeCnt (w.homeNat p.pa 64) →
        ((∀ k, k < nseq → seqRead w (place k) (kp k) 8 ∧ bits (w.homeNat (kp k) 8) 2 0 ≠ 0) → code 6) ∧
        (n < nseq → (∀ k, k ≤ n → seqRead w (place k) (kp k) 8) → (∀ k, k < n → bits (w.homeNat (kp k) 8) 2 0 ≠ 0) → bits r 2 0 = 0 →
          (∀ o ∈ [0, 8, 16, 24], seqRead w (entry + o) (ep + o) 8) → bits e 155 152 ≤ 8 → bits e 159 156 = 0 →
          (∀ x ∈ [(0, 8), (8, 8), (16, 4), (24, 8), (32, 8), (44, 4)], seqWord w (place n + x.1) (kp n + x.1) x.2) →
          seqWord w (tab + 4 * n) pp 4 → seqWord w (tab + 4 * nseq + 4 * n) ap 4 →
          [(dp, 64), (kp n, 64), (pp, 4), (ap, 4)].Pairwise (fun x y => apart x.1 x.2 y.1 y.2) →
          ∃ t, exec (.sqadm rd rs1 rs2) s = .next t ∧ answered w t rd (n * 2 ^ 8) ∧ caughtUp t ∧ t.crews = s.crews ∧
            let r' := t.homeNat (kp n) 64
            bits r' 2 0 = 1 ∧ r'.testBit 3 = false ∧ bits r' 11 8 = bits e 155 152 ∧ bits r' 127 64 = bits e 127 64 ∧ bits r' 159 128 = bits e 191 160 ∧
            bits r' 255 192 = bits e 255 192 ∧ bits r' 319 256 = bits e 63 0 ∧ bits r' 383 352 = 0 ∧
            (∀ f ∈ [(7, 4), (63, 12), (191, 160), (351, 320), (511, 384)], bits r' f.1 f.2 = bits r f.1 f.2) ∧
            t.homeNat (dp + 40) 4 = (head + 1) % 2 ^ 32 ∧ t.homeNat pp 4 = bits e 151 128 ∧ t.homeNat ap 4 = 0 ∧
            ∀ a, (∀ x ∈ [(dp + 40, 4), (kp n, 64), (pp, 4), (ap, 4)], a < x.1 ∨ x.1 + x.2 ≤ a) → t.homeByte a = w.homeByte a)))

/-- R356, R360, R362, R363: SQRET on a live or finished sequence, or on one that its hart is retiring already: with a page left it releases the last one as
PGREL does, counts a failure in RELFAIL, empties the block table entry, leaves NPAGES one less and waits anew, the record retiring under the hart with the
completion record reserved; with none left it writes the completion record at CMPL + 32 x (i mod 2^CMPLN), detaches the cursor that serves the sequence,
frees the record and answers CSLOT. Memory elsewhere is as it was. -/
def Sys2Proof.Claims.SequenceRetirement : Prop :=
  ∀ rd rs1 rs2 s p dp rp pp cp (bp : Nat → Nat),
    let w := releasedAll (waited s [rs1, rs2]) 3
    let va := (s.me.xr rs1).toNat
    let q := (s.me.xr rs2).toNat
    let d := w.homeNat dp 64
    let tab := bits d 127 64
    let nseq := bits d 143 128 + 1
    let place := tab + 8 * nseq + 64 * q
    let r := w.homeNat rp 64
    let m := bits r 159 128
    let again : Bool := bits r 2 0 == 3
    let slot := if again then bits r 351 320 else bits d 479 448
    let live : Bool := if again then r.testBit 3 else bits r 2 0 == 1
    let comp := bits d 447 384 + 32 * (slot % 2 ^ bits d 151 148)
    let tables := [(dp, 64), (rp, 64), (cp, 32), (pp, 4)]
    let pool (id : Nat) : List (Nat × Nat) := [(p.recPa id, 8), (p.pa, 64)] ++ if p.ctx = 0 then [] else [(ctxPa p.ctx, 128)]
    let spares (l : List (Nat × Nat)) (t : State) : Prop := ∀ a, (∀ x ∈ l, a < x.1 ∨ x.1 + x.2 ≤ a) → t.homeByte a = w.homeByte a
    let retiring (t : State) : Prop :=
      let r' := t.homeNat rp 64
      r'.testBit 3 = live ∧ bits r' 63 55 = s.cur.val ∧ bits r' 351 320 = slot ∧
      (∀ f ∈ [(54, 4), (127, 64), (191, 160), (319, 192), (511, 384)], bits r' f.1 f.2 = bits r f.1 f.2) ∧
      t.homeNat (dp + 56) 4 = (if again then bits d 479 448 else (slot + 1) % 2 ^ 32)
    s.memOk → va % 64 = 0 → seqRead w va dp 64 → bits d 159 152 = 0 → q < nseq → seqRead w place rp 64 →
    (again = true → bits r 63 55 = s.cur.val) →
    (again = false → (bits r 2 0 = 1 ∨ bits r 2 0 = 2) ∧ bits r 11 8 ≤ 8 ∧ (∀ f ∈ [(7, 4), (15, 12), (54, 28), (191, 160), (511, 384)], bits r f.1 f.2 = 0) ∧
      (bits d 479 448 + 2 ^ 32 - bits d 511 480) % 2 ^ 32 < 2 ^ bits d 151 148) →
    seqWord w (va + 56) (dp + 56) 4 → seqRead w (va + 60) (dp + 60) 4 → seqRead w (place + 8) (rp + 8) 8 →
    (∀ x ∈ [(0, 8), (16, 4), (40, 4), (44, 4)], seqWord w (place + x.1) (rp + x.1) x.2) → seqRead w (tab + 4 * q) pp 4 →
    (∀ o ∈ [0, 8, 16, 24], seqWord w (comp + o) (cp + o) 8) → poolIs w (bits d 63 0) p → (w.me.remote.find? fun x => x.dev == 256) = none →
    (∀ j, j < m → seqWord w (bits r 127 64 + 4 * j) (bp j) 4) →
    tables.Pairwise (fun x y => apart x.1 x.2 y.1 y.2) → (∀ j, j < m → ∀ x ∈ tables, apart (bp j) 4 x.1 x.2) →
    (∀ i j, i < j → j < m → apart (bp i) 4 (bp j) 4) →
    (∀ j, j < m → w.homeNat (bp j) 4 < p.npages → poolSteady w p (w.homeNat (bp j) 4) ∧ poolApart p (w.homeNat (bp j) 4) ∧
      ∀ x ∈ pool (w.homeNat (bp j) 4), (∀ y ∈ tables, apart x.1 x.2 y.1 y.2) ∧ ∀ i, i < m → apart x.1 x.2 (bp i) 4) →
    (m = 0 → noPosted s 4 → ∃ t, exec (.sqret rd rs1 rs2) s = .next t ∧ answered w t rd (slot * 2 ^ 8) ∧ retiring t ∧ bits (t.homeNat rp 64) 2 0 = 0 ∧
      bits (t.homeNat rp 64) 159 128 = 0 ∧ bits (t.homeNat rp 64) 383 352 = bits r 383 352 ∧
      t.homeNat cp 8 = bits r 319 256 ∧ t.homeNat (cp + 8) 8 = (slot + 1) % 2 ^ 32 + (if live then 2 ^ 32 else 0) ∧
      t.homeNat (cp + 16) 8 = (w.homeNat pp 4 + 1) % 2 ^ 32 + bits r 383 352 * 2 ^ 32 ∧ t.homeNat (cp + 24) 8 = s.now % 2 ^ 64 ∧
      (∀ x ∈ t.writes, ownWriter t none x.who = true → 4 ≤ x.scope) ∧ spares [(rp, 64), (dp + 56, 4), (cp, 32)] t ∧
      (r.testBit 19 = false → t.crews = s.crews) ∧
      (r.testBit 19 = true → crewsSameBut s t (bits r 27 20) ∧
        (∀ i : Fin 4, ((t.crewAt (bits r 27 20)).cursors[Fin.ofNat 8 (bits r 18 16)]).slots[i] = .empty) ∧
        ∀ j : Fin 8, j.val ≠ bits r 18 16 → (t.crewAt (bits r 27 20)).cursors[j] = (s.crewAt (bits r 27 20)).cursors[j])) ∧
    (m ≠ 0 →
      let id := w.homeNat (bp (m - 1)) 4
      let x := w.pageRec p id
      let mine : Prop := prPart x = myPart w
      let released : Prop := id ≠ 0xFFFF_FFFF ∧ id < p.npages ∧ (prState x = 1 ∨ prState x = 2) ∧ mine
      ¬ (id ≠ 0xFFFF_FFFF ∧ id < p.npages ∧ prState x = 3 ∧ mine) →
      ∃ t, exec (.sqret rd rs1 rs2) s = .next t ∧ t.me.stalled = some .homeHeld ∧ t.me.pc = s.me.pc ∧ t.me.x = s.me.x ∧ t.crews = s.crews ∧ othersSame w t ∧
        retiring t ∧ bits (t.homeNat rp 64) 2 0 = 3 ∧ bits (t.homeNat rp 64) 159 128 = m - 1 ∧ t.homeNat (bp (m - 1)) 4 = 0xFFFF_FFFF ∧
        ((id = 0xFFFF_FFFF ∨ released) → bits (t.homeNat rp 64) 383 352 = bits r 383 352) ∧
        (id ≠ 0xFFFF_FFFF → ¬ released → bits (t.homeNat rp 64) 383 352 = (bits r 383 352 + 1) % 2 ^ 32) ∧
        (released → pageReleased w t p id ∧ spares ([(rp, 64), (dp + 56, 4), (bp (m - 1), 4)] ++ pool id) t) ∧
        (¬ released → spares [(rp, 64), (dp + 56, 4), (bp (m - 1), 4)] t))

/-- R364, R172: VSTOP completes where every active element's reads can be made, with the mask bits its elements leave and every other bit kept; an
element at or beyond the step's count keeps its bit, one of a record that is not live sets it, and one of a live record stops on a poisoned
token, and else sets it, and moves the record on to finished, exactly where its token stands in the record's stop list. -/
def Sys2Proof.Claims.StopTokens : Prop :=
  (∀ km vs2 rs1 kd s v,
    let w := (loadIssue s km [vs2] [rs1]).mapMe fun x => x.markDirty { dstK := [kd.toNat] }
    let h := w.me
    let elem (i : Nat) (x : State) : State × Except AccFault Unit :=
      match x.stopElem (h.xr rs1).toNat i (h.elem vs2 32 i) (h.elemBad vs2 32 i) with
      | (x, .error e) => (x, .error e)
      | (x, .ok none) => (x, .ok ())
      | (x, .ok (some b)) => (x.mapMe fun h => h.setK kd.toNat i b, .ok ())
    vecReady s (fun h => h.sew = 2) →
    memLoop elem ((List.range h.vln).filter (active h km h.vln)) w = (v, none) →
    ∃ t, exec (.vstop km vs2 rs1 kd) s = .next t ∧ t.mem = v.mem ∧ t.me.k = v.me.k ∧ t.me.x = h.x ∧ t.me.v = h.v ∧ t.me.vstart = 0 ∧
      t.me.vl = h.vl ∧ t.me.pc = h.pc + 4 ∧ t.me.instret = h.instret + 1 ∧ t.crews = w.crews ∧
      (∀ k : BitVec 3, k ≠ kd → t.me.kr k.toNat = h.kr k.toNat) ∧
      ∀ b, b < 4096 → active h km h.vln b = false → (t.me.kr kd.toNat).getLsbD b = (h.kr kd.toNat).getLsbD b) ∧
  (∀ (s : State) va i tok (bad : Bool) u1 u2 bs cs, va % 64 = 0 →
    let d := leValue bs
    let e := (bits d 255 192 + 16 * (bits d 191 160 % 2)) % 2 ^ 64
    s.readVa (va % 2 ^ 64) 64 .read true true = (u1, .ok bs) → e % 8 = 0 → u1.readVa ((e + 8) % 2 ^ 64) 4 .read true true = (u2, .ok cs) →
    (leValue cs ≤ i → s.stopElem va i tok bad = (u2, .ok none)) ∧
    (∀ u3 u4 ls qs, i < leValue cs → u2.readVa e 8 .read true true = (u3, .ok ls) → (leValue ls + 4 * i) % 2 ^ 64 % 4 = 0 →
      u3.readVa ((leValue ls + 4 * i) % 2 ^ 64) 4 .read true true = (u4, .ok qs) →
      let q := leValue qs
      let r := (bits d 127 64 + 8 * (bits d 143 128 + 1) + 64 * q) % 2 ^ 64
      (bits d 143 128 + 1 ≤ q → s.stopElem va i tok bad = (u4, .ok (some true))) ∧
      (∀ u5 u6 rs x, q < bits d 143 128 + 1 → r % 8 = 0 → u4.readVa r 8 .read true true = (u5, .ok rs) → u4.amoVa .lda r 8 0 0 = (u6, .ok x) →
        (bits x 2 0 ≠ 1 → s.stopElem va i tok bad = (u6, .ok (some true))) ∧
        (bits x 2 0 = 1 → bad = true → s.stopElem va i tok bad = (u6, .error (.cause 0x109 i))) ∧
        (∀ u7 u8 ss toks, bits x 2 0 = 1 → bad = false → u6.readVa ((r + 24) % 2 ^ 64) 8 .read true true = (u7, .ok ss) →
          toks.length = min 8 (bits x 11 8) → tokensRead (leValue ss) toks 0 u7 u8 →
          (tok ∉ toks → s.stopElem va i tok bad = (u8, .ok (some false))) ∧
          (∀ u9 y, tok ∈ toks → u8.amoVa .cas r 8 (x - bits x 2 0 + 2) x = (u9, .ok y) → s.stopElem va i tok bad = (u9, .ok (some true)))))))

/-! ## Index objects and cursors -/

/-- R315, R316: IXINIT with mode 1 binds a region whose header and text it can read to the hart's context under a new generation, and with mode 0 tears the
own object down; IXCUR frees a cursor, or sets it to the own object's text as the Vein of its home reads it. -/
def Sys2Proof.Claims.IndexBinding : Prop :=
  (∀ rd rs1 rs2 s pa u1 hdr u2 frames u3 text,
    let w := waited s [rs1, rs2]
    let va := (s.me.xr rs1).toNat
    let ag : Agent := ⟨.engine s.cur .X 0, .die (s.cur.val / 64), w.reqFor s.cur, 3, s.cur, 0, s.me.pc.toNat⟩
    let d := leValue hdr
    let off := va % 0x1_0000
    let size := 128 + 64 * ixCap d
    s.memOk → indexAddr w va pa → s.me.xr rs2 = 1 → w.engBytes ag va 128 = (u1, .ok hdr) → ixState d ≠ 1 → u1.ixAt pa = none → ixHdrOk d = true →
    State.ixFrames ag ((off + size + 0xFFFF) / 0x1_0000) (va - off) u1 [] = (u2, .ok frames) →
    (∀ h ∈ ixHeld frames off size 0 0, u2.writeRefused (myWorld w) h.pa h.len = false) →
    u2.engBytes ag (va + 128) (4 * ixLen d) = (u3, .ok text) → (∀ i, i < ixLen d → leValue ((text.drop (4 * i)).take 4) < 2 ^ 24) →
    (myCtx w ≠ 0 → u3.ctxField (myCtx w) 275 264 < u3.ctxField (myCtx w) 211 200) → (myCtx w ≠ 0 → apart pa 128 (ctxPa (myCtx w)) 128) →
    ∃ t gen, exec (.ixinit rd rs1 rs2) s = .next t ∧ answered w t rd (ixLen d * 2 ^ 8) ∧ gen = (w.nextBind + 1) % 2 ^ 32 ∧
      t.ixAt pa = some ⟨pa, gen, myCtx w, off, frames⟩ ∧ ixState (t.homeNat pa 8) = 1 ∧ ixOwner (t.homeNat pa 8) = myCtx w ∧
      ixWorld (t.homeNat pa 8) = myWorld w % 16 ∧ bits (t.homeNat pa 8) 63 32 = gen ∧ bits (t.homeNat pa 8) 10 8 = s.cur.val / 64 ∧
      (∀ h ∈ ixHeld frames off size (myCtx w) gen, h ∈ t.held) ∧
      ∀ a, (a < pa ∨ pa + 16 ≤ a) → (myCtx w = 0 ∨ a < ctxPa (myCtx w) ∨ ctxPa (myCtx w) + 128 ≤ a) → t.homeByte a = w.homeByte a) ∧
  (∀ rd rs1 rs2 s pa o,
    let w := waited s [rs1, rs2]
    s.memOk → indexAddr w (s.me.xr rs1).toNat pa → s.me.xr rs2 = 0 → w.ixAt pa = some o → indexUse w o true → ixTakes w o 0 →
    (o.ctx ≠ 0 → apart o.pa 8 (ctxPa o.ctx) 128) →
    ∃ t, exec (.ixinit rd rs1 rs2) s = .next t ∧ answered w t rd 0 ∧ ixState (t.homeNat o.pa 8) = 2 ∧ o ∉ t.indexes ∧
      (∀ h ∈ t.held, ¬ (h.kind = .index ∧ h.aux = o.gen ∧ h.ctx = o.ctx)) ∧
      ∀ a, (a < o.pa ∨ o.pa + 8 ≤ a) → (o.ctx = 0 ∨ a < ctxPa o.ctx ∨ ctxPa o.ctx + 128 ≤ a) → t.homeByte a = w.homeByte a) ∧
  (∀ rd rs2 s, (s.me.xr rs2).toNat ≤ 7 → ∃ t, exec (.ixcur rd 0 rs2) s = .next t ∧ answered s t rd 0 ∧ t.mem = s.mem ∧
    myCursor t (s.me.xr rs2).toNat = ⟨none, 0, [], Vector.replicate 4 .empty, 0, 0, 0⟩ ∧ cursorsSameBut s t (s.me.xr rs2).toNat) ∧
  (∀ rd (rs1 rs2 : BitVec 5) s pa o,
    let w := waited s [rs1, rs2]
    let i := (s.me.xr rs2).toNat
    rs1 ≠ 0 → indexAddr w (s.me.xr rs1).toNat pa → i ≤ 7 → w.ixAt pa = some o → indexUse w o true → ixSound w o (128 + 4 * ixLen (w.ixHdr o)) →
    let text := w.ixText o
    ∃ t, exec (.ixcur rd rs1 rs2) s = .next t ∧ answered w t rd (text.length * 2 ^ 8) ∧ t.mem = s.mem ∧
      myCursor t i = ⟨some (o.pa, o.gen), text.length, text.drop (text.length - 256), Vector.replicate 4 .empty, 0, 0, 0⟩ ∧ cursorsSameBut s t i)

/-- R311, R317, R318, R320, R321: IXATT attaches an object to a slot with its match length; IXDET empties a slot, or all; IXMATCH feeds a token: the history
grows, every live slot's match length moves on, and rd holds the greatest; IXSTAT answers an item of a cursor. -/
def Sys2Proof.Claims.IndexCursors : Prop :=
  (∀ rd rs1 rs2 s pa o,
    let w := waited s [rs1, rs2]
    let v := (s.me.xr rs2).toNat
    let c := myCursor s (v % 8)
    indexAddr w (s.me.xr rs1).toNat pa → v < 2 ^ 13 → bits v 7 3 = 0 → bits v 11 10 = 0 → w.ixAt pa = some o → indexUse w o false →
    ixSound w o (128 + 4 * ixLen (w.ixHdr o)) → c.window.length = min c.hlen 256 →
    ∃ t m, exec (.ixatt rd rs1 rs2) s = .next t ∧ matchLen (t.ixText o) c.window (min c.hlen 256) m ∧ answered w t rd (m * 2 ^ 8) ∧ t.mem = s.mem ∧
      myCursor t (v % 8) = { c with slots := c.slots.set (Fin.ofNat 4 (bits v 9 8)) (.attached o.pa o.gen m) } ∧ cursorsSameBut s t (v % 8)) ∧
  (∀ rd rs1 s,
    let v := (s.me.xr rs1).toNat
    let c := myCursor s (v % 8)
    v < 2 ^ 13 → bits v 7 3 = 0 → bits v 11 10 = 0 →
    ∃ t, exec (.ixdet rd rs1) s = .next t ∧ answered (waited s [rs1]) t rd 0 ∧ t.mem = s.mem ∧ cursorsSameBut s t (v % 8) ∧
      myCursor t (v % 8) =
        { c with slots := if v.testBit 12 then Vector.replicate 4 .empty else c.slots.set (Fin.ofNat 4 (bits v 9 8)) .empty }) ∧
  (∀ rd rs1 rs2 s,
    let w := waited s [rs1, rs2]
    let i := (s.me.xr rs1).toNat
    let tok := (s.me.xr rs2).toNat
    let c := myCursor s i
    i ≤ 7 → tok < 2 ^ 24 → c.window.length = min c.hlen 256 → c.hlen < 2 ^ 48 - 1 → slotsSound w c →
    ∃ t, exec (.ixmatch rd rs1 rs2) s = .next t ∧ t.mem = s.mem ∧ cursorsSameBut s t i ∧
      let c' := myCursor t i
      c'.window = (c.window ++ [tok]).drop (c.window.length + 1 - 256) ∧ c'.hlen = c.hlen + 1 ∧ c'.own = c.own ∧
      (∀ j : Fin 4, match c.slots[j] with
        | .empty => c'.slots[j] = .empty
        | .attached p g m => match w.ixLive p g with
          | some o => ∃ m', c'.slots[j] = .attached p g m' ∧ matchLen (t.ixText o) c'.window (min (m + 1) (min (c.hlen + 1) 256)) m'
          | none => c'.slots[j] = .attached p g m) ∧
      ∃ b, answered w t rd (b * 2 ^ 8) ∧ (b = 0 ∨ ∃ j : Fin 4, w.slotM c'.slots[j] = some b) ∧ ∀ j : Fin 4, ∀ m, w.slotM c'.slots[j] = some m → m ≤ b) ∧
  (∀ rd rs1 rs2 s v,
    let w := waited s [rs1, rs2]
    let c := myCursor s (s.me.xr rs1).toNat
    let sel := (s.me.xr rs2).toNat
    let live (x : Option (Nat × Nat)) : Option IxObj := x.bind fun p => w.ixLive p.1 p.2
    (s.me.xr rs1).toNat ≤ 7 → (sel = 8 → ∀ o, live c.own = some o → ixSound w o 128) →
    ((sel = 0 ∧ v = c.accN) ∨ (sel = 1 ∧ v = c.accT) ∨ (sel = 2 ∧ v = c.propT) ∨ (sel = 3 ∧ v = c.hlen) ∨
     (∃ j : Fin 4, sel = 4 + j.val ∧ v = (w.slotM c.slots[j]).getD 0xFFFF_FFFF) ∨
     (sel = 8 ∧ v = ((live c.own).map fun o => ixLen (w.ixHdr o)).getD 0xFFFF_FFFF)) →
    ∃ t, exec (.ixstat rd rs1 rs2) s = .next t ∧ answered w t rd (v * 2 ^ 8) ∧ t.mem = s.mem ∧ t.crews = s.crews)

/-- R319, R326: IXEXT appends a token, and IXEXTV its active elements in ascending order, to the own object while they fit: the text grows by them, rd holds the
new length, and no other byte of memory changes; code 6 where they do not fit and 7 for a token of more than 24 bits. -/
def Sys2Proof.Claims.IndexExtend : Prop :=
  let grown (w t : State) (o : IxObj) (toks : List Nat) (clean : Prop) : Prop :=
    let n := ixLen (w.ixHdr o)
    ixLen (t.ixHdr o) = n + toks.length ∧ (∀ k, k < toks.length → t.homeNat (o.at' (128 + 4 * (n + k))) 4 = toks.getD k 0) ∧
    ∀ a, spared clean a → (a < o.pa + 12 ∨ o.pa + 16 ≤ a) → (∀ k, k < toks.length → a < o.at' (128 + 4 * (n + k)) ∨ o.at' (128 + 4 * (n + k)) + 4 ≤ a) →
      t.homeByte a = w.homeByte a
  let sound (w : State) (o : IxObj) (k : Nat) : Prop :=
    let n := ixLen (w.ixHdr o)
    ixTakes w o k ∧ (∀ j, j < k → apart (o.at' (128 + 4 * (n + j))) 4 o.pa 128) ∧
    ∀ i j, i < j → j < k → apart (o.at' (128 + 4 * (n + i))) 4 (o.at' (128 + 4 * (n + j))) 4
  (∀ rd rs1 rs2 s pa o,
    let w := waited s [rs1, rs2]
    let n := ixLen (w.ixHdr o)
    let tok := (s.me.xr rs2).toNat
    s.memOk → indexAddr w (s.me.xr rs1).toNat pa → w.ixAt pa = some o →
    (2 ^ 24 ≤ tok → ∃ t, exec (.ixext rd rs1 rs2) s = .next t ∧ answered w t rd (n * 2 ^ 8 + 7) ∧ t.mem = s.mem) ∧
    (indexUse w o true → tok < 2 ^ 24 → ixCap (w.ixHdr o) ≤ n → ∃ t, exec (.ixext rd rs1 rs2) s = .next t ∧ answered w t rd (n * 2 ^ 8 + 6) ∧ t.mem = s.mem) ∧
    (indexUse w o true → tok < 2 ^ 24 → n < ixCap (w.ixHdr o) → sound w o 1 →
      ∃ t, exec (.ixext rd rs1 rs2) s = .next t ∧ answered w t rd ((n + 1) * 2 ^ 8) ∧ grown w t o [tok] True ∧ t.crews = s.crews)) ∧
  (∀ km vs2 rs1 rd s pa o,
    let w := memIssue s km [vs2] [rs1]
    let h := w.me
    let n := ixLen (w.ixHdr o)
    let act := (List.range h.vln).filter (active h km h.vln)
    let toks := act.map fun i => h.elem vs2 32 i
    let clean := cleanRegs h [vs2]
    (∀ a, o.pa ≤ a → a < o.pa + 128 → spared clean a) →
    s.memOk → vecReady s (fun h => h.sew = 2) → h.vst = 0 → (∀ i ∈ act, h.elemBad vs2 32 i = false) → indexAddr w (h.xr rs1).toNat pa → w.ixAt pa = some o →
    indexUse w o true → (∀ k ∈ toks, k < 2 ^ 24) → n + toks.length ≤ ixCap (w.ixHdr o) → ixCap (w.ixHdr o) < 2 ^ 32 → sound w o toks.length →
    ∃ t, exec (.ixextv km vs2 rs1 rd) s = .next t ∧ t.me.xr rd = (if rd = 0 then 0 else BitVec.ofNat 64 ((n + toks.length) * 2 ^ 8)) ∧
      xSameBut h t.me rd ∧ vectorsSame h t.me ∧ grown w t o toks clean ∧ vecAfter w t h.vln none [] [] 0)

/-- R312, R322, R324, R325: IXPROP lays out the proposals of a cursor as rows of its last token, the proposed tokens and pads, with their lengths in rd; IXACC
compares rows of proposals with the argmax, answers the row accepted furthest and how far, and appends what it accepted where it is asked to. -/
def Sys2Proof.Claims.IndexPropose : Prop :=
  (∀ rd rs1 vd s cur p l minm,
    let w := memIssue s 0 [] [rs1]
    let h := w.me
    let v := (h.xr rs1).toNat
    let c := myCursor w cur
    vecReady s (fun h => h.sew = 2) → h.vst = 0 → cur ≤ 7 → 1 ≤ p → p ≤ 4 → 1 ≤ l → l ≤ 64 → minm < 256 →
    v = cur + (p - 1) * 2 ^ 4 + l * 2 ^ 8 + minm * 2 ^ 24 → p * (l + 1) ≤ h.vln → slotsSound w c →
    ∃ t, exec (.ixprop rd rs1 vd) s = .next t ∧
      let props := t.proposals c minm l p
      regWritten h t.me vd 32 (fun i => if i < p * (l + 1) then
        some (if i % (l + 1) = 0 then c.window.getLast?.getD 0xFFFF_FFFF else (props.getD (i / (l + 1)) []).getD (i % (l + 1) - 1) 0xFFFF_FFFF)
        else none) ∧
      t.me.xr rd = (if rd = 0 then 0 else
        BitVec.ofNat 64 ((List.range props.length).foldl (fun a j => a + (props.getD j []).length * 2 ^ (8 * j)) 0)) ∧
      xSameBut h t.me rd ∧ t.me.k = h.k ∧ t.mem = w.mem ∧ t.me.vstart = 0 ∧ t.me.vl = h.vl ∧ t.me.pc = h.pc + 4 ∧ t.me.instret = h.instret + 1 ∧
      myCursor t cur = { c with propT := (c.propT + (props.map List.length).sum) % 2 ^ 48 } ∧ cursorsSameBut w t cur ∧ othersSame w t) ∧
  (∀ vs2 vs1 rd s cur p l (app : Bool),
    let w := memIssue s 0 [vs2, vs1] [rd]
    let h := w.me
    let v := (h.xr rd).toNat
    let c := myCursor w cur
    let a (j : Nat) : Nat := acceptedLen (h.elem vs2 32) (h.elem vs1 32) l j
    vecReady s (fun h => h.sew = 2) → h.vst = 0 → cur ≤ 7 → 1 ≤ p → p ≤ 4 → 1 ≤ l → l ≤ 64 →
    v % 2 ^ 24 = cur + (p - 1) * 2 ^ 4 + l * 2 ^ 8 + (if app then 2 ^ 16 else 0) → v < 2 ^ 32 → p * (l + 1) ≤ h.vln →
    (∀ i, i < p * (l + 1) → h.elemBad vs2 32 i = false ∧ h.elemBad vs1 32 i = false) →
    (app = true → c.own = none) →
    ∃ t j, exec (.ixacc vs2 vs1 rd) s = .next t ∧ j < p ∧ (∀ k, k < j → a k < a j) ∧ (∀ k, k < p → a k ≤ a j) ∧
      t.me.xr rd = (if rd = 0 then 0 else BitVec.ofNat 64 ((if app then 9 * 2 ^ 16 else 0) + j * 2 ^ 8 + a j)) ∧
      xSameBut h t.me rd ∧ vectorsSame h t.me ∧ memKept w t (cleanRegs h [vs2, vs1]) ∧ t.me.vstart = 0 ∧ t.me.pc = h.pc + 4 ∧ t.me.instret = h.instret + 1 ∧
      myCursor t cur = { c with accN := (c.accN + 1) % 2 ^ 48, accT := (c.accT + a j) % 2 ^ 48 } ∧ cursorsSameBut w t cur ∧ othersSame w t) ∧
  (∀ vs2 vs1 rd s cur p l o,
    let w := memIssue s 0 [vs2, vs1] [rd]
    let h := w.me
    let v := (h.xr rd).toNat
    let c := myCursor w cur
    let n := ixLen (w.ixHdr o)
    let a (j : Nat) : Nat := acceptedLen (h.elem vs2 32) (h.elem vs1 32) l j
    let clean := cleanRegs h [vs2, vs1]
    (∀ b, o.pa ≤ b → b < o.pa + 128 → spared clean b) →
    s.memOk → vecReady s (fun h => h.sew = 2) → h.vst = 0 → cur ≤ 7 → 1 ≤ p → p ≤ 4 → 1 ≤ l → l ≤ 64 →
    v % 2 ^ 24 = cur + (p - 1) * 2 ^ 4 + l * 2 ^ 8 + 2 ^ 16 → v < 2 ^ 32 → p * (l + 1) ≤ h.vln →
    (∀ i, i < p * (l + 1) → h.elemBad vs2 32 i = false ∧ h.elemBad vs1 32 i = false) →
    c.own = some (o.pa, o.gen) → w.ixLive o.pa o.gen = some o → n + l + 1 ≤ ixCap (w.ixHdr o) → ixCap (w.ixHdr o) < 2 ^ 32 →
    (∀ i, i < p * (l + 1) → h.elem vs1 32 i < 2 ^ 24) →
    ixSound w o (128 + 4 * (n + l + 1)) → ixTakes w o (l + 1) → slotsSound w c →
    (∀ j, j ≤ l → apart (o.at' (128 + 4 * (n + j))) 4 o.pa 128) → (∀ i j, i < j → j ≤ l → apart (o.at' (128 + 4 * (n + i))) 4 (o.at' (128 + 4 * (n + j))) 4) →
    ∃ t j, exec (.ixacc vs2 vs1 rd) s = .next t ∧ j < p ∧ (∀ k, k < j → a k < a j) ∧ (∀ k, k < p → a k ≤ a j) ∧
      t.me.xr rd = (if rd = 0 then 0 else BitVec.ofNat 64 (j * 2 ^ 8 + a j)) ∧ ixLen (t.ixHdr o) = n + a j + 1 ∧
      (∀ k, k < a j → t.homeNat (o.at' (128 + 4 * (n + k))) 4 = h.elem vs2 32 (j * (l + 1) + 1 + k)) ∧
      t.homeNat (o.at' (128 + 4 * (n + a j))) 4 = h.elem vs1 32 (j * (l + 1) + a j) ∧
      (∀ b, spared clean b → (b < o.pa + 12 ∨ o.pa + 16 ≤ b) → (∀ k, k ≤ a j → b < o.at' (128 + 4 * (n + k)) ∨ o.at' (128 + 4 * (n + k)) + 4 ≤ b) → t.homeByte b = w.homeByte b) ∧
      (myCursor t cur).hlen = min (c.hlen + a j + 1) (2 ^ 48 - 1) ∧ (myCursor t cur).accT = (c.accT + a j) % 2 ^ 48 ∧
      xSameBut h t.me rd ∧ vectorsSame h t.me ∧ t.me.vstart = 0 ∧ t.me.pc = h.pc + 4 ∧ cursorsSameBut w t cur ∧ othersSame w t)

/-- R243 to R245, R248: the barrier arrivals, tests and waits.
Readings of the model: log 70 and 71. -/
def Obligations.BarrierCommands : Prop := Sys2Proof.Claims.BarrierArrive ∧ Sys2Proof.Claims.BarrierWait

/-- R275 to R277, R341: the page commands of a pool in service.
Readings of the model: log 19 and 70. -/
def Obligations.PageCommands : Prop := Sys2Proof.Claims.PageAllocate ∧ Sys2Proof.Claims.PageReferences

/-- R355, R359 to R364: the batch shape, the sequence commands and the stop tokens.
Readings of the model: log 82. -/
def Obligations.SequencerCommands : Prop := 
  Sys2Proof.Claims.BatchShape ∧ Sys2Proof.Claims.SequenceCommands ∧ Sys2Proof.Claims.SequenceAdmission ∧ Sys2Proof.Claims.SequenceRetirement ∧
  Sys2Proof.Claims.StopTokens

/-- R311, R315 to R318, R320, R321: index objects bound and torn down, cursors, slots and matching.
Readings of the model: log 81. -/
def Obligations.IndexObjects : Prop := Sys2Proof.Claims.IndexBinding ∧ Sys2Proof.Claims.IndexCursors

/-- R312, R319, R322, R324 to R326: the own index extended, and proposals laid out and accepted.
Readings of the model: log 81. -/
def Obligations.IndexExtendPropose : Prop := Sys2Proof.Claims.IndexExtend ∧ Sys2Proof.Claims.IndexPropose

/-! ## Copies -/

/-- R227, R228, R234: CPY, CPY2D, GATHR and SCATR on the access hart, with no barrier or token asked for and fewer than 32 outstanding, enter a command
with its operands as they stand, a fresh ticket in rd and the code its operands earn, and move nothing yet; with 32 outstanding they wait. CPWAIT
answers the status of a completed ticket, code 10 for one not kept, or the kept status once nothing is outstanding, with the hart's view holding
what is performed, and waits otherwise. -/
def Sys2Proof.Claims.CopyIssue : Prop :=
  (∀ (fn : Nat) (i : Instr) (rd rs1 rs2 rs3 : BitVec 5) (s : State),
    (fn = 0 ∧ i = .cpy rd rs1 rs2 rs3) ∨ (rs3.getLsbD 0 = false ∧ rs3 ≠ 0 ∧
      ((fn = 1 ∧ i = .cpy2d rd rs1 rs2 rs3) ∨ (fn = 2 ∧ i = .gathr rd rs1 rs2 rs3) ∨ (fn = 3 ∧ i = .scatr rd rs1 rs2 rs3))) →
    s.cur.val % 2 = 0 →
    (s.me.copies.length < 32 → s.me.cpbar.getLsbD 0 = false → s.me.cpbar.getLsbD 1 = false →
      ∃ t c, exec i s = .next t ∧ t.me.copies = s.me.copies ++ [c] ∧ c.fn = fn ∧ c.a1 = (s.me.xr rs1).toNat ∧ c.a2 = (s.me.xr rs2).toNat ∧
        c.p0 = (s.me.xr rs3).toNat ∧ c.p1 = (s.me.xr (rs3 + 1)).toNat ∧ c.rq = s.reqFor s.cur ∧ c.seq = s.me.copySeq ∧
        c.ticket = s.me.copySeq % 65535 + 1 ∧ c.done = 0 ∧ c.attach = none ∧ c.cq = none ∧
        c.q = (if fn = 3 then none else chuteWindow c.a1) ∧ c.stopAt = (if c.code = 0 then c.total else 0) ∧
        c.code = c.issueCode ((s.crewAt (crewOf s.cur)).chute (c.q.getD 0)).copyFed ((s.crewAt (crewOf s.cur)).chute (c.q.getD 0)).isToken ∧
        answered s t rd (s.me.copySeq % 65535 + 1) ∧ t.mem = s.mem ∧ t.crews = s.crews) ∧
    (32 ≤ s.me.copies.length → ∃ t, exec i s = .next t ∧ t.me.stalled = some .copySlots ∧ t.me.pc = s.me.pc ∧ t.me.x = s.me.x ∧
      t.me.copies = s.me.copies ∧ t.mem = s.mem)) ∧
  (∀ rd (rs1 : BitVec 5) s, rs1 ≠ 0 → s.cur.val % 2 = 0 →
    let n := (s.me.xr rs1).toNat % 2 ^ 16
    ((∀ c ∈ s.me.copies, c.ticket ≠ n) → ∃ t, exec (.cpwait rd rs1) s = .next t ∧ t.mem = s.mem ∧ t.crews = s.crews ∧ caughtUp t ∧
      answered s t rd (((s.me.doneWords.find? fun e => e.1 = n).map Prod.snd).getD (statusIs 0 n 10)).toNat) ∧
    ((∃ c ∈ s.me.copies, c.ticket = n) → ∃ t, exec (.cpwait rd rs1) s = .next t ∧ t.me.stalled = some .cpwait ∧ t.me.pc = s.me.pc ∧ t.me.x = s.me.x)) ∧
  (∀ rd s, s.cur.val % 2 = 0 →
    (s.me.copies = [] → ∃ t, exec (.cpwait rd 0) s = .next t ∧ t.mem = s.mem ∧ t.crews = s.crews ∧ caughtUp t ∧ t.me.keptFail = none ∧ t.me.keptLast = none ∧
      answered s t rd (match s.me.keptFail, s.me.keptLast with | some e, _ => e.2 | none, some e => e.2 | none, none => 0).toNat) ∧
    (s.me.copies ≠ [] → ∃ t, exec (.cpwait rd 0) s = .next t ∧ t.me.stalled = some .cpwait ∧ t.me.pc = s.me.pc ∧ t.me.x = s.me.x))

/-- R229, R230, R235, R236, R221, R387: COPY_UNIT of a CPY whose bytes are at hand moves the next bytes, up to the end of a 64-byte line of the destination, from source to destination and
nothing else;
COPY_COMPLETE of a command with no unit left appends its token, keeps its status word and ends it; TRAIN_ACK of a sent train marks it acknowledged. -/
def Sys2Proof.Claims.CopyEngine : Prop :=
  (∀ (s : State) (core n : Nat) (c : CopyCmd) (ps pd : Nat),
    let h := 2 * n
    let k := min (64 - (c.a1 + c.done) % 2 ^ 64 % 64) (c.stopAt - c.done)
    let src := (c.a2 + c.done) % 2 ^ 64
    let dst := (c.a1 + c.bytes) % 2 ^ 64
    let old := s.viewBytes (hartView h) (.engine h .C c.seq) ps k
    s.memOk → core < 64 →
    (crewOrder core (s.coreAt core).copyPtr).findSome? (fun m => (s.copyPick (2 * m) [] (s.hartAt (2 * m)).copies).map fun d => (m, d)) = some (n, c) →
    n < 256 → c.fn = 0 → c.q = none → c.part = [] → c.bytes = c.done → c.elem = none → 0 < k → src + k ≤ 2 ^ 64 → dst + k ≤ 2 ^ 64 →
    (∀ d ∈ (s.hartAt h).copies, d.seq = c.seq → d = c) →
    placedFor s c.rq src .read ps k → s.readRefused c.rq.world ps k = false → soundLines s ps k →
    placedFor s c.rq dst .write pd k → (∀ j m, j + m ≤ k → 0 < m → plainPlace s c.rq.world (pd + j) m ∧ steady s (pd + j) m) →
    ∃ t, exec (.copyUnit core) s = .next t ∧ t.homeBytes pd k = old ∧ (∀ a, (a < pd ∨ pd + k ≤ a) → t.homeByte a = s.homeByte a) ∧
      (∀ d ∈ (t.hartAt h).copies, d.seq = c.seq → d = { c with done := c.done + k, bytes := c.bytes + k, part := [] }) ∧
      (∀ g : Fin 512, t.harts[g].x = s.harts[g].x ∧ csrsSame s.harts[g] t.harts[g] ∧ vectorsSame s.harts[g] t.harts[g]) ∧ t.crews = s.crews) ∧
  (∀ (s : State) (h ticket : Nat) (c : CopyCmd),
    let code := if c.trains = [] then c.code else (c.result).1
    let dn := if c.trains = [] then c.stopAt else (c.result).2
    h < 512 → copyOf s h ticket = some c → s.copyOver h c = true → c.attach = none →
    ∃ t, exec (.copyComplete (h / 8) h ticket) s = .next t ∧ (∀ d ∈ (t.hartAt h).copies, d.seq ≠ c.seq) ∧
      (t.hartAt h).doneWords.head? = some (c.ticket, statusIs dn c.ticket code) ∧
      (∀ w ∈ t.writes, w.who = .engine h .C c.seq → 3 ≤ w.scope) ∧ t.mem = s.mem ∧
      (match c.cq with
        | none => t.crews = s.crews
        | some q => ((t.crewAt (h / 2)).chute q).entries = ((s.crewAt (h / 2)).chute q).entries ++ [⟨statusIs dn c.ticket code, false, .token c.seq⟩] ∧
            c.seq ∉ ((t.crewAt (h / 2)).chute q).tokens) ∧
      (code ≠ 0 → (s.hartAt h).keptFail = none → (t.hartAt h).keptFail = some (c.seq, statusIs dn c.ticket code)) ∧
      (code = 0 → (t.hartAt h).keptFail = (s.hartAt h).keptFail)) ∧
  (∀ (s : State) (h ticket dev i : Nat) (c : CopyCmd) (u : Train),
    h < 512 → copyOf s h ticket = some c → c.trains.findIdx? (fun t => t.dev = dev && t.st = .sent) = some i → c.trains[i]? = some u →
    (∀ d ∈ (s.hartAt h).copies, d.seq = c.seq → d = c) →
    ∃ t, exec (.trainAck (h / 8) h ticket dev true) s = .next t ∧ t.mem = s.mem ∧ t.crews = s.crews ∧
      ∀ d ∈ (t.hartAt h).copies, d.seq = c.seq →
        d.trains = c.trains.set i { u with st := .acked } ∧ d.bytes = c.bytes + c.esz * u.elems.length)

/-! ## The matrix array -/

/-- R253, R254, R269: MCFG.ACQ goes on while the crew has the lease and otherwise joins the core's queue and waits; LEASE_GRANT gives the lease to the head of the queue
with the array zeroed; MCFG.REL gives it back; each other tile instruction without it traps with cause 13, stval 1 after a revocation. -/
def Sys2Proof.Claims.MatrixLease : Prop :=
  (∀ s, s.cur.val % 2 = 1 → s.me.vstate ≠ 0 → (s.crewAt (crewOf s.cur)).lease ≠ .none → exec .mcfgAcq s = .next (s.mapMe tileAfter)) ∧
  (∀ s, s.cur.val % 2 = 1 → s.me.vstate ≠ 0 → (s.crewAt (crewOf s.cur)).lease = .none → (s.crewAt (crewOf s.cur)).leaseWait = false →
    ∃ t, exec .mcfgAcq s = .next t ∧ t.me.stalled = some .lease ∧ t.me.pc = s.me.pc ∧ t.me.x = s.me.x ∧ t.mem = s.mem ∧
      (t.coreAt (coreOf s.cur)).leaseQueue = (s.coreAt (coreOf s.cur)).leaseQueue ++ [crewOf s.cur]) ∧
  (∀ s, s.cur.val % 2 = 1 → s.me.vstate ≠ 0 →
    let n := crewOf s.cur
    ∃ t, exec .mcfgRel s = .next t ∧ (t.crewAt n).lease = .none ∧ (t.crewAt n).leaseWait = false ∧ (t.crewAt n).mqueue = [] ∧
      n ∉ (t.coreAt (coreOf s.cur)).leaseQueue ∧ ((s.crewAt n).lease = .held → arrayAt t (coreOf s.cur) = MxArray.zero) ∧
      t.me.x = s.me.x ∧ t.me.pc = (atIssue s).me.pc + 8 ∧ t.mem = (atIssue s).mem) ∧
  (∀ (s : State) core n r, core < 64 → n < 256 → s.leaseHolder core = none → (s.coreAt core).leaseQueue = n :: r → n / 4 = core → (s.crewAt n).lease = .none →
    ∃ t, exec (.leaseGrant core) s = .next t ∧ (t.crewAt n).lease = .held ∧ (t.crewAt n).leaseWait = false ∧ (t.coreAt core).leaseQueue = r ∧
      arrayAt t core = MxArray.zero ∧ t.mem = s.mem ∧ ∀ m : Fin 256, m.val ≠ n → t.crews[m] = s.crews[m]) ∧
  (∀ i s, (i = .mswap ∨ i = .mwait ∨ (∃ t, i = .mzero t) ∨ (∃ r, i = .mcfgSet r) ∨ (∃ q f, i = .mlds q f) ∨
      (∃ a b t r f, i = .mstrm a b t r f) ∨ ∃ d t r f e b, i = .mdrain d t r f e b) →
    s.cur.val % 2 = 1 → s.me.vstate ≠ 0 → (s.crewAt (crewOf s.cur)).lease = .none →
    ∃ t, exec i s = .next t ∧ t.me.scause = 13 ∧ t.me.stval = (if (s.crewAt (crewOf s.cur)).revoked then 1 else 0) ∧ t.me.sepc = s.me.pc ∧
      t.me.sup = true ∧ t.me.pc = s.me.stvec &&& ~~~ 3 ∧ t.me.x = s.me.x ∧ vectorsSame s.me t.me ∧ t.mem = s.mem ∧
      ((s.crewAt (crewOf s.cur)).leaseWait = false → t.cores = s.cores))

/-- R257, R254, R261, R262, R264, R265: with the lease, MCFG.SET, MSWAP, MZERO, MSTRM and MDRAIN post one entry at the end of the matrix queue and go on, MSTRM and MDRAIN with
their rows and format checked at issue; MWAIT goes on once every posted entry has executed, in order. -/
def Sys2Proof.Claims.MatrixPost : Prop :=
  (∀ rs1 s, tileReady s → exec (.mcfgSet rs1) s = .next (posted s (.set (s.me.xr rs1)))) ∧
  (∀ s, tileReady s → exec .mswap s = .next (posted s .swap)) ∧
  (∀ tile s, tileReady s → exec (.mzero tile) s = .next (posted s (.zero tile.toNat))) ∧
  (∀ va vsc tile rows fmt s, tileReady s →
    let nr := tileRows rows s.me.vln (mxK fmt.toNat)
    (rows = 0 → vtFmt s.me.vt = some fmt.toNat) → nr * mxK fmt.toNat * mxWidth fmt.toNat ≤ 1024 * s.me.lanes.length →
    (s.me.bl = 0 → vsc = 0) → (fmt.toNat = 4 ↔ activeFmt s = 4) →
    exec (.mstrm va vsc tile rows fmt) s = .next (posted s (.strm va vsc tile.toNat nr fmt.toNat s.me.bl s.me.issued))) ∧
  (∀ vd tile rows fmt epi vb s, tileReady s →
    let nr := tileRows rows s.me.vln 192
    (rows = 0 → vtFmt s.me.vt = some fmt.toNat) → nr * 192 * mxWidth fmt.toNat ≤ 1024 * s.me.lanes.length → (epi ≠ 0 → 6 ≤ s.me.lanes.length) →
    exec (.mdrain vd tile rows fmt epi vb) s = .next (posted
      (s.mapMe fun h => { h with vdirty := h.vdirty ||| BitVec.ofNat 32 (2 ^ vd.toNat), vstate := 2 }) (.drain vd vb tile.toNat nr fmt.toNat epi.toNat s.me.issued))) ∧
  (∀ s, tileReady s → exec .mwait s = .next ((s.mxDrain (crewOf s.cur)).mapMe tileAfter))

/-- R254, R255, R260 to R265, R50: the array executes the entry at the head of the holder's queue: cursors set, planes exchanged, a tile zeroed, rows streamed (each element of
a row the old one plus the exact sum of products, rounded once) and rows drained with their epilogue; an event of another kind than the head does
nothing. MLDS fills the shadow plane from the units of its chute.
Readings of the model: log 5. -/
def Obligations.MatrixExecute : Prop :=
  (∀ s core n r v, nextEntry s core n (.set v) r →
    let tile := Fin.ofNat 4 (v.toNat % 4)
    ∃ t, exec (.mcfgSetExecute core) s = .next t ∧ (t.crewAt n).mqueue = r ∧ t.mem = s.mem ∧ t.harts = s.harts ∧
      (arrayAt t core).scur[tile] = (if v.getLsbD 24 then bits v.toNat 13 8 else (arrayAt s core).scur[tile]) ∧
      (arrayAt t core).dcur[tile] = (if v.getLsbD 25 then bits v.toNat 21 16 else (arrayAt s core).dcur[tile]) ∧
      (arrayAt t core).tiles = (arrayAt s core).tiles ∧ (arrayAt t core).act = (arrayAt s core).act) ∧
  (∀ s core n r, nextEntry s core n .swap r →
    ∃ t, exec (.mswapExecute core) s = .next t ∧ (t.crewAt n).mqueue = r ∧ t.mem = s.mem ∧ (arrayAt t core).act = (arrayAt s core).shd ∧
      (arrayAt t core).shd = (arrayAt s core).act ∧ (arrayAt t core).tiles = (arrayAt s core).tiles) ∧
  (∀ s core n r tile, nextEntry s core n (.zero tile) r → tile < 4 →
    ∃ t, exec (.mzeroExecute core) s = .next t ∧ (t.crewAt n).mqueue = r ∧ t.mem = s.mem ∧
      (∀ k : Fin 4, (arrayAt t core).tiles[k] = (if k.val = tile then 0 else (arrayAt s core).tiles[k]) ∧
        (arrayAt t core).rowPoison[k] = (if k.val = tile then 0 else (arrayAt s core).rowPoison[k]) ∧
        (arrayAt t core).scur[k] = (if k.val = tile then 0 else (arrayAt s core).scur[k]) ∧
        (arrayAt t core).dcur[k] = (if k.val = tile then 0 else (arrayAt s core).dcur[k])) ∧ (arrayAt t core).act = (arrayAt s core).act) ∧
  (∀ s core n r va vsc tile nr fmt bl pt, nextEntry s core n (.strm va vsc tile nr fmt bl pt) r → n < 256 → tile < 4 → nr ≤ 64 →
    let h := s.hartAt (2 * n + 1)
    let a := arrayAt s core
    let row (j : Nat) : Nat := (a.scur[Fin.ofNat 4 tile] + j) % 64
    let x (j k : Nat) : FVal := (mulVal (mxDecode fmt (h.elem va (mxWidth fmt) (j * mxK fmt + k)))
      (decodeE8M0 (if bl = 0 then 127 else h.elem vsc 8 ((j * mxK fmt + k) / bl)))).1
    let terms (j c : Nat) : List FVal := (List.range (mxK fmt)).map fun k => (mulVal (x j k) (mulVal (a.act.weight c k) (a.act.scale c k)).1).1
    ∃ t, exec (.mstrmExecute core) s = .next t ∧ (t.crewAt n).mqueue = r ∧
      (∀ j c, j < nr → c < 192 → (arrayAt t core).acc tile (row j) c =
        (packVal fp32 .rne ((terms j c).foldl (fun u v => (addVal .rne u v).1) (decodeIeee fp32 true (a.acc tile (row j) c)))).1) ∧
      (∀ q c, q < 64 → c < 192 → (∀ j, j < nr → row j ≠ q) → (arrayAt t core).acc tile q c = a.acc tile q c) ∧
      (∀ k : Fin 4, k.val ≠ tile → (arrayAt t core).tiles[k] = a.tiles[k] ∧ (arrayAt t core).scur[k] = a.scur[k]) ∧
      (nr ≠ 0 → (arrayAt t core).scur[Fin.ofNat 4 tile] = (a.scur[Fin.ofNat 4 tile] + nr) % 64) ∧ (arrayAt t core).act = a.act ∧
      (t.hartAt (2 * n + 1)).v = h.v) ∧
  (∀ s core n r vd vb tile nr fmt epi pt, nextEntry s core n (.drain vd vb tile nr fmt epi pt) r → n < 256 → tile < 4 → epi < 4 →
    192 * nr * mxWidth fmt ≤ 16384 →
    let h := s.hartAt (2 * n + 1)
    let a := arrayAt s core
    let w := mxWidth fmt
    let row (j : Nat) : Nat := (a.dcur[Fin.ofNat 4 tile] + j) % 64
    let f32 (q : BitVec 5) (c : Nat) : FVal := decodeIeee fp32 true (h.elem q 32 c)
    let y (j c : Nat) : FVal :=
      let v := decodeIeee fp32 true (a.acc tile (row j) c)
      let v := if epi % 2 = 1 then (mulVal v (f32 (if epi = 3 then vb + 1 else vb) c)).1 else v
      if 2 ≤ epi then (addVal .rne v (f32 vb c)).1 else v
    ∃ t, exec (.mdrainExecute core) s = .next t ∧ (t.crewAt n).mqueue = r ∧
      (∀ j c, j < nr → c < 192 → (t.hartAt (2 * n + 1)).elem vd w (192 * j + c) = drainRound fmt (y j c) % 2 ^ w) ∧
      (∀ b, 192 * nr * w ≤ b → b < 16384 → ((t.hartAt (2 * n + 1)).vr vd).getLsbD b = (h.vr vd).getLsbD b) ∧
      (∀ q, q ≠ vd → (t.hartAt (2 * n + 1)).vr q = h.vr q) ∧ (arrayAt t core).tiles = a.tiles ∧
      (nr ≠ 0 → (arrayAt t core).dcur[Fin.ofNat 4 tile] = (a.dcur[Fin.ofNat 4 tile] + nr) % 64)) ∧
  (∀ s core n e r, nextEntry s core n e r → e ≠ .swap → exec (.mswapExecute core) s = .next s) ∧
  (∀ q fmt s es,
    let u := atIssue s
    let a := arrayAt u (coreOf s.cur)
    let units := if fmt.toNat = 3 then 2400 else 3168
    let vst := u.me.vst
    let c := myChute u q
    let unit (k : Nat) : Nat := (es.getD (2 * (k - vst)) 0).toNat + (es.getD (2 * (k - vst) + 1) 0).toNat * 2 ^ 64
    tileReady s → c.copyFed = true → c.head = 0 → es = c.entries.map ChEntry.bits → vst < units → 2 * (units - vst) ≤ es.length →
    ∃ t, exec (.mlds q fmt) s = .next t ∧
      let p := (arrayAt t (coreOf s.cur)).shd
      p.fmt = fmt.toNat ∧ (∀ k, vst ≤ k → k < 96 → getField p.scales (128 * k) 128 = unit k) ∧
      (∀ k, vst ≤ k → 96 ≤ k → k < units → getField p.weights (128 * (k - 96)) 128 = unit k) ∧
      (∀ k, k < vst → k < 96 → getField p.scales (128 * k) 128 = getField a.shd.scales (128 * k) 128) ∧
      (∀ k, k < vst → 96 ≤ k → getField p.weights (128 * (k - 96)) 128 = getField a.shd.weights (128 * (k - 96)) 128) ∧
      p.poison = ((c.entries.take (2 * (units - vst))).any (fun e => e.poison) || (vst != 0 && a.loadBad)) ∧
      (myChute t q).entries = c.entries.drop (2 * (units - vst)) ∧ t.me.vstart = 0 ∧ t.me.pc = u.me.pc + 8 ∧ t.me.instret = u.me.instret + 1 ∧
      t.me.x = u.me.x ∧ vectorsSame u.me t.me ∧ (arrayAt t (coreOf s.cur)).act = a.act ∧ (arrayAt t (coreOf s.cur)).tiles = a.tiles ∧ othersSame u t)

/-! ## The Sluice -/

/-- R285 to R289: PGSUB with a record and pool it can use, in a layer its domain takes, enters a subscription and starts its query, and with others
answers 7, 8, 5, 6 or 9 and changes nothing; PGOPEN of the layer in turn opens its pass over the collected subscriptions, which ends at once when
no page is to be fetched, and answers 7 or 6 for another layer; MBSET binds a merge buffer in the die's pool SRAM, or releases it, or answers 5
while a query is busy.
Readings of the model: log 79. -/
def Obligations.SluiceCommands : Prop :=
  (∀ rd rs1 rs2 (s u1 : State) (bs : List Byte) p b,
    let w := waited s [rs1, rs2]
    let va := (s.me.xr rs1).toNat
    let word (k : Nat) : Nat := leValue ((bs.drop (8 * k)).take 8)
    let g := u1.groupOf (crewOf s.cur)
    let layer := bits (word 1) 63 48
    let first := bits (word 1) 23 0
    let count := bits (word 1) 47 24
    let mq := bits (word 3) 55 48
    let c := (u1.crewAt (crewOf s.cur)).chute (bits (word 2) 27 24)
    let code := if subOk (word 0) (word 1) (word 2) (word 3) (u1.poolDesc p) b = false then 7 else if c.copyFed = false ∨ c.isToken = true then 8
      else if qBusy (u1.query b mq) = true then 5 else if g.join layer = .wrong then 6 else if 1024 ≤ u1.liveSubs (s.cur.val / 64) then 9 else 0
    s.memOk → va % 32 = 0 → w.engBytes (sluiceAt w) va 32 = (u1, .ok bs) → u1.poolSeen (sluiceAt w) (s.me.xr rs2).toNat = (u1, .ok p) → g.bind = some b →
    (code ≠ 0 → ∃ t, exec (.pgsub rd rs1 rs2) s = .next t ∧ answered u1 t rd code ∧ t.mem = u1.mem ∧ t.groups = u1.groups ∧ t.subs = u1.subs) ∧
    (code = 0 → ∃ t x, exec (.pgsub rd rs1 rs2) s = .next t ∧ answeredWoken u1 t rd (if g.join layer = JoinAs.late then 256 else 0) ∧ x ∈ t.subs ∧
      x.id = u1.nextSub ∧ x.gseq = g.gseq ∧ x.hart = s.cur ∧ x.pool = p.pa ∧ x.bt = word 0 ∧ x.layer = layer ∧ x.first = first ∧ x.count = count ∧
      x.mq = mq ∧ (x.late = true ↔ g.join layer = JoinAs.late) ∧ t.nextSub = u1.nextSub + 1 ∧
      (oneFrame b → mbSteady u1 b → let v := t.query b mq
        qF v = first ∧ qE v = first + count ∧ qBusy v = true ∧ qErr v = false ∧ qDone v = false))) ∧
  (∀ rd rs1 s u todo,
    let w := waited s [rs1]
    let v := (s.me.xr rs1).toNat
    let g := w.groupOf (crewOf s.cur)
    let us := g.csubs.filterMap s.subAt
    v < 2 ^ 16 → ((g.serving = none ∧ (g.collecting = none ∨ g.collecting = some v)) ∨ ∃ l, g.serving = some l ∧ v = (l + 1) % 2 ^ 16) →
    w.buildPass us .main = (u, some todo) →
    ∃ t x, exec (.pgopen rd rs1) s = .next t ∧ answered u t rd (us.length % 2 ^ 16 * 2 ^ 16) ∧ t.groupAt g.gseq = some x ∧
      x.serving = some v ∧ x.collecting = none ∧ x.csubs = [] ∧ (todo ≠ [] → x.passes.getLast? = some ⟨v, todo, [], []⟩) ∧
      (todo = [] → g.passes = [] → u.settled x = true → x.passes = [])) ∧
  (∀ rd rs1 s,
    let g := (waited s [rs1]).groupOf (crewOf s.cur)
    let v := (s.me.xr rs1).toNat
    (2 ^ 16 ≤ v → ∃ t, exec (.pgopen rd rs1) s = .next t ∧ answered s t rd 7 ∧ t.mem = s.mem ∧ t.groups = s.groups) ∧
    (v < 2 ^ 16 → ((∃ l, g.serving = some l ∧ v ≠ (l + 1) % 2 ^ 16) ∨ (g.serving = none ∧ ∃ c, g.collecting = some c ∧ c ≠ v)) →
      ∃ t, exec (.pgopen rd rs1) s = .next t ∧ answered s t rd 6 ∧ t.mem = s.mem ∧ t.groups = s.groups)) ∧
  (∀ rd rs2 s,
    let g := (waited s [0, rs2]).groupOf (crewOf s.cur)
    let busy := match g.bind with | some b => s.anyBusy b | none => false
    (busy = true → ∃ t, exec (.mbset rd 0 rs2) s = .next t ∧ answered s t rd 5 ∧ t.mem = s.mem ∧ t.groups = s.groups) ∧
    (busy = false → ∃ t, exec (.mbset rd 0 rs2) s = .next t ∧ answered s t rd 0 ∧ (∀ x ∈ t.groups, x.gseq = g.gseq → x.bind = none ∨ g.bind = none) ∧
      (g.bind ≠ none → s.groupAt g.gseq = some g → ∀ h ∈ t.held, ¬ (h.kind = .merge ∧ h.aux = g.gseq)))) ∧
  (∀ rd (rs1 rs2 : BitVec 5) s u fs,
    let w := waited s [rs1, rs2]
    let base := (s.me.xr rs1).toNat
    let cfg := (s.me.xr rs2).toNat
    let g := w.groupOf (crewOf s.cur)
    let b : MBind := { base := base, frames := fs, nq := bits cfg 8 0, slots := bits cfg 22 16, hn := bits cfg 27 24 + 1,
                       d := 16 * (bits cfg 36 32 + 1), full := [], empty := [] }
    rs1 ≠ 0 → base % 4096 = 0 → mbConfigOk cfg = true → g.bind = none →
    State.mbFrames (sluiceAt w) (s.cur.val / 64) ((base % 0x1_0000 + b.size + 0xFFFF) / 0x1_0000) (base / 0x1_0000 * 0x1_0000) w [] = (u, fs.map .ok) →
    (g.ctx ≠ 0 → u.ctxField g.ctx 295 276 + b.nq * b.slots ≤ u.ctxField g.ctx 231 212) →
    ∃ t x, exec (.mbset rd rs1 rs2) s = .next t ∧ answered u t rd 0 ∧ t.groupAt g.gseq = some x ∧ x.bind = some b ∧
      ∀ h ∈ mbHeld fs (base % 0x1_0000) b.size g.ctx g.gseq, h ∈ t.held)

/-- R289 to R294, R282: the Sluice fetches the next page of the domain in turn into a free stage, for a first or a missed delivery; delivers a fetched page two entries at a
time; reclaims a stage held too long, its deliveries missed; serves late joiners once the pass is scheduled; and places and merges a partial.
Readings of the model: log 77 and 78. -/
def Obligations.SluiceEvents : Prop :=
  (∀ (s u : State) die g l (again : Bool) st x r v p data, die < 8 → s.nextDomain die = some (g, l, again) → (s.dieAt die).freeStage = some st →
    l = x :: r → s.subAt x.sub = some v → s.poolAt x.pool = some p → prState (s.pageRec p x.page) ≠ 0 → prState (s.pageRec p x.page) ≠ 4 →
    s.engBytes v.agent ((pdBase (s.poolDesc p) + pdPageBytes (s.poolDesc p) * x.page) % 2 ^ 64) (pdPageBytes (s.poolDesc p)) = (u, .ok data) →
    ∃ t f, exec (if again then .sluiceRefetch die else .sluiceFetch die) s = .next t ∧ (t.dieAt die).fetches = (u.dieAt die).fetches ++ [f] ∧
      f.stage = some st ∧ f.pool = x.pool ∧ f.page = x.page ∧ f.data = data ∧ f.pairs = l ∧ f.left = l.length ∧ (t.dieAt die).turn = g.gseq ∧
      t.harts.map Hart.x = s.harts.map Hart.x) ∧
  (∀ (s : State) die sub v n d f p g, die < 8 → n < 256 → s.subAt sub = some v → s.groupAt v.gseq = some g → s.subCrew v = some n → v.hart / 64 = die → v.q < 16 →
    (s.dieAt die).delivs.find? (fun w => w.pair.sub = sub) = some d → (s.dieAt die).fetches.find? (fun x => x.id = d.fetch) = some f →
    s.poolAt d.pair.pool = some p → d.pos + 2 < d.last → 2 ≤ ((s.crewAt n).chute v.q).free →
    ∃ t, exec (.sluiceDelivery die sub) s = .next t ∧ t.mem = s.mem ∧ t.harts = s.harts ∧
      ((t.crewAt n).chute v.q).entries.map ChEntry.bits = ((s.crewAt n).chute v.q).entries.map ChEntry.bits ++
        [BitVec.ofNat 64 (delivEntry (s.poolDesc p) v f.data d.pair.j d.pos), BitVec.ofNat 64 (delivEntry (s.poolDesc p) v f.data d.pair.j (d.pos + 1))] ∧
      (∀ w ∈ (t.dieAt die).delivs, w.pair.sub = sub → w.fetch = d.fetch → w.pair = d.pair → w.pos = d.pos + 2 ∨ w ∈ (s.dieAt die).delivs)) ∧
  (∀ (s : State) die f, die < 8 → s.reclaimable die = some f → f.pairs.length < f.left →
    ∃ t, exec (.stageReclaim die) s = .next t ∧ t.harts = s.harts ∧
      (∀ x ∈ (t.dieAt die).fetches, x.id = f.id → x.stage = none ∧ x.pairs = [] ∧ x.left = f.left - f.pairs.length) ∧ t.mem = s.mem ∧
      (∀ x ∈ f.pairs, x.kind = .resume → x ∈ (t.dieAt die).resume) ∧
      ∀ x ∈ f.pairs, ∀ v g, x.kind ≠ .resume → s.subAt x.sub = some v → s.groupAt v.gseq = some g →
        ∃ g' p, t.groupAt v.gseq = some g' ∧ g'.passes.head? = some p ∧ { x with kind := .refetch } ∈ p.extra) ∧
  (∀ (s u : State) die g p r todo, die < 8 → s.groups.find? (fun x => x.die = die && (match x.passes with | q :: _ => q.todo.isEmpty && !q.late.isEmpty | [] => false)) = some g →
    g.passes = p :: r → s.buildPass (p.late.filterMap s.subAt) .late = (u, some todo) → todo.flatten ≠ [] → s.groupAt g.gseq = some g →
    ∃ t x, exec (.lateJoinerService die) s = .next t ∧ t.groupAt g.gseq = some x ∧ x.passes = { p with late := [], extra := p.extra ++ todo.flatten } :: r) ∧
  (∀ (s : State) die gseq mq g b i p, die < 8 → s.groupAt gseq = some g → g.die = die → g.inbox.findIdx? (fun x => x.mq = mq) = some i → g.inbox[i]? = some p →
    g.bind = some b → s.memOk → oneFrame b → mbSteady s b → mq < b.nq → 0 < b.slots →
    let v := s.query b mq
    let slot := b.stateOff mq (p.j % b.slots + 1)
    qBusy v = true → qF v ≤ p.j → p.j < qF v + b.slots → qF v < qE v →
    (∀ e ∈ b.full, e.1 = mq → e.2 % b.slots ≠ p.j % b.slots) → (∀ e ∈ b.empty, e.1 = mq → e.2 ≠ qF v ∧ e.2 ≠ qF v + 1) →
    (∀ e ∈ b.full, e.1 = mq → e.2 ≠ qF v ∧ e.2 ≠ qF v + 1) →
    ∃ t x b', exec (.partialMerge die gseq mq) s = .next t ∧ t.groupAt gseq = some x ∧ x.inbox = g.inbox.eraseIdx i ∧ x.bind = some b' ∧ t.harts = s.harts ∧
      slotHolds t b slot p ∧
      (p.j ≠ qF v → b' = { b with full := (mq, p.j) :: b.full } ∧ t.query b mq = v) ∧
      (p.j = qF v → b'.full = b.full ∧ b'.empty = b.empty ∧ qF (t.query b mq) = qF v + 1 ∧
        qDone (t.query b mq) = decide (qF v + 1 = qE v ∨ qDone v = true) ∧ qBusy (t.query b mq) = decide (qF v + 1 ≠ qE v) ∧
        ∀ head, head < b.hn → mergedHead s t b (b.stateOff mq 0 + head * (8 + 4 * b.d)) (p.m1.getD head 0xFF80_0000 % 2 ^ 32)
          (fun i => (if i = 0 then p.l1.getD head 0 else (p.o1.getD head []).getD (i - 1) 0) % 2 ^ 32)))

/-! ## The attention chain -/

/-- R295 to R300: VASCORE scores every slot from the cursor, VAEXP weighs them and sums the weights, VAACC adds the weighted values and posts the partial of the page, and VAFIN
writes the normalised output of a query that is over, each moving the chain on as R295 says.
Readings of the model: log 52 and 80. -/
def Obligations.AttentionChain : Prop :=
  (∀ vs2 q s es,
    let u := atIssue s
    let h := u.me
    let c := h.chain
    let n := c.slotEntries
    let qv (i : Nat) : FVal := decodeIeee h.fmt true (h.elem vs2 h.ew i)
    vecReady s (fun h => h.sew = 4 ∨ h.sew = 6) → h.acHn * h.acD ≤ h.vln → h.acGsh ≤ 4 → h.acFmt ≠ 3 → c.phase = 1 → c.cursor ≤ 64 →
    (myChute s q).copyFed = true → es = (myChute s q).entries → (∀ e ∈ es, e.poison = false) → (64 - c.cursor) * n ≤ es.length → slotsHold h n →
    (∀ i, i < h.acHn * h.acD → h.elemBad vs2 h.ew i = false) →
    ∃ t, exec (.vascore vs2 q) s = .next t ∧ t.me.chain.phase = 2 ∧ t.me.chain.hdr0 = c.hdr0 ∧ t.me.chain.hdr1 = c.hdr1 ∧
      (∀ k head, c.cursor ≤ k → k < 64 → head < h.acHn → t.me.chain.score k head =
        (if h.inWindow k then scoreOf h qv (slotElem h (slotBytes es n (k - c.cursor)) head) head else 0xFF80_0000)) ∧
      (∀ k head, k < c.cursor → head < 16 → t.me.chain.score k head = c.score k head) ∧
      (myChute t q).entries = es.drop ((64 - c.cursor) * n) ∧ t.me.x = h.x ∧ vectorsSame h t.me ∧ t.mem = u.mem ∧ t.me.vstart = 0 ∧
      t.me.pc = h.pc + 4 ∧ t.me.instret = h.instret + 1 ∧ chutesSameBut u t q ∧ othersSame u t) ∧
  (∀ s,
    let u := atIssue s
    let h := u.me
    let c := h.chain
    vecReady s (fun _ => True) → c.phase = 2 →
    ∃ t, exec .vaexp s = .next t ∧ t.me.chain.phase = 3 ∧
      (∀ head, head < h.acHn → t.me.chain.m1[Fin.ofNat 16 head] = BitVec.ofNat 32 (chainMax h c head) ∧
        t.me.chain.l1[Fin.ofNat 16 head] =
          BitVec.ofNat 32 ((List.range 64).foldl (fun a k => (packVal fp32 .rne (addVal .rne (dec32 a) (dec32 (chainWeight h c head k))).1).1) 0) ∧
        ∀ k, k < 64 → t.me.chain.score k head = chainWeight h c head k) ∧
      t.me.x = h.x ∧ vectorsSame h t.me ∧ t.mem = u.mem ∧ t.crews = u.crews ∧ t.me.vstart = 0 ∧ t.me.pc = h.pc + 4 ∧ t.me.instret = h.instret + 1 ∧
      othersSame u t) ∧
  (∀ q s es,
    let u := atIssue s
    let h := u.me
    let c := h.chain
    let n := c.slotEntries
    let from' := if c.phase = 3 then 0 else c.cursor
    let v (k head i : Nat) : FVal := slotElem h (slotBytes es n (k - from')) head i
    let acc (head i : Nat) : Nat := ((List.range 64).filter fun k => decide (from' ≤ k) && h.inWindow k).foldl
      (fun a k => (packVal fp32 .rne (addVal .rne (dec32 a) (mulVal (mulVal (dec32 (c.score k head)) (decodeE8M0 (hdrVScale c.hdr1))).1 (v k head i)).1).1).1)
      (if c.phase = 3 then 0 else getField (c.o1[Fin.ofNat 16 head]) (32 * i) 32)
    let g := u.groupOf (crewOf s.cur)
    vecReady s (fun _ => True) → (c.phase = 3 ∨ c.phase = 4) → c.cursor ≤ 64 → (myChute s q).copyFed = true → es = (myChute s q).entries →
    (∀ e ∈ es, e.poison = false) → (64 - from') * n ≤ es.length → slotsHold h n →
    ∃ t x p, exec (.vaacc q) s = .next t ∧ t.me.chain.phase = 0 ∧ t.groupAt g.gseq = some x ∧ x.inbox = g.inbox ++ [p] ∧
      p.mq = hdrMq c.hdr1 ∧ p.j = hdrJ c.hdr0 ∧
      (∀ head, head < h.acHn → p.m1[head]? = some (c.m1[Fin.ofNat 16 head]).toNat ∧ p.l1[head]? = some (c.l1[Fin.ofNat 16 head]).toNat ∧
        ∀ i, i < h.acD → ((p.o1.getD head []))[i]? = some (acc head i)) ∧
      (myChute t q).entries = es.drop ((64 - from') * n) ∧ t.me.x = h.x ∧ vectorsSame h t.me ∧ t.mem = u.mem ∧ t.me.vstart = 0 ∧
      t.me.pc = h.pc + 4 ∧ t.me.instret = h.instret + 1 ∧ chutesSameBut u t q ∧ othersSame u t) ∧
  (∀ rs1 vd s b,
    let u := atIssue s
    let h := u.me
    let g := u.groupOf (crewOf s.cur)
    let x := (h.xr rs1).toNat
    let n := h.acHn * h.acD
    let v := u.query b x
    let at' (i : Nat) : Nat := 128 + b.qb * x + i / b.d * (8 + 4 * b.d)
    let l (i : Nat) : FVal := dec32 (u.homeNat (b.pa (at' i + 4)) 4)
    let o (i : Nat) : FVal := dec32 (u.homeNat (b.pa (at' i + 8 + 4 * (i % b.d))) 4)
    vecReady s (fun h => 4 ≤ h.sew ∧ h.sew ≤ 6) → g.bind = some b → n ≤ h.vln → x < b.nq → h.acHn ≤ b.hn → h.acD = b.d → qBusy v = false →
    steady u (b.pa (64 + b.qb * x)) 8 →
    ∃ t, exec (.vafin rs1 vd) s = .next t ∧
      regWritten h t.me vd h.ew (fun i => if h.vst ≤ i ∧ i < n then
        some (if qErr v then h.fmt.canon else if (l i).isZero ∨ qDone v = false then 0 else (packVal h.fmt .rne (divVal (o i) (l i)).1).1)
        else none) ∧
      t.me.x = h.x ∧ t.me.k = h.k ∧ t.me.fcsr = h.fcsr ∧ t.me.vstart = 0 ∧ t.me.vl = h.vl ∧ t.me.pc = h.pc + 4 ∧ t.me.instret = h.instret + 1 ∧
      (∀ a, (a < b.pa (64 + b.qb * x) ∨ b.pa (64 + b.qb * x) + 8 ≤ a) → s.memOk → t.homeByte a = u.homeByte a) ∧ t.crews = u.crews ∧ othersSame u t)

/-- R227 to R236, R221, R387: copy commands issued, waited for, and carried out unit by unit. That CPWAIT leaves the hart's view holding all that is
performed, for a ticket not kept too, is the model's reading and goes beyond R234.
Readings of the model: log 68, 69, 73 and 76. -/
def Obligations.CopyCommands : Prop := Sys2Proof.Claims.CopyIssue ∧ Sys2Proof.Claims.CopyEngine

/-- R253, R254, R257, R261, R262, R264, R265, R269: the lease of the array, and the entries posted under it.
Readings of the model: log 5 and 20. -/
def Obligations.MatrixCommands : Prop := Sys2Proof.Claims.MatrixLease ∧ Sys2Proof.Claims.MatrixPost

/-! ## Steps of a hart with no encoding -/

/-- R394, R391, R385, R138: a standing pre-emption request, a pending and enabled mailbox or timer interrupt, each where nothing before it is due, is taken as a trap with
cause 14, or 1 or 2 with bit 63; while the hart may not take it nothing changes. R370: a user-mode hart at the end address ends. R8, R141, R223, R342, R402, R438, R441, R455,
R465: registers are written through the access codes of their fields. R78, R80, R206, R214, R340: a wait ends, a write enters a view, a tag retires, a cached translation
leaves where no hart pins it. That a hart which waits for another device takes nothing, and which harts issue, are the model's readings; a value written
to a CSR is stated for the fields of `maskedFields`, the others by CsrFields.
Readings of the model: log 9, 87, 94, 95 and 97. -/
def Obligations.HartEvents : Prop :=
  (∀ h s, timerDue s h → ∃ t, exec (.timerInterrupt h) s = .next t ∧ dueTaken s t h 2 true) ∧
  (∀ h s, mailboxDue s h → ∃ t, exec (.mailboxInterrupt h) s = .next t ∧ dueTaken s t h 1 true) ∧
  (∀ h s, requestDue s h → ∃ t, exec (.preemptionTrap h) s = .next t ∧ dueTaken s t h 14 false) ∧
  (∀ h s, (s.hartAt h).mayTake = false → (s.hartAt h).stalled ≠ some .wfi →
    exec (.timerInterrupt h) s = .next s ∧ exec (.mailboxInterrupt h) s = .next s ∧ exec (.preemptionTrap h) s = .next s) ∧
  (∀ h s, s.issuing h = true → (s.hartAt h).sup = false → (s.hartAt h).pc = 0xFFFF_FFFF_FFFF_F000 →
    exec (.endOfBody h) s = .next (s.mapHart h fun x => { x with ended := true, window := false })) ∧
  (∀ e ∈ maskedFields, ∀ h (csr : BitVec 11) v s, h < 512 → csr.toNat = e.1 → ∃ t, exec (.registerWrite (.csr h csr) v) s = .next t ∧
    e.2.1 (t.hartAt h) = e.2.2 (e.2.1 (s.hartAt h)) v ∧ (t.hartAt h).x = (s.hartAt h).x ∧ vectorsSame (s.hartAt h) (t.hartAt h) ∧
    hartsSameBut s t h ∧ t.crews = s.crews ∧ t.mem = s.mem) ∧
  (∀ h v s, exec (.registerWrite (.timer h) v) s = .next (s.mapHart h fun x => { x with timecmp := v })) ∧
  (∀ v s, exec (.registerWrite .mailbox v) s = .next { s with mbxDone := s.mbxDone && !v.getLsbD 1, mbxErr := s.mbxErr && !v.getLsbD 2 }) ∧
  (∀ i v s, i < 16 → ∃ t, exec (.registerWrite (.ideStatus i) v) s = .next t ∧
    (∀ j, j < 16 → t.denied.getLsbD j = (s.denied.getLsbD j && !(decide (j = i) && v.getLsbD 0))) ∧ t = { s with denied := t.denied }) ∧
  (∀ src base limit rd wr ctx v s, let w : Window := ⟨src, base, limit, rd, wr, ctx⟩
    ((s.admission.filter fun x => x.src = src).length < 16 ∨ v.getLsbD 0 = false) → ∃ t, exec (.registerWrite (.window src base limit rd wr ctx) v) s = .next t ∧
    (∀ x, x ∈ t.admission ↔ if x = w then v.getLsbD 0 = true else x ∈ s.admission) ∧ t = { s with admission := t.admission }) ∧
  (∀ h v s, h < 512 → ∃ t, exec (.qcfgWrite h v) s = .next t ∧ t.harts = s.harts ∧ t.mem = s.mem ∧ crewsSameBut s t (h / 2) ∧
    ∀ q : Fin 16, let c := (s.crewAt (h / 2)).chutes[q]
      (t.crewAt (h / 2)).chutes[q] = if c.entries = [] ∧ c.tokens = [] ∧ c.resv = 0 ∧ c.head = 0 ∧ c.feeder = none then { c with copyFed := v.getLsbD q } else c) ∧
  (∀ h s, ((s.crewAt (crewOf h)).preempt = true → exec (.sstatusLeave h) s = .next (s.mapHart h fun x => { x with left := true, window := false })) ∧
    ((s.crewAt (crewOf h)).preempt = false → exec (.sstatusLeave h) s = .next s)) ∧
  (∀ h v s, h < 512 → s.memOk →
    let ctx := (s.reqFor h).ctx
    ∃ t, exec (.viologWrite h v) s = .next t ∧ (t.hartAt h).violog = v &&& ~~~ 63 ∧ hartsSameBut s t h ∧ t.crews = s.crews ∧
      (ctx = 0 → t.mem = s.mem) ∧ (ctx ≠ 0 → ctxWord t ctx = putBits (ctxWord s ctx) 128 64 (v &&& ~~~ 63).toNat ∧ bytesSameBut s t (ctxPa ctx) 128)) ∧
  (∀ h s, exec (.hartStallEnd h) s = .next (s.mapHart h fun x => { x with stalled := none })) ∧
  (∀ h tag s, h < 512 → (s.hartAt h).run.bind Run.tag ≠ some tag → (s.hartAt h).run.bind Run.pops ≠ some tag → (∀ u ∈ (s.hartAt h).tags, u.id = tag → ∀ id ∈ u.needs, ∀ w ∈ s.writes, w.id = id → w.inView (.core (h / 8)) = true) →
    (∃ u ∈ (s.hartAt h).tags, u.id = tag) →
    ∃ t, exec (.tagRetire h tag) s = .next t ∧ (∀ u ∈ (t.hartAt h).tags, u.id ≠ tag ∧ u ∈ (s.hartAt h).tags) ∧
      (∀ r l, (t.hartAt h).xt r = .tags l → tag ∉ l) ∧ (t.hartAt h).x = (s.hartAt h).x ∧ csrsSame (s.hartAt h) (t.hartAt h) ∧
      vectorsSame (s.hartAt h) (t.hartAt h) ∧ hartsSameBut s t h ∧ t.mem = s.mem) ∧
  (∀ wid (view : Option View) s, ∃ t, exec (.viewAdvance wid view) s = .next t ∧ t.mem = s.mem ∧ t.harts = s.harts ∧ t.crews = s.crews ∧
    ∀ w ∈ t.writes, w.id = wid → match view with | some v => w.inView v = true ∧ scopeOfView w.who v ≤ w.scope | none => 5 ≤ w.scope) ∧
  (∀ n idx s, n < 64 →
    ((∀ e, (s.coreAt n).tlb[idx]? = some e → s.pinned e.ctx n = false) →
      ∃ t, exec (.tlbEviction (.core n) idx) s = .next t ∧ (t.coreAt n).tlb = (s.coreAt n).tlb.eraseIdx idx ∧ t.harts = s.harts ∧ t.mem = s.mem) ∧
    (∀ e, (s.coreAt n).tlb[idx]? = some e → s.pinned e.ctx n = true → exec (.tlbEviction (.core n) idx) s = .next s)) ∧
  (∀ n idx s, n < 8 →
    let held (ctx : Nat) : Prop := ∃ c, c / 8 = n ∧ s.pinned ctx c = true
    ((∀ e, (s.dieAt n).tlb[idx]? = some e → ¬ held e.ctx) →
      ∃ t, exec (.tlbEviction (.die n) idx) s = .next t ∧ (t.dieAt n).tlb = (s.dieAt n).tlb.eraseIdx idx ∧ t.harts = s.harts ∧ t.mem = s.mem) ∧
    ((∀ e, (s.dieAt n).walk[idx]? = some e → ¬ held e.ctx) →
      ∃ t, exec (.tlbEviction (.walk n) idx) s = .next t ∧ (t.dieAt n).walk = (s.dieAt n).walk.eraseIdx idx ∧ t.harts = s.harts ∧ t.mem = s.mem) ∧
    (∀ e, held e.ctx → ((s.dieAt n).tlb[idx]? = some e → exec (.tlbEviction (.die n) idx) s = .next s)))

/-! ## Queues, launches and crews -/

/-- R351, R353, R350, R426, R445: a notification sets N of the queue's descriptor, and a read of the register gives 0, unless the TDI of its world or a checkpoint that waits refuses it; a service step takes N and the records of the ring; a queue is mapped while a slot is free, and an
empty one unmapped after 65,536 clocks, or where its slot is wanted. R374, R367, R375: a pending launch whose dependence is met becomes ready with its descriptor's fields, and one
whose dependence failed is retired.
Readings of the model: log 84 and 85. -/
def Obligations.QueuesAndLaunches : Prop :=
  (∀ die num stream tbit s q, s.memOk → s.queueOf die num = some q → steady s q.pa 64 → s.stopping = false → s.tdiBars (s.ctxWorld q.ctx) stream tbit = false →
    (∃ t, exec (.queueNotify die num stream ⟨tbit, false, true⟩) s = .next t ∧ qdN (t.qdesc q) = true ∧
      bytesSameBut s t (q.pa + 24) 8 ∧ (∃ x ∈ t.queues, x.die = die ∧ x.num = num ∧ x.due = true) ∧ t.harts = s.harts) ∧
    exec (.queueNotify die num stream ⟨tbit, true, true⟩) s = .next { s with hostOut := ⟨0, 0, .response true (List.replicate 8 0), none, false⟩ :: s.hostOut }) ∧
  (∀ die num stream tbit (isRead : Bool) s q, s.queueOf die num = some q → (s.stopping = true ∨ s.tdiBars (s.ctxWorld q.ctx) stream tbit = true) →
    ∃ t, exec (.queueNotify die num stream ⟨tbit, isRead, true⟩) s = .next t ∧ t.queues = s.queues ∧ t.harts = s.harts ∧
      t.hostOut = (if isRead then ⟨0, 0, .response false [], none, false⟩ :: s.hostOut else s.hostOut)) ∧
  (∀ die num s q b, s.memOk → s.queueOf die num = some q → steady s q.pa 64 → q.mapped = true → (q.due = true ∨ qdN (s.qdesc q) = true) →
    let u := (s.putN q 0).setQueue { q with due := false }
    let d := u.qdesc q
    let w (i : Nat) : Nat := leValue ((b.drop (8 * i)).take 8)
    qdTail d = (qdHead d + 1) % 2 ^ 32 →
    State.hwRead (u.dieReq q.die q.ctx) 5 u ((qdBase d + 128 * (qdHead d % 2 ^ qdLogn d)) % 2 ^ 64) 128 [] = (u, .ok b) → w 1 = 0 →
    ∃ t l, exec (.queueServiceStep die num) s = .next t ∧ t.launches = s.launches ++ [l] ∧ t.nextLid = s.nextLid + 1 ∧ qdN (t.qdesc q) = false ∧
      qdHead (t.qdesc q) = qdTail (t.qdesc q) ∧ l.lid = s.nextLid ∧ l.seq = qdHead d ∧ l.st = .pending ∧ l.dep = .now ∧ l.desc = w 0 ∧
      l.args = (List.range 8).map (fun i => BitVec.ofNat 64 (w (2 + i))) ∧ l.statusVa = w 10 ∧ l.die = die ∧ l.queue = num ∧ l.ctx = q.ctx ∧ t.harts = s.harts) ∧
  (∀ die num s q, s.memOk → s.mapNext die = some q → steady s q.pa 64 → q.num = num → (s.queues.filter fun x => x.die = die && x.mapped).length < 16 →
    qdHead (s.qdesc q) = qdTail (s.qdesc q) → ∃ t, exec (.queueMap die num) s = .next t ∧
      (∀ x ∈ t.queues, x.die = die → x.num = num → x.mapped = true) ∧ qdN (t.qdesc q) = false ∧ t.launches = s.launches ∧ t.harts = s.harts) ∧
  (∀ die num s q, s.queueOf die num = some q → q.mapped = true → s.queueEmpty q = true →
    (q.emptyAt + 65536 ≤ s.clocksOf die ∨ s.slotWanted q = true) → qdN (s.qdesc q) = false →
    ∃ t, exec (.queueUnmap die num) s = .next t ∧ (∀ x ∈ t.queues, x.die = die → x.num = num → x.mapped = false) ∧ t.mem = s.mem ∧ t.harts = s.harts ∧
      t.launches = s.launches) ∧
  (∀ lid s l d tb, s.launchAt lid = some l → l.st = .pending → s.depMet l.ctx l.dep = some true →
    let rq := s.dieReq l.die l.ctx
    let n := bits d 194 192 + 1
    s.hwNat rq l.desc 64 = (s, .ok d) → kernelOk l.desc d = true → n ≤ 4 → s.hwNat rq (bits d 191 128) (8 * n) = (s, .ok tb) →
    (∀ i, i < n → loopOk (bits tb (64 * i + 63) (64 * i)) = true) →
    ∃ t x, exec (.launchReady lid) s = .next t ∧ t.launchAt lid = some x ∧ x.st = .ready ∧ x.aentry = BitVec.ofNat 64 (bits d 63 0) ∧
      x.eentry = BitVec.ofNat 64 (bits d 127 64) ∧ x.lanes = bits d 212 208 ∧ x.qcfg = bits d 239 224 ∧ x.scratch = bits d 415 384 ∧
      x.levels = (List.range n).map (fun i => ⟨bits tb (64 * i + 17) (64 * i + 16), bits tb (64 * i + 15) (64 * i) + 1⟩) ∧ x.args = l.args ∧
      x.readyAt = s.now ∧ x.places = s.placements l.die x.levels ∧ t.mem = s.mem ∧ t.harts = s.harts ∧ t.crews = s.crews) ∧
  (∀ lid s l, s.launchAt lid = some l → l.st = .pending →
    (s.depMet l.ctx l.dep = some false ∨ ∃ dev pa p a, l.dep = .remote dev pa p ∧ l.answer = some (false, a)) →
    ∃ t, exec (.launchReady lid) s = .next t ∧ (∀ x ∈ t.launches, x.lid ≠ lid) ∧ t.crews = s.crews)

/-- R369, R371, R374, R376, R377: dispatch puts both harts of the crew in the entry state, with an acquire for a launch that depends on another; a further iteration moves pc
and tidx only; a crew whose placement is over gives up what it holds, once no access of it is outstanding at another device. R375, R384: an abandoned launch stops its crews
whose placements are not over; the crew asked to leave for a waiting placement is the one R384 names. R240, R302, R328, R403, R408, R414: a crew is
switched out once its sections are written and its harts' writes are performed at module scope, and resumed at its trap vector with what the sections hold.
Readings of the model: log 2, 33, 34, 93, 114 and 115; the CAUSE of an abandoned launch is log 83. -/
def Obligations.Crews : Prop :=
  (∀ lid die s n l, die < 8 → n / 32 = die → s.bestItem die = some (.launch lid, n) → s.launchAt lid = some l →
    ∃ t, exec (.placementDispatch lid die) s = .next t ∧ (t.crewAt n).resident = some ⟨l.ctx, lid, (l.waitingOn die).1, 0⟩ ∧
      (t.crewAt n).launchid = BitVec.ofNat 64 (l.die * 2 ^ 40 + l.queue * 2 ^ 32 + l.seq) ∧ (t.crewAt n).preempt = false ∧ (t.crewAt n).lease = .none ∧
      (∀ q : Fin 16, (t.crewAt n).chutes[q] = Chute.empty (l.qcfg.testBit q)) ∧
      (t.crewAt n).spidx = BitVec.ofNat 64 (l.spidxOf die (l.waitingOn die).1) ∧ (t.crewAt n).tidx = BitVec.ofNat 64 (indexWord 2 0 l.levels) ∧
      (∀ r, r < 2 → let x := t.hartAt (2 * n + r)
        x.pc = (if r = 0 then l.aentry else l.eentry) ∧ x.xr 1 = 0xFFFF_FFFF_FFFF_F000 ∧ (x.xr 2).toNat % 64 = 0 ∧
        (∀ k : BitVec 5, 3 ≤ k → (k < 10 ∨ 18 ≤ k) → x.xr k = 0) ∧ (∀ k, k < 8 → x.xr (BitVec.ofNat 5 (10 + k)) = l.args.getD k 0) ∧
        x.sup = false ∧ x.fcsr = 0 ∧ x.vl = 0 ∧ x.vtype = 0 ∧ x.vstate = 3 ∧ x.sstatus = 0 ∧ x.instret = 0 ∧ x.ended = false ∧ x.left = false ∧
        t.bellPending (2 * n + r) = false ∧ (s.now % 2 ^ 64 ≠ 2 ^ 64 - 1 → t.timerPending (2 * n + r) = false)) ∧
      (l.dep ≠ .now → ∀ w ∈ t.writes, 3 ≤ w.scope → w.inView (.core (n / 4)) = true) ∧
      (∀ i : Fin 512, i.val / 2 ≠ n → t.harts[i] = s.harts[i]) ∧ crewsSameBut s t n) ∧
  (∀ n s r l, n < 256 → (s.crewAt n).resident = some r → s.launchAt r.lid = some l → s.bothEnded n = true → (s.crewAt n).ending = false →
    (s.crewAt n).abandoned = false → r.iter + 1 < l.iterations →
    ∃ t, exec (.temporalRedispatch n) s = .next t ∧ (t.hartAt (2 * n)).pc = l.aentry ∧ (t.hartAt (2 * n + 1)).pc = l.eentry ∧
      (t.hartAt (2 * n)).ended = false ∧ (t.hartAt (2 * n + 1)).ended = false ∧ (t.crewAt n).resident = some { r with iter := r.iter + 1 } ∧
      (t.crewAt n).tidx = BitVec.ofNat 64 (indexWord 2 (r.iter + 1) l.levels) ∧ t.mem = s.mem ∧
      (∀ i : Fin 512, t.harts[i].x = s.harts[i].x ∧ csrsSame s.harts[i] t.harts[i] ∧ vectorsSame s.harts[i] t.harts[i]) ∧ crewsSameBut s t n) ∧
  (∀ n s r l, n < 256 → (s.crewAt n).resident = some r → s.launchAt r.lid = some l → s.bothEnded n = true → (s.crewAt n).ending = false →
    (s.crewAt n).abandoned = false → l.iterations ≤ r.iter + 1 → (s.hartAt (2 * n)).copies = [] →
    (∀ q ∈ s.requests, q.ticket < depTicket → q.hart / 2 ≠ n) →
    ∃ t, exec (.crewEnd n) s = .next t ∧ (t.crewAt n).resident = none ∧ (t.crewAt n).lease = .none ∧ (t.crewAt n).mqueue = [] ∧
      (∀ q : Fin 16, (t.crewAt n).chutes[q].entries = [] ∧ (t.crewAt n).chutes[q].tokens = []) ∧ (t.hartAt (2 * n + 1)).lanes = [] ∧
      (∀ g : Fin 16, (t.coreAt (n / 4)).lanes[g].owner ≠ some (2 * n + 1)) ∧ (∀ x ∈ t.launches, x.lid = r.lid → x.done = l.done + 1) ∧
      crewsSameBut s t n) ∧
  (∀ n s r l, n < 256 → (s.crewAt n).resident = some r → s.launchAt r.lid = some l → l.st = .running → (s.crewAt n).ending = false →
    (s.hartAt (2 * n)).sup = true →
    ∃ t x, exec (.launchAbandon n) s = .next t ∧ t.launchAt r.lid = some x ∧ x.st = .ending ∧ x.code = 1 ∧ x.crew = n ∧
      x.cause = (s.hartAt (2 * n)).scause.toNat % 2 ^ 8 ∧
      ∀ m y, m < 256 → (s.crewAt m).resident = some y → y.lid = r.lid →
        let gone : Prop := (s.crewAt m).ending = true ∨ (s.bothEnded m = true ∧ l.iterations ≤ y.iter + 1)
        (¬ gone → (t.crewAt m).abandoned = true ∧ (t.hartAt (2 * m)).ended = true ∧ (t.hartAt (2 * m + 1)).ended = true) ∧
        (gone → (t.crewAt m).abandoned = (s.crewAt m).abandoned)) ∧
  (∀ die item s l k, die < 8 → s.itemLaunch item = some l → s.mayRequest die item = some k →
    let v := s.victims die item l
    let prio := s.prioOf l
    ((∃ x ∈ v, x.2 < prio) → ∃ x ∈ v, x.2 < prio ∧ (∀ y ∈ v, y.2 < prio → x.2 ≤ y.2 ∧ (y.2 = x.2 → (s.crewAt y.1).since ≤ (s.crewAt x.1).since)) ∧
      exec (.preemptionRequest die item) s = .next (s.mapCrew x.1 fun c => { c with preempt := true, preemptBy := some (item, k) })) ∧
    (let ran (n : Nat) : Prop := (s.crewAt n).since + 2 ^ s.sliceLog ≤ s.clocksOf die
     (∀ x ∈ v, prio ≤ x.2) → 2 ^ s.sliceLog ≤ s.waited die item → (∃ x ∈ v, x.2 = prio ∧ ran x.1) →
      ∃ x ∈ v, x.2 = prio ∧ ran x.1 ∧ (∀ y ∈ v, y.2 = prio → ran y.1 → (s.crewAt x.1).since ≤ (s.crewAt y.1).since) ∧
      exec (.sliceExpiry die item) s = .next (s.mapCrew x.1 fun c => { c with preempt := true, preemptBy := some (item, k) }))) ∧
  (∀ n s r u w, n < 256 → (s.crewAt n).resident = some r → s.bothLeft n = true → (s.crewAt n).ending = false → (s.crewAt n).abandoned = false →
    s.copiesStill (2 * n) = true →
    inOrder [State.saveCopies n r.ctx, State.saveMatrix n r.ctx, State.saveChain n r.ctx, State.saveChutes n r.ctx, State.saveCursors n r.ctx,
      fun s => s.saveBytes n r.ctx 0 (s.saveHeader n)] s = (u, true) →
    let v := u.releaseCrew n
    v.saveBytes n r.ctx 0 (leBytesOf 8 (n / 4 * 2 ^ 24 + (u.hartAt (2 * n + 1)).lanes.length * 2 ^ 16 + 1)) = (w, true) →
    (∀ x ∈ v.writes, (∃ h b, x.who = .hart h b ∧ crewOf h = n) → 3 ≤ x.scope) ∧
    ∃ t p, exec (.switchOut n) s = .next t ∧ t.parked = w.parked ++ [p] ∧ p.resident = r ∧ p.core = n / 4 ∧ p.at' = s.now ∧
      (t.crewAt n).resident = none ∧ (t.crewAt n).preempt = false ∧ (t.crewAt n).lease = .none ∧ (t.hartAt (2 * n)).copies = [] ∧
      (t.hartAt (2 * n + 1)).lanes = [] ∧ (∀ a, (r.ctx = 0 ∨ a < ctxPa r.ctx ∨ ctxPa r.ctx + 128 ≤ a) → w.memOk → t.homeByte a = w.homeByte a)) ∧
  (∀ pid s p n u parts l, n / 32 = p.die → n < 256 → s.parkedAt pid = some p → s.bestItem p.die = some (.parked pid, n) →
    State.areaReads (s.crewReq n p.resident.ctx) p.msave.toNat areaParts s = (u, some parts) → u.launches = s.launches →
    s.launchAt p.resident.lid = some l → l.st ≠ .ending →
    let part (i : Nat) : List Byte := parts.getD i []
    let w (i : Nat) : Word := BitVec.ofNat 64 (wordOf (part 0) i)
    ∃ t, exec (.crewResume pid) s = .next t ∧ (∀ x ∈ t.parked, x.pid ≠ pid) ∧ (t.crewAt n).resident = some p.resident ∧ (t.crewAt n).preempt = false ∧
      (t.hartAt (2 * n + 1)).chain = Chain.load (part 2) ∧
      (∀ i : Fin 8,
        let c := Cursor.load (((part 3).drop (1280 * i)).take 1280)
        let c' := (t.crewAt n).cursors[i]
        c'.hlen = c.hlen ∧ c'.window = c.window ∧ c'.accN = c.accN ∧ c'.accT = c.accT ∧ c'.propT = c.propT ∧ (c.own = none → c'.own = none) ∧
        (∀ a g, c.own = some (a, g) → ∃ b, c'.own = some (b, g) ∧ ((u.ixLive a g).isSome = true → b = a)) ∧
        ∀ j : Fin 4, (c.slots[j] = .empty → c'.slots[j] = .empty) ∧
          ∀ a g m, c.slots[j] = .attached a g m → ∃ b, c'.slots[j] = .attached b g m ∧ ((u.ixLive a g).isSome = true → b = a)) ∧
      (t.hartAt (2 * n)).copySeq = wordOf (part 4) 0 ∧ (t.hartAt (2 * n)).copies.length = min (wordOf (part 4) 1) 32 ∧
      ∀ r, r < 2 → let x := t.hartAt (2 * n + r)
        x.sup = true ∧ x.pc = w (6 + 2 * r) &&& ~~~ 3 ∧ x.sscratch = w (7 + 2 * r) ∧ x.scause = 14 ∧ x.stval = 1 ∧ x.instret = w (2 + 2 * r) ∧
        x.sstatus.getLsbD 2 = true ∧ x.sstatus.getLsbD 0 = false ∧ x.vstate = 0 ∧ x.x = Vector.replicate 32 0)

/-! ## Contexts, pools, barriers from other devices -/

/-- R331 to R335: LIVE moves a free record that passes its checks, a quiescing or a quiesced one to live; QUIESCE asks every crew of a live context to leave, or quiesces it
at once; TEARDOWN ends what the context has; a torn down context loses its translations and its usage; RELEASE frees it. R271: a descriptor with VALID set
comes into service or loses VALID. R243, R246: an admitted arrival of another device counts at the record's home.
Readings of the model: log 14 to 16, 27 and 71. -/
def Obligations.ContextsAndHomes : Prop :=
  (∀ ctx s, s.memOk → commanded s ctx 1 → s.ctxState ctx = 0 → inMemory (s.ctxRoot ctx * 4096) = true →
    (s.ctxWorld ctx = 0 ∨ ((s.worldAt (s.ctxWorld ctx)).isOpen = true ∧ ctx ∈ (s.worldAt (s.ctxWorld ctx)).admitted)) →
    s.ctxField ctx 255 232 ≤ 0xFF_FFFE → s.ctxField ctx 196 192 ≤ 16 → nonCanonical (s.ctxLog ctx) = false → s.ctxLog ctx % 64 = 0 →
    s.ctxField ctx 6 6 = 0 →
    ∃ t, exec (.contextLive ctx) s = .next t ∧ recordBecomes s t ctx (putBits (putBits (putBits (ctxWord s ctx) 264 56 0) 0 3 1) 32 8 0) ∧
      t.ctxCmds = s.ctxCmds.erase (ctx, 1)) ∧
  (∀ ctx s, s.memOk → commanded s ctx 1 → (s.ctxState ctx = 2 ∨ s.ctxState ctx = 3) →
    ∃ t, exec (.contextLive ctx) s = .next t ∧ recordBecomes s t ctx (putBits (putBits (ctxWord s ctx) 0 3 1) 32 8 0)) ∧
  (∀ ctx s, s.memOk → commanded s ctx 2 → s.ctxState ctx = 1 →
    ∃ t, exec (.contextQuiesce ctx) s = .next t ∧
      recordBecomes s t ctx (putBits (putBits (ctxWord s ctx) 0 3 (if s.ctxField ctx 31 16 = 0 then 3 else 2)) 32 8 0) ∧
      ∀ n, n < 256 → mayBeAsked s n → (∃ r, (s.crewAt n).resident = some r ∧ r.ctx = ctx) → (t.crewAt n).preempt = true) ∧
  (∀ ctx s, commanded s ctx 3 → (s.ctxState ctx = 1 ∨ s.ctxState ctx = 2 ∨ s.ctxState ctx = 3) →
    ∃ t, exec (.contextTeardown ctx) s = .next t ∧ (∀ n : Fin 256, ∀ r, t.crews[n].resident = some r → r.ctx ≠ ctx) ∧
      (∀ p ∈ t.parked, p.resident.ctx ≠ ctx) ∧ (∀ l ∈ t.launches, l.ctx ≠ ctx) ∧ (∀ q ∈ t.queues, q.ctx = ctx → q.mapped = false) ∧
      (∀ p ∈ t.pools, p.ctx ≠ ctx) ∧ ∀ g ∈ t.groups, g.ctx ≠ ctx) ∧
  (∀ ctx s, s.memOk → s.ctxState ctx = 4 → (∀ r ∈ s.requests, r.ctx ≠ ctx) → s.ctxField ctx 7 7 = 0 →
    ∃ t, exec (.teardownComplete ctx) s = .next t ∧ recordBecomes s t ctx (putBits (putBits (ctxWord s ctx) 264 56 0) 0 3 5) ∧
      (∀ c : Fin 64, ∀ e ∈ t.cores[c].tlb, e.ctx ≠ ctx) ∧ (∀ d : Fin 8, (∀ e ∈ t.dies[d].tlb, e.ctx ≠ ctx) ∧ ∀ e ∈ t.dies[d].walk, e.ctx ≠ ctx) ∧
      ∀ e ∈ t.atc, e.pasid ≠ ctx) ∧
  (∀ ctx s, s.memOk → commanded s ctx 4 → (s.ctxState ctx = 5 ∨ s.ctxState ctx = 6) →
    ∃ t, exec (.contextRelease ctx) s = .next t ∧ recordBecomes s t ctx (putBits (putBits (ctxWord s ctx) 0 3 0) 32 8 0)) ∧
  (∀ pa s, s.memOk → inPool pa = true → pa % 64 = 0 → (∀ p ∈ s.pools, p.pa ≠ pa) →
    let d := s.homeNat pa 64
    pdValid d = true →
    ((pdFieldsOk d = false ∨ s.ctxDead (pdCtx d) = true) → ∃ t, exec (.poolValidate pa) s = .next t ∧ pdValid (t.homeNat pa 64) = false ∧ t.pools = s.pools ∧ bytesSameBut s t (pa + 24) 8) ∧
    (∀ fr, pdFieldsOk d = true → s.ctxDead (pdCtx d) = false →
      s.recFrames ⟨pdCtx d, s.ctxWorld (pdCtx d), s.ctxRoot (pdCtx d), true, 8 * poolDie pa, false⟩ (poolDie pa)
        ((pdRecs d % 0x1_0000 + 8 * pdPages d + 0xFFFF) / 0x1_0000) (pdRecs d - pdRecs d % 0x1_0000) [] = (s, some fr) →
      ∃ t, exec (.poolValidate pa) s = .next t ∧ t.poolAt pa = some ⟨pa, pdCtx d, pdPages d, pdRecs d % 0x1_0000, fr⟩ ∧ t.mem = s.mem ∧
        ∀ w n, 0 < n → n ≤ 64 → t.writeRefused w pa n = true)) ∧
  (∀ src pa m x ctx s, s.memOk → inPool pa = true → pa % 64 = 0 → s.admitted src pa 64 true = some ctx → s.readRefused (s.ctxWorld ctx) pa 64 = false →
    steady s pa 64 → 1 ≤ m → x < 2 ^ 40 →
    let v := s.homeNat pa 64
    brState v = 1 → brScope v = 4 → barrierSound v → arrivalFits v m →
    ∃ t, exec (.barrierNotice (.arrive src pa m x)) s = .next t ∧ arrives v (t.homeNat pa 64) m x ∧ bytesSameBut s t pa 64 ∧ t.harts = s.harts)

/-! ## Repair, reset, the checkpoint -/

/-- R172, R256, R415 to R420, R423, R424: what a scrub finds, a retired channel and its rebuild, a spare core and a spare row leave every value but what is lost, which is poisoned:
a line, a word of a register, a plane or a row of a tile. R426 to R428, R459: a checkpoint that must wait stops the machine; it keeps the registers of every hart, and a module
reset restores them and HBM, leaving LP6 as it is, or starts the machine anew.
Readings of the model: log 43 to 45, 48, 90 and 117. -/
def Obligations.RepairAndReset : Prop :=
  (∀ place s, exec (.patrolScrub place .clean) s = .next s) ∧
  (∀ pa f s, SMap.wf false s.poison = true → (inMemory pa = true ∨ inScratch pa = true) → inHbm pa = false → lost f →
    ∃ t, exec (.patrolScrub (.line pa) f) s = .next t ∧ t.poisoned pa = true ∧ (∀ a, a / 64 ≠ pa / 64 → t.poisoned a = s.poisoned a) ∧ t.harts = s.harts) ∧
  (∀ pa f s, f = .lasting ∨ f = .demand → inHbm pa = true → (s.parity[Fin.ofNat 16 (hbmPlace pa).1]).retired = none →
    ∃ t, exec (.patrolScrub (.line pa) f) s = .next t ∧ t.poison = s.poison ∧ t.harts = s.harts) ∧
  (∀ pa f s, f = .double ∨ f = .latentDouble → SMap.wf false s.poison = true → inHbm pa = true → (s.parity[Fin.ofNat 16 (hbmPlace pa).1]).retired = none →
    ∃ t, exec (.patrolScrub (.line pa) f) s = .next t ∧ t.poisoned pa = true ∧ (∀ a, a / 64 ≠ pa / 64 → t.poisoned a = s.poisoned a) ∧ t.harts = s.harts) ∧
  (∀ pa f m s, SMap.wf false s.poison = true → lost f → inHbm pa = true →
    (s.parity[Fin.ofNat 16 (hbmPlace pa).1]).retired = some m → s.hbmChannel pa / 16 ≠ m → ∃ t, exec (.patrolScrub (.line pa) f) s = .next t ∧
    t.poisoned pa = true ∧ t.needService = true ∧ t.harts = s.harts) ∧
  (∀ h reg word f s, h < 512 → word < 16 * (s.hartAt h).lanes.length → lost f → ∃ t, exec (.patrolScrub (.vreg h reg word) f) s = .next t ∧
    (t.hartAt h).vp reg = setField ((s.hartAt h).vp reg) (8 * word) 8 255 ∧ (∀ r, r ≠ reg → (t.hartAt h).vp r = (s.hartAt h).vp r) ∧
    (t.hartAt h).v = (s.hartAt h).v ∧ hartsSameBut s t h) ∧
  (∀ core f s, core < 64 → lost f →
    (∀ shadow, ∃ t, exec (.patrolScrub (.plane core shadow) f) s = .next t ∧
      (if shadow then (arrayAt t core).shd else (arrayAt t core).act).poison = true ∧ t.harts = s.harts) ∧
    (∀ tile row, tile < 4 → row < 64 → ∃ t, exec (.patrolScrub (.tileRow core tile row) f) s = .next t ∧
      (arrayAt t core).rowPoison[Fin.ofNat 4 tile].getLsbD row = true ∧ t.harts = s.harts)) ∧
  (∀ ch s, ch < 256 → (s.parity[Fin.ofNat 16 (ch % 16)]).retired = none → ∃ t, exec (.channelRetire ch) s = .next t ∧
    t.parity = s.parity.set (Fin.ofNat 16 (ch % 16)) ⟨some (ch / 16), 0⟩ ∧ t.poison = s.poison ∧ t.harts = s.harts) ∧
  (∀ (g : Fin 16) m s, s.stopping = false → s.parity[g].retired = some m → s.parity[g].cursor < 6291456 → ∃ t, exec (.rebuildRow g) s = .next t ∧
    t.parity = s.parity.set g ⟨some m, s.parity[g].cursor + 1⟩ ∧ t.poison = s.poison ∧ t.harts = s.harts) ∧
  (∀ core s, core < 64 → s.memOk → (s.coreAt core).scratchOwner = none → (∀ n, n / 4 = core → (s.crewAt n).resident = none) →
    (s.dieAt (core / 8)).spareUsed = false → ∃ t, exec (.coreSpare core true) s = .next t ∧ (t.coreAt core).inService = true ∧
      (t.dieAt (core / 8)).spareUsed = true ∧ (∀ a, scratchPa core 0 ≤ a → a < scratchPa (core + 1) 0 → t.homeByte a = 0) ∧ t.harts = s.harts ∧ t.crews = s.crews) ∧
  (∀ core s, core < 64 → (s.coreAt core).scratchOwner = none → (∃ n, n / 4 = core ∧ (s.crewAt n).resident ≠ none) →
    ∃ t, exec (.coreSpare core true) s = .next t ∧ (t.coreAt core).inService = false ∧ t.harts = s.harts ∧
      ∀ n, n / 4 = core → mayBeAsked s n → (t.crewAt n).preempt = true) ∧
  (∀ pa lines gone s, SMap.wf false s.poison = true → ((inPool pa = true ∧ (s.dieAt (poolDie pa)).spareRows < 1024) ∨ (inPool pa = false ∧ inScratch pa = true)) →
    let inRow := inRowOf pa lines
    (¬ rowDue s inRow → exec (.rowRemap (.memory pa) lines gone) s = .next s) ∧
    (rowDue s inRow → ∃ t, exec (.rowRemap (.memory pa) lines gone) s = .next t ∧ (∀ i ∈ gone, i < lines → inRow (rowLine pa i) = true → t.poisoned (64 * rowLine pa i) = true) ∧
      (∀ l, (∀ i ∈ gone, i < lines → inRow l = true → l ≠ rowLine pa i) → t.poisoned (64 * l) = s.poisoned (64 * l)) ∧ t.harts = s.harts ∧
      (inPool pa = true → (t.dieAt (poolDie pa)).spareRows = (s.dieAt (poolDie pa)).spareRows + 1 ∧ ∀ e ∈ t.rowFails, inRow e.1 = false))) ∧
  (∀ pa lines i, inScratch pa = true → pa % 64 = 0 → i < lines → bankOf (64 * rowLine pa i) = bankOf pa → inRowOf pa lines (pa / 64 + 64 * i) = true) ∧
  (∀ core row lines gone s, core < 64 → rowDue s (fun l => l == regRow core row) → ∃ t, exec (.rowRemap (.registers core row) lines gone) s = .next t ∧
    t.harts = s.harts ∧ t.poison = s.poison ∧ ((∀ e ∈ t.rowFails, e.1 ≠ regRow core row) ∨ t.needService = true)) ∧
  (∀ s, (s.requests ≠ [] ∨ ∃ n, n < 256 ∧ s.copiesStill (2 * n) = false) → exec .checkpointWrite s = .next { s with dying := true, stopping := true }) ∧
  (∀ s, s.requests = [] → (∀ n, n < 256 → s.copiesStill (2 * n) = true) → ∃ t m, exec .checkpointWrite s = .next t ∧ t.image = some m ∧ t.off = true ∧ t.stopping = false ∧
    t.dying = false ∧ t.ckptSeq = s.ckptSeq + 1 ∧ t.ckptTime = s.now ∧ m.writes = [] ∧ ∀ h : Fin 512, m.harts[h].x = s.harts[h].x ∧ m.harts[h].pc = s.harts[h].pc ∧
      csrsSame s.harts[h] m.harts[h]) ∧
  (∀ s m, s.image = some m → s.homeNat Config.ckptBase 8 = 1 → ∃ t, exec (.moduleReset none) s = .next t ∧ t.harts = m.harts ∧ t.crews = m.crews ∧
    t.image = none ∧ t.off = false ∧ t.ckptSeq = s.ckptSeq ∧ t.worlds = State.reset.worlds ∧ (∀ a, t.tagOf a = 0) ∧
    (∀ d : Fin 8, t.dies[d].decode = true ∧ t.dies[d].hold = false ∧ t.dies[d].spareUsed = m.dies[d].spareUsed) ∧
    ∀ c : Fin 64, t.cores[c].array = m.cores[c].array ∧ t.cores[c].inService = m.cores[c].inService ∧
      ∀ g : Fin 16, t.cores[c].lanes[g] = ⟨m.cores[c].lanes[g].owner, 0⟩) ∧
  (∀ s m a, s.memOk → s.image = some m → s.homeNat Config.ckptBase 8 = 1 → ∃ t, exec (.moduleReset none) s = .next t ∧
    (inLp6 a = true → t.homeByte a = s.homeByte a) ∧ (inHbm a = true → t.homeByte a = s.homeByte (Config.ckptBase + 0x5_0000_0000 + a))) ∧
  (∀ s, s.memOk → (s.image = none ∨ s.homeNat Config.ckptBase 8 ≠ 1) → ∃ t, exec (.moduleReset none) s = .next t ∧
    { t with mem := State.reset.mem, poison := [], image := none, ckptTime := 0 } =
      { State.reset with agenda := s.agenda, freeCtr := s.freeCtr, nextReq := s.nextReq, ckptSeq := s.ckptSeq, nextKey := s.nextKey, keyRing := s.keyRing } ∧
    ∀ a, t.homeByte a = if Config.ckptBase ≤ a ∧ a < 0x200_0000_0000 then s.homeByte a else State.reset.homeByte a) ∧
  (∀ s k, ∃ t, exec (.moduleReset (some k)) s = .next t ∧ t.bootFailed = true ∧ t.harts = State.reset.harts ∧ t.crews = State.reset.crews ∧
    ∀ p : Fin 32, t.ports[p].st = .down)

/-! ## The link, and the host -/

/-- A request not accepted within 1 ms of its first send, or not answered within 10 ms (R435). -/
def overdueAt (s : State) (r : OutReq) : Prop :=
  r.sent + 10000000 ≤ s.now ∨ (r.sent + 1000000 ≤ s.now ∧ ∃ p ∈ s.ports.toList, ∃ e ∈ p.unacked, e.rid = some r.rid)

/-- R415, R426, R430 to R438: training, lost lanes, lost signals and transfers that fail move a port as R431 says; a flit in order from an admitted peer is served at the home of its line, unless a
checkpoint waits; a request fails when it is overdue, and not before. R439, R442,
R440, R377, R441: the host's completions, invalidations and accesses.
Readings of the model: log 39 to 42, 76 and 116. -/
def Obligations.LinkAndHost : Prop :=
  (∀ p lanes dev s, p < 32 → (s.portAt p).st = .training → ∃ t, exec (.linkTrainingDone p lanes dev) s = .next t ∧ t.harts = s.harts ∧
    (t.portAt p).st = (if laneCount lanes = 4 then .up else if laneCount lanes = 3 then .degraded else .failed) ∧
    (t.portAt p).lanes = (if 3 ≤ laneCount lanes then lanes else 0) ∧
    t.devnum = (if 3 ≤ laneCount lanes ∧ s.devnum = 255 ∧ dev < 255 then dev else s.devnum)) ∧
  (∀ p lane s, p < 32 → ((s.portAt p).st = .up ∨ (s.portAt p).st = .degraded) → (s.portAt p).lanes.getLsbD lane = true →
    ∃ t, exec (.laneFailure p lane) s = .next t ∧ (t.portAt p).st = (if (s.portAt p).st = .up then .degraded else .failed) ∧
      (∀ k, (t.portAt p).lanes.getLsbD k = ((s.portAt p).lanes.getLsbD k && k != lane)) ∧ t.harts = s.harts) ∧
  (∀ p s, p < 32 → ∃ t, exec (.lossOfSignal p) s = .next t ∧ t.harts = s.harts ∧
    (((s.portAt p).st = .up ∨ (s.portAt p).st = .degraded) → (t.portAt p).st = .training ∧ (t.portAt p).lanes = 0 ∧ (t.portAt p).attempts = 0) ∧
    ((s.portAt p).st = .training → (s.portAt p).attempts < 2 → (t.portAt p).st = .training ∧ (t.portAt p).attempts = (s.portAt p).attempts + 1) ∧
    ((s.portAt p).st = .training → 2 ≤ (s.portAt p).attempts → (t.portAt p).st = .failed)) ∧
  (∀ p f pa n ctx s, inOrderFlit s p f → f.body = .read pa n → peerRange s f.src pa n false ctx → soundLines s pa n →
    ∃ t, exec (.flitReceive p f) s = .next t ∧ t.mem = s.mem ∧ t.harts = s.harts ∧ (t.portAt p).rxSeq = ((s.portAt p).rxSeq + 1) % 4096 ∧
      ∃ l, (t.portAt p).unacked = (s.portAt p).unacked ++ l ∧ answers l f (s.homeBytes pa n)) ∧
  (∀ p f pa data ctx s, s.memOk → inOrderFlit s p f → f.body = .write pa data → peerRange s f.src pa data.length true ctx →
    plainPlace s (s.ctxWorld ctx) pa data.length →
    ∃ t, exec (.flitReceive p f) s = .next t ∧ t.homeBytes pa data.length = data ∧ bytesSameBut s t pa data.length ∧ t.harts = s.harts ∧
      (t.portAt p).unacked = (s.portAt p).unacked ++
        [⟨(s.portAt p).txSeq, f.tag % 2 ^ 16, f.src, none, .response true [], some f.seq, (s.portAt p).nackDue⟩]) ∧
  (∀ p f pa n s, inOrderFlit { s with stopping := false } p f → s.stopping = true → f.body = .read pa n →
    ∃ t, exec (.flitReceive p f) s = .next t ∧ t.mem = s.mem ∧ t.harts = s.harts ∧
      (t.portAt p).unacked = (s.portAt p).unacked ++
        [⟨(s.portAt p).txSeq, f.tag % 2 ^ 16, f.src, none, .response false [], some f.seq, (s.portAt p).nackDue⟩]) ∧
  (∀ p f s, p < 32 → ((s.portAt p).st = .up ∨ (s.portAt p).st = .degraded) → f.crcOk = false →
    ((s.portAt p).fails ≠ 1 → ∃ t, exec (.flitReceive p f) s = .next t ∧
      (t.portAt p).rxSeq = (s.portAt p).rxSeq ∧ (t.portAt p).unacked = (s.portAt p).unacked ∧ (t.portAt p).fails = (s.portAt p).fails + 1 ∧ t.harts = s.harts ∧
      (t.portAt p).out = ⟨(s.portAt p).txSeq, 0, f.src, none, .ackOnly, (s.portAt p).ackDue, some (s.portAt p).rxSeq⟩ :: (s.portAt p).out) ∧
    ((s.portAt p).fails = 1 → (s.portAt p).lanes ≠ 0 → ∃ t, exec (.flitReceive p f) s = .next t ∧ t.harts = s.harts ∧
      ((t.portAt p).st = .training ∨ (t.portAt p).st = (if (s.portAt p).st = .up then .degraded else .failed)))) ∧
  (∀ p s, p < 32 → ∃ t, exec (.flitReplay p) s = .next t ∧ t.mem = s.mem ∧ t.harts = s.harts ∧ t.requests = s.requests ∧
    (t.portAt p).unacked = (s.portAt p).unacked ∧ (t.portAt p).txSeq = (s.portAt p).txSeq ∧
    (((s.portAt p).st = .up ∨ (s.portAt p).st = .degraded) → (t.portAt p).out = (s.portAt p).unacked.reverse ++ (s.portAt p).out)) ∧
  (∀ rid r s, s.requests.find? (fun x => x.rid = rid) = some r → overdueAt s r → statusTicket ≤ r.ticket →
    ∃ t, exec (.requestTimeout rid) s = .next t ∧ (∀ x ∈ t.requests, x.rid ≠ rid) ∧ t.harts = s.harts) ∧
  (∀ rid r s, s.requests.find? (fun x => x.rid = rid) = some r → overdueAt s r → r.ticket < statusTicket → r.ticket ≠ depTicket →
    (∃ e ∈ (s.hartAt r.hart).remote, e.rid = rid) →
    ∃ t, exec (.requestTimeout rid) s = .next t ∧ (∀ x ∈ t.requests, x.rid ≠ rid) ∧ (255 ≤ r.dev → t.mem = s.mem) ∧
      ∀ e ∈ (t.hartAt r.hart).remote, e.rid = rid → e.ans = some (false, [])) ∧
  (∀ rid r s, s.requests.find? (fun x => x.rid = rid) = some r → ¬ overdueAt s r → exec (.requestTimeout rid) s = .next s) ∧
  (∀ rid r s, s.requests.find? (fun x => x.rid = rid && x.dev = 255) = some r → s.requests.find? (fun x => x.rid = rid) = some r → r.ticket < statusTicket →
    (∀ b, r.xlat = false → r.ticket ≠ depTicket → (∃ e ∈ (s.hartAt r.hart).remote, e.rid = rid) → ∃ t, exec (.hostCompletion rid (.data b)) s = .next t ∧
      (∀ x ∈ t.requests, x.rid ≠ rid) ∧ ∀ e ∈ (t.hartAt r.hart).remote, e.rid = rid → e.ans = some (true, b)) ∧
    (∀ rd wr, r.xlat = true → ∃ t, exec (.hostCompletion rid (.translation (r.pa / 4096) rd wr)) s = .next t ∧ ⟨r.ctx, r.pa / 4096, rd, wr⟩ ∈ t.atc ∧
      (∀ x ∈ t.requests, x.rid ≠ rid) ∧ ∀ e ∈ (t.hartAt r.hart).remote, e.rid ≠ rid)) ∧
  (∀ pasid iova len s, ∃ t v, exec (.atsInvalidation pasid iova len) s = .next t ∧
    (∀ e ∈ t.atc, e ∈ s.atc ∧ ¬ (e.pasid = pasid ∧ iova / 4096 ≤ e.page ∧ e.page * 4096 < iova + len)) ∧ t.invals = s.invals ++ [v] ∧ v.id = s.nextInval ∧
    ∀ r ∈ s.requests, r.dev = 255 → r.xlat = false → r.kind = .access → r.ctx = pasid → iova / 4096 ≤ r.pa / 4096 → r.pa / 4096 * 4096 < iova + len → r.rid ∈ v.waits) ∧
  (∀ i s, s.invals.find? (fun v => v.waits.all fun r => !s.requests.any fun x => x.rid = r) = some i →
    exec .invalidationCompletion s = .next { s with invals := s.invals.erase i, hostOut := ⟨i.id, 0, .ackOnly, none, false⟩ :: s.hostOut }) ∧
  (∀ acc a n pa s, barRange s acc a n pa a.read → acc.data = none → acc.len = n → soundLines s pa n → ∃ t, exec (.hostBar2Access acc) s = .next t ∧
    t.hostOut = ⟨0, 0, .response true (s.viewBytes .host .host pa n), none, false⟩ :: s.hostOut ∧ t.mem = s.mem ∧ t.harts = s.harts ∧ t.needsOf .host = []) ∧
  (∀ acc a n pa d s, s.memOk → barRange s acc a n pa a.write → acc.data = some d → d.length = n → plainPlace s (s.ctxWorld a.ctx) pa n →
    ∃ t, exec (.hostBar2Access acc) s = .next t ∧ t.homeBytes pa n = d ∧ bytesSameBut s t pa n ∧ t.harts = s.harts ∧ t.hostOut = s.hostOut) ∧
  (∀ acc s, acc.bar = .bar0 → acc.intact = true → s.stopping = false → acc.data = none → acc.offset = 0x20_2000 → acc.len = 8 →
    exec (.hostBar2Access acc) s = .next { s with hostOut := ⟨0, 0, .response true
      (leBytesOf 8 ((if s.doorbell then 1 else 0) + (if s.mbxDone then 2 else 0) + if s.mbxErr then 4 else 0)), none, false⟩ :: s.hostOut })

/-- R445, R444, R455, R457, R464: the states of a world's device interface, stream keys, telemetry given or denied, the report, and the clock of a partition that throttles.
Readings of the model: log 24, 26, 90, 91, 118, 121 and 132. -/
def Obligations.WorldsAndPower : Prop :=
  (∀ w s, worldIs s w true → s.stopping = false →
    (∀ msg x, ((msg = .lock ∧ (s.worldAt w).tdi = 0 ∧ x = 1) ∨ (msg = .start ∧ (s.worldAt w).tdi = 1 ∧ x = 2) ∨ (msg = .stop ∧ x = 0)) →
      ∃ t, exec (.tdispRequest w msg) s = .next t ∧ (t.worldAt w).tdi = x ∧ worldsSameBut s t w ∧ t.mem = s.mem ∧ t.harts = s.harts) ∧
    (((s.worldAt w).tdi = 1 ∨ (s.worldAt w).tdi = 2) → ∃ t, exec (.tdispRequest w .change) s = .next t ∧ (t.worldAt w).tdi = 3 ∧ t.harts = s.harts)) ∧
  (∀ stream key s, s.stopping = false → stream < 16 → key.world < 16 → key.key.length = 32 →
    (key.world = 0 ∨ ((s.worldAt key.world).isOpen = true ∧
      ((∃ a ∈ s.apertures, s.ctxWorld a.ctx = key.world) ∨ ∃ q ∈ s.queues, s.ctxWorld q.ctx = key.world))) →
    ∃ t, exec (.ideKm stream key) s = .next t ∧ t.streams.find? (fun x => x.num = stream) = some ⟨stream, key.world, key.key⟩ ∧
      (∀ x, x.num ≠ stream → (x ∈ t.streams ↔ x ∈ s.streams ∧ x.world ≠ key.world)) ∧ t.harts = s.harts) ∧
  (∀ w nonce s, w < 16 → nonce.length = 32 → s.stopping = false → ∃ t sig, exec (.getMeasurements w nonce) s = .next t ∧ t.doe = s.reportBody w nonce ++ sig ∧ sig.length = 384 ∧
    t.doe.take 32 = nonce ∧ t.mem = s.mem ∧ t.harts = s.harts) ∧
  (∀ c stream tbit s, s.stopping = false →
    let w := s.counterWorld c
    let own := tbit = true ∧ ∃ x ∈ s.streams, x.num = stream ∧ x.world = w
    let gives (v : Nat) : State := { s with hostOut := ⟨0, 0, .response true (leBytesOf 8 v), none, false⟩ :: s.hostOut }
    (∀ v, c < 130560 → (w = 0 ∨ own ∨ SMap.get false (s.worldAt w).allow c = true) → s.counterValue c = some v →
      exec (.telemetryRead c stream ⟨tbit, true⟩) s = .next (gives v)) ∧
    (c < 130560 → w ≠ 0 → ¬ own → SMap.get false (s.worldAt w).allow c = false → stream < 16 → ∃ t, exec (.telemetryRead c stream ⟨tbit, true⟩) s = .next t ∧
      t.hostOut = ⟨0, 0, .response true (List.replicate 8 0), none, false⟩ :: s.hostOut ∧ t.denied.getLsbD stream = true ∧ t.harts = s.harts) ∧
    (130560 ≤ c → exec (.telemetryRead c stream ⟨tbit, true⟩) s =
      .next (gives (if c < 130576 ∧ s.denied.getLsbD (c - 130560) = true then 1 else 0)))) ∧
  (∀ mw temps s, mw ≤ 3400000 → (∀ x ∈ temps, x < 110000) → temps.length = 32 → ∃ t, exec (.powerSample mw temps) s = .next t ∧ t.power = mw ∧
    t.temps.toList = temps ∧ t.harts = s.harts ∧ t.mem = s.mem ∧ t.off = s.off) ∧
  (∀ (p : Fin 2) s,
    ((s.pwrLimit * 1000 ≤ s.power ∨ ∃ x ∈ s.sensors p.val, 95000 ≤ x) → exec (.throttleStep p) s = .next { s with mhz := s.mhz.set p (max 1400 (s.mhz[p] - 50)) }) ∧
    (s.power < s.pwrLimit * 1000 → (∀ x ∈ s.sensors p.val, x < 90000) →
      exec (.throttleStep p) s = .next { s with mhz := s.mhz.set p (max s.mhz[p] (min s.clkset[p] (s.mhz[p] + 50))) }))

/-! ## The mailbox -/

/-- R441, R460, R462: a request rings the doorbell; an unknown command is answered 1, a reserved byte that is not zero 2, and after a failed boot each request 4. R461 to R465, R349, R353, R431, R446, R457, R458: each command
with operands in range does its work and is answered 0 under the request's SEQ, where a request asks for it.
Readings of the model: log 22, 23, 46, 47, 49 and 50; the bytes that WADMIT and WIMPORT measure are log 24, the hash SHA-256 log 21, RSA-PSS and RSA-OAEP
log 121, and a CKPT that keeps the power log 43. -/
def Obligations.MailboxCommands : Prop :=
  (∀ req s, s.doorbell = false → s.stopping = false → req.length = 4096 →
    let u := { s with doorbell := true, bells := s.bells + 1, mbxReq := req }
    (s.bootFailed = true → ∃ t, exec (.mailboxDoorbell req) s = .next t ∧ replied u u t True 4 []) ∧
    (s.bootFailed = false → mbxFields (reqWord req % 2 ^ 16) = none → ∃ t, exec (.mailboxDoorbell req) s = .next t ∧ replied u u t True 1 []) ∧
    (∀ f, s.bootFailed = false → mbxFields (reqWord req % 2 ^ 16) = some f → reqBad req f = true → ∃ t, exec (.mailboxDoorbell req) s = .next t ∧ replied u u t True 2 []) ∧
    (∀ f, s.bootFailed = false → mbxFields (reqWord req % 2 ^ 16) = some f → reqBad req f = false → exec (.mailboxDoorbell req) s = .next u)) ∧
  (∀ die num ctx va pa s, die < 8 → num < 64 → ctx < 65536 → va % 64 = 0 → s.queueOf die num = none → (ctx = 0 ∨ (1 ≤ s.ctxState ctx ∧ s.ctxState ctx ≤ 3)) →
    s.hwPlace (s.dieReq die ctx) va 64 = (s, some pa) → inPool pa = true → poolDie pa = die →
    let d := s.homeNat pa 64
    let u := s.homePut pa 64 (qdBase d + qdLogn d * 2 ^ 128 + qdPrio d * 2 ^ 132 + ctx * 2 ^ 136 + 2 ^ 152)
    1 ≤ qdLogn d → qdLogn d ≤ 12 → qdBase d % 128 = 0 → (∀ q ∈ s.queues, q.hit pa 64 = false) → steady s pa 64 → isProtected (u.ctxWorld ctx) = false →
    ∃ t, exec (.qbind die num ctx va) s = .next t ∧
      replied s { u with queues := s.queues ++ [⟨die, num, ctx, pa, false, false, s.clocksOf die, s.nextLid⟩] } t (asked s 0x01 [(8, 1, die), (9, 1, num), (10, 2, ctx), (16, 8, va)]) 0 []) ∧
  (∀ die num q s, die < 8 → num < 64 → s.queueOf die num = some q → q.mapped = false → steady s (q.pa + 16) 8 →
    let u := s.homePut (q.pa + 16) 8 (putBits (s.homeNat (q.pa + 16) 8) 24 1 0)
    isProtected (u.ctxWorld q.ctx) = false →
    ∃ t, exec (.qunbind die num) s = .next t ∧ replied s { u with queues := s.queues.filter fun x => !(x.die = die && x.num = num) } t (asked s 0x02 [(8, 1, die), (9, 1, num)]) 0 []) ∧
  (∀ die num q s, die < 8 → num < 64 → s.queueOf die num = some q → q.mapped = true →
    (qdHead (s.qdesc q) ≠ qdTail (s.qdesc q) ∨ s.queueLaunches q ≠ []) → exec (.qunbind die num) s = .next s) ∧
  (∀ (mask : BitVec 8) s,
    let moved (n : Nat) : Prop := (s.dieAt n).decode ≠ mask.getLsbD n
    ((∀ n, n < 256 → moved (n / 32) → (s.crewAt n).resident = none) → ∃ t, exec (.partset mask) s = .next t ∧ responded s t (asked s 0x03 [(8, 1, mask.toNat)]) 0 [] ∧
      (∀ d, d < 8 → (t.dieAt d).decode = mask.getLsbD d) ∧ t.mem = s.mem ∧ t.harts = s.harts ∧ t.crews = s.crews) ∧
    ((∃ n, n < 256 ∧ moved (n / 32) ∧ (s.crewAt n).resident ≠ none) → ∃ t, exec (.partset mask) s = .next t ∧ t.doorbell = s.doorbell ∧
      (∀ d, d < 8 → (t.dieAt d).decode = (s.dieAt d).decode ∧ (moved d → (t.dieAt d).hold = true)) ∧
      (∀ n, n < 256 → moved (n / 32) → mayBeAsked s n → (t.crewAt n).preempt = true))) ∧
  (∀ (p : Fin 2) mhz s, mhz % 50 = 0 → 1400 ≤ mhz → mhz ≤ 2400 →
    (∀ n, n < 256 → ((s.dieAt (n / 32)).decode = true ↔ p.val = 1) → (s.crewAt n).resident = none) →
    ∃ t, exec (.clkset p mhz) s = .next t ∧ responded s t (asked s 0x04 [(8, 1, p.val), (10, 2, mhz)]) 0 [] ∧ t.clkset[p] = mhz ∧ t.mem = s.mem ∧ t.harts = s.harts ∧
      (s.clkset[p] ≠ mhz → t.mhz[p] = mhz)) ∧
  (∀ w s, 1500 ≤ w → w ≤ 3400 → ∃ t, exec (.pwrlim w) s = .next t ∧ replied s { s with pwrLimit := w } t (asked s 0x05 [(8, 2, w)]) 0 []) ∧
  (∀ n s, 16 ≤ n → n ≤ 24 → ∃ t, exec (.slice n) s = .next t ∧ replied s { s with sliceLog := n } t (asked s 0x06 [(8, 1, n)]) 0 []) ∧
  (∀ p s, p < 32 →
    (((s.portAt p).st = .down ∨ (s.portAt p).st = .failed) → ∃ t, exec (.linkEnable p) s = .next t ∧ (t.portAt p).st = .training ∧ responded s t (asked s 0x07 [(8, 1, p), (9, 1, 0)]) 0 [1] ∧ t.harts = s.harts) ∧
    ((s.portAt p).st ≠ .retired → (s.portAt p).unacked = [] → ∃ t, exec (.linkDisable p) s = .next t ∧ (t.portAt p).st = .down ∧ responded s t (asked s 0x07 [(8, 1, p), (9, 1, 1)]) 0 [0] ∧ t.harts = s.harts) ∧
    ((s.portAt p).st = .failed → ∃ t, exec (.linkRetire p) s = .next t ∧ (t.portAt p).st = .retired ∧ responded s t (asked s 0x07 [(8, 1, p), (9, 1, 2)]) 0 [5] ∧ t.harts = s.harts)) ∧
  (∀ ch s, ch < 256 → (s.parity[Fin.ofNat 16 (ch % 16)]).retired = none → ∃ t, exec (.chretire ch) s = .next t ∧ responded s t (asked s 0x08 [(8, 2, ch)]) 0 [] ∧
    t.parity = s.parity.set (Fin.ofNat 16 (ch % 16)) ⟨some (ch / 16), 0⟩ ∧ t.poison = s.poison ∧ t.harts = s.harts) ∧
  (∀ ch m s, ch < 256 → (s.parity[Fin.ofNat 16 (ch % 16)]).retired = some m → 6291456 ≤ (s.parity[Fin.ofNat 16 (ch % 16)]).cursor →
    ∃ t, exec (.chretire ch) s = .next t ∧ replied s s t (asked s 0x08 [(8, 2, ch)]) 3 []) ∧
  (∀ core n s, core < 64 → s.leaseHolder core = some n → ∃ t, exec (.revoke core) s = .next t ∧ responded s t (asked s 0x09 [(8, 1, core)]) 0 [] ∧ (t.crewAt n).lease = .none ∧
    (t.crewAt n).revoked = true ∧ arrayAt t core = MxArray.zero) ∧
  (∀ s, s.requests = [] → (∀ n, n < 256 → s.copiesStill (2 * n) = true) → ∃ t m, exec .ckpt s = .next t ∧ t.image = some m ∧ t.off = (s.off || s.dying) ∧
    t.ckptSeq = s.ckptSeq + 1 ∧ responded s t (asked s 0x0A []) 0 (leBytesOf 8 (s.ckptSeq + 1))) ∧
  (∀ page ctx (rights : BitVec 2) base len s, page < 4096 → ctx < 65536 → base % 0x1_0000 = 0 → len % 0x1_0000 = 0 → len ≤ 0x100_0000 →
    isProtected (s.ctxWorld ctx) = false → (∀ x ∈ s.apertures, x.page = page → isProtected (s.ctxWorld x.ctx) = false) → ∃ t, exec (.apmap page ctx rights base len) s = .next t ∧
      replied s { s with apertures := ⟨page, ctx, rights.getLsbD 0, rights.getLsbD 1, base, len⟩ :: s.apertures.filter fun x => x.page ≠ page } t (asked s 0x0B [(8, 2, page), (10, 2, ctx), (12, 1, rights.toNat), (16, 8, base), (24, 8, len)]) 0 []) ∧
  (∀ page a s, page < 4096 → s.apertures.find? (fun x => x.page = page) = some a → isProtected (s.ctxWorld a.ctx) = false →
    ∃ t, exec (.apmapUnmap page) s = .next t ∧ replied s { s with apertures := s.apertures.filter fun x => x.page ≠ page } t (∃ v, (v = 4 ∨ v = 5 ∨ v = 6 ∨ v = 7) ∧ asked s 0x0B [(8, 2, page), (12, 1, v)]) 0 []) ∧
  (∀ first count s, 1 ≤ count → count ≤ 127 →
    let lo := max first (s.homeNat (Config.errLog + 8) 8)
    ∃ t, exec (.logread first count) s = .next t ∧ replied s s t (asked s 0x0C [(8, 8, first), (16, 2, count)]) 0
      ((List.range (min count (s.homeNat Config.errLog 8 - lo))).flatMap fun i => s.homeBytes (Config.errLog + 64 + 32 * ((lo + i) % 4096)) 32)) ∧
  (∀ h v s, h < 512 → ∃ t, exec (.timer h v) s = .next t ∧ replied s (s.mapHart h fun x => { x with timecmp := v }) t (asked s 0x0D [(8, 2, h), (16, 8, v.toNat)]) 0 []) ∧
  (∀ w s, worldIs s w false → ∃ t, exec (.wopen w) s = .next t ∧ responded s t (asked s 0x10 [(8, 1, w)]) 0 [] ∧ worldsSameBut s t w ∧ t.mem = s.mem ∧ t.harts = s.harts ∧
    (let x := t.worldAt w; x.isOpen = true ∧ x.gen = (s.worldAt w).gen + 1 ∧ ((∀ e ∈ s.keyRing, e.2 ≠ x.key) → x.keyGen = s.nextKey) ∧ x.key.length = 64 ∧ x.admitted = [] ∧ x.allow = [] ∧
      x.mr = List.replicate 32 0)) ∧
  (∀ w ctx s, worldIs s w true → 1 ≤ ctx → ctx < 65536 → ctx ∉ (s.worldAt w).admitted → (s.worldAt w).admitted.length < 256 →
    ∃ t, exec (.wadmit w ctx) s = .next t ∧ responded s t (asked s 0x11 [(8, 1, w), (10, 2, ctx)]) 0 [] ∧ (t.worldAt w).admitted = (s.worldAt w).admitted ++ [ctx] ∧
      (t.worldAt w).mr = mrExtend (s.worldAt w).mr (leBytesOf 2 ctx) ∧ worldsSameBut s t w ∧ t.mem = s.mem ∧ t.harts = s.harts) ∧
  (∀ core w (mask : BitVec 16) s, core < 64 → worldIs s w true →
    let free (g : Fin 16) : Bool := mask.getLsbD g && (s.coreAt core).lanes[g].owner.isNone
    ∃ t d, exec (.lgtag core w mask) s = .next t ∧ responded s t (asked s 0x12 [(8, 1, core), (9, 1, w), (10, 2, mask.toNat)]) 0 (leBytesOf 2 d) ∧ (∀ g : Fin 16, d.testBit g = free g) ∧ d < 2 ^ 16 ∧
      (∀ g : Fin 16, (t.coreAt core).lanes[g] = if free g then { (s.coreAt core).lanes[g] with world := w } else (s.coreAt core).lanes[g]) ∧
      t.mem = s.mem ∧ t.harts = s.harts) ∧
  (∀ w frame s, s.memOk → SMap.wf 0 s.frameTag = true → worldIs s w true → frame % 0x1_0000 = 0 → (inMemory frame = true ∨ inScratch frame = true) →
    ∃ t, exec (.ftag w frame) s = .next t ∧ responded s t (asked s 0x13 [(8, 1, w), (16, 8, frame)]) 0 [] ∧ (∀ a, frame ≤ a → a < frame + 0x1_0000 → t.homeByte a = 0 ∧ t.tagOf a = w) ∧
      (∀ a, (a < frame ∨ frame + 0x1_0000 ≤ a) → t.homeByte a = s.homeByte a ∧ t.tagOf a = s.tagOf a) ∧ t.harts = s.harts) ∧
  (∀ w chunk data s, worldIs s w true → chunk < 8 → data.length = 2048 → SMap.wf false (s.worldAt w).allow = true →
    ∃ t, exec (.tlset w chunk data) s = .next t ∧ responded s t (asked s 0x14 [(8, 1, w), (9, 1, chunk), (16, 2048, leValue data)]) 0 [] ∧ worldsSameBut s t w ∧ t.mem = s.mem ∧ t.harts = s.harts ∧
      ∀ c, SMap.get false (t.worldAt w).allow c =
        if 16384 * chunk ≤ c ∧ c < 16384 * chunk + 16384 ∧ c < 130560 then (data.getD (c % 16384 / 8) 0).getLsbD (c % 8) else SMap.get false (s.worldAt w).allow c) ∧
  (∀ w s, worldIs s w true → s.worldContexts w = [] → ∃ t, exec (.werase w) s = .next t ∧ responded s t (asked s 0x15 [(8, 1, w)]) 0 [] ∧ worldsSameBut s t w ∧ t.mem = s.mem ∧ t.harts = s.harts ∧
    (let x := t.worldAt w; x.isOpen = false ∧ x.keyGen = 0 ∧ x.key = [] ∧ x.admitted = [] ∧ x.allow = []) ∧
    ∀ c : Fin 64, ∀ g : Fin 16, t.cores[c].lanes[g] = if s.cores[c].lanes[g].world = w then { s.cores[c].lanes[g] with world := 0 } else s.cores[c].lanes[g]) ∧
  (∀ w nonce s, w < 16 → nonce.length = 32 → ∃ t sig, exec (.attest w nonce) s = .next t ∧ responded s t (asked s 0x16 [(8, 1, w), (16, 32, leValue nonce)]) 0 (s.reportBody w nonce ++ sig) ∧ sig.length = 384 ∧
    t.mem = s.mem ∧ t.harts = s.harts) ∧
  (∀ w report modulus chain s, worldIs s w true → report.length = 592 → modulus.length = 384 → chain.length ≤ 3088 →
    let ask := asked s 0x17 [(8, 1, w), (16, 592, leValue report), (608, 384, leValue modulus), (992, 2, chain.length), (1000, chain.length, leValue chain)]
    let good := rsaVerify (leValue modulus) (leValue (report.drop 208)) (report.take 208) = true ∧ Config.chainValid modulus chain = true
    ∃ t seed, exec (.wexport w report modulus chain) s = .next t ∧ t.worlds = s.worlds ∧ t.mem = s.mem ∧ t.harts = s.harts ∧ seed.length = 32 ∧
      (good → responded s t ask 0 (leBytesOf 2 1 ++ leBytesOf 1 w ++ List.replicate 5 0 ++ leBytesOf 8 (s.worldAt w).gen ++
        leBytesOf 384 (oaepSeal (leValue modulus) (s.worldAt w).key seed) ++ List.replicate 8 0)) ∧
      (¬ good → responded s t ask 2 [])) ∧
  (∀ w blob s, worldIs s w true → blob.length = 408 → leValue (blob.take 2) = 1 → leValue ((blob.drop 2).take 1) = w → leValue ((blob.drop 3).take 5) = 0 →
    leValue ((blob.drop 400).take 8) = 0 →
    let ask := asked s 0x18 [(8, 1, w), (16, 408, leValue blob)]
    ∃ t, exec (.wimport w blob) s = .next t ∧ worldsSameBut s t w ∧ t.mem = s.mem ∧ t.harts = s.harts ∧
      (∀ k, oaepOpen (leValue ((blob.drop 16).take 384)) = some k → responded s t ask 0 [] ∧ (t.worldAt w).key = k ∧
        (∀ e, s.keyRing.find? (fun x => x.2 = k) = some e → (t.worldAt w).keyGen = e.1) ∧ (t.worldAt w).mr = mrExtend (s.worldAt w).mr (blob.take 16)) ∧
      (oaepOpen (leValue ((blob.drop 16).take 384)) = none → responded s t ask 2 [] ∧ t.worlds = s.worlds)) ∧
  (∀ w digest s, worldIs s w true → digest.length = 32 → ∃ t, exec (.mrext w digest) s = .next t ∧ responded s t (asked s 0x19 [(8, 1, w), (16, 32, leValue digest)]) 0 [] ∧
    (t.worldAt w).mr = mrExtend (s.worldAt w).mr digest ∧ worldsSameBut s t w ∧ t.mem = s.mem ∧ t.harts = s.harts) ∧
  (∀ s, ∃ t, exec .cert s = .next t ∧ replied s s t (asked s 0x1A []) 0 (Config.certChain.take 4080))

/-! ## The whole machine -/

/-- R33, R57, R63, R70, R75, R148, R222, R236, R283, R336, R342, R386, R392, R393, R398, R406, R429, R446, R448, R456, R459, R460, R465: what reset leaves where no checkpoint is valid, as far as the spec says. The place of
the context table (log 13), the registers the spec gives no value (log 4) and memory reading 0 (log 3) are the model's choices. -/
def Obligations.ResetState : Prop :=
  let s := State.reset
  s.memOk ∧ (∀ a, s.homeByte a = if a = Config.errLog + 16 then 12 else 0) ∧ s.zeroOk ∧
  (∀ n : Fin 256, s.crews[n].resident = none) ∧
  (∀ h : Fin 512, s.harts[h].timecmp = BitVec.allOnes 64 ∧ s.issuing h = false ∧ s.timerPending h = false) ∧
  (∀ h : Fin 512,
    let x := s.harts[h]
    x.fcsr = 0 ∧ x.vstart = 0 ∧ x.vl = 0 ∧ x.vtype = 0 ∧ x.lanes = [] ∧ x.lgquota = 4 ∧ x.vstate = 3 ∧ x.vdirty = 0 ∧ x.kdirty = 0 ∧
    x.attncfg = 0 ∧ x.cpbar = 0 ∧ x.sstatus = 0 ∧ x.stvec = 0 ∧ x.sepc = 0 ∧ x.scause = 0 ∧ x.stval = 0 ∧ x.sscratch = 0 ∧
    x.sxlat = 0 ∧ x.violog = 0) ∧
  (∀ n : Fin 256, s.crews[n].msave = 0 ∧ s.crews[n].qcfg = 0 ∧ s.crews[n].spidx = 0 ∧ s.crews[n].tidx = 0) ∧ s.devnum = 255 ∧
  (∀ c : Fin 64, (∀ g : Fin 16, s.cores[c].lanes[g].owner = none ∧ s.cores[c].lanes[g].world = 0) ∧ s.cores[c].accessPtr = 3 ∧
    s.cores[c].executePtr = 3 ∧ s.cores[c].copyPtr = 3 ∧ s.cores[c].inService = true) ∧
  (∀ d : Fin 8, s.dies[d].decode = true ∧ s.dies[d].hold = false) ∧ s.mhz[0] = 2000 ∧ s.mhz[1] = 2000 ∧
  (∀ w : Fin 16, s.worlds[w].isOpen = decide (w.val = 0)) ∧ (∀ a, s.tagOf a = 0 ∧ s.poisoned a = false) ∧
  (∀ p : Fin 32, s.ports[p].st = .training) ∧ s.sliceLog = 20 ∧ s.pwrLimit = 3400 ∧ s.launches = [] ∧ s.queues = [] ∧
  s.doorbell = false ∧ s.mbxDone = true ∧ s.mbxErr = false ∧ s.mbxResp = List.replicate 8 0 ∧ s.off = false ∧ s.bootFailed = false ∧
  ∀ c, SMap.get 0 s.telemetry c = 0

/-- R79, R81, R103, R120, R386, R394: at the opportunity of a pipeline the first ready hart from the one after the pointer issues; where nothing stands against it, a step runs the
instruction that its bytes decode to: `ir` holds the encoding, the pointer moves to its crew once it has issued, and
the crew's telemetry counts an instruction that retires. The bytes are those at the pc: 2, 4 or 8 by the low bits of the first.
Readings of the model: log 1 and 96. -/
def Obligations.StepRunsDecoded : Prop :=
  (∀ (s : State) (h : Nat) (r : List Act) (pre post : List Nat) (b : List Byte) (i : Instr) (rest : List Byte) (v t : State),
    let q := { s with agenda := r }
    let u := q.opportunity h
    let w := { v with ir := BitVec.ofNat 64 (leNat b) }
    let ptr := if h % 2 = 0 then (s.coreAt (h / 8)).accessPtr else (s.coreAt (h / 8)).executePtr
    h < 512 → s.off = false → s.agenda = ⟨0, none, h, 0⟩ :: r → q.issuing h = true →
    (crewOrder (h / 8) ptr).map (fun n => 2 * n + h % 2) = pre ++ h :: post → (∀ j ∈ pre, q.attempt 0 j = none) →
    (u.me.sup = true ∨ u.me.pc ≠ endAddress) → u.fetch = (v, .ok b) → decode b = .ok (i, rest) →
    (w.mapMe fun x => { x with window := false, remote := x.remote.filter fun e => e.ticket != 0 }).dueTrap w.cur = none →
    exec i w = .next t → t.hartAt h ≠ s.hartAt h →
    let p := if issuedIn i w t then t.point u.cur else t
    step s = .next (if t.me.instret = u.me.instret then p else p.count (crewItem (crewOf u.cur) (1 + u.cur.val % 2)) 1)) ∧
  (∀ (i : Instr) (s t : State), (t.me.instret ≠ s.me.instret → t.me.stalled = none → issuedIn i s t = true) ∧
    (t.me.stalled ≠ none → t.me.vstart = s.me.vstart → t.me.remote = s.me.remote → t.me.chain = s.me.chain → t.me.pagesDone = s.me.pagesDone → issuedIn i s t = false)) ∧
  (∀ (s : State) (h : Nat), h < 512 → let c := (s.point h).coreAt (h / 8)
    (if h % 2 = 0 then c.accessPtr else c.executePtr) = h / 2 % 4 ∧ (s.point h).harts = s.harts ∧ (s.point h).mem = s.mem ∧ (s.point h).crews = s.crews) ∧
  (∀ (s : State) (h : Nat) (r : List Act),
    let u := ({ s with agenda := r }).opportunity h
    h < 512 → u.cur.val = h ∧ u.me = { s.hartAt h with stalled := none } ∧ u.mem = s.mem ∧ u.crews = s.crews) ∧
  (∀ (s : State) (pa n : Nat),
    let at' (k : Nat) : List Byte := s.viewBytes (hartView s.cur) (.hart s.cur false) (pa + k) 2
    let b := (List.range (n / 2)).flatMap fun k => at' (2 * k)
    s.me.pc.toNat % 2 = 0 → n = classLength (leNat ((at' 0).take 1)) → (n = 8 → s.me.pc.toNat % 8 = 0) →
    s.me.pc.toNat % 0x1_0000 + n ≤ 0x1_0000 → s.writes = [] →
    (∀ k, k < n → s.locate (s.reqFor s.cur) (s.me.pc.toNat + k) .fetch = (s, .ok (.local (pa + k)))) →
    s.readRefused (myWorld s) pa n = false → soundLines s pa n →
    ∃ v, s.fetch = (v, .ok b) ∧ v.me.x = s.me.x ∧ v.me.pc = s.me.pc ∧ v.mem = s.mem)

/-- R81 to R100: these encodings, written from the tables of the spec, decode to the instructions they stand for. -/
def Obligations.DecodedWords : Prop :=
  ∀ p ∈ [(2, 0x002C, Instr.cNop), (2, 0x2450, .cLd 1 2 2), (4, 0xFFA0C501, .addi 5 6 0x7FD), (4, 0x00000031, .yield),
      (4, 0x00200031, .wfi), (4, 0x00400031, .ecall), (4, 0x00600031, .ebreak), (4, 0x00800031, .eret), (4, 0x002D4549, .pgsub 5 10 11),
      (4, 0x00814549, .pgopen 5 10), (4, 0x012D4549, .mbset 5 10 11), (4, 0x0510E306, .vadd 1 2 4 7 3), (4, 0x0C104032, .vascore 4 2),
      (4, 0x10000032, .vaexp), (4, 0x2C004032, .vaacc 2), (4, 0x34016832, .vafin 11 8), (8, 0x0000000B, .mswap)],
    decode (leBytes p.1 p.2.1) = .ok (p.2.2, [])

/-- R81, R83 to R102: decoding the encoding of a well-formed instruction gives that instruction back, with every operand, whatever follows it;
its length is 2, 4 or 8 bytes, and only a step that has no encoding is left out. -/
def Obligations.EncodeDecode : Prop :=
  ∀ (i : Instr) (n w : Nat) (rest : List Byte), wellFormed i = true → encode i = some (n, w) →
    (n = 16 ∨ n = 32 ∨ n = 64) ∧ w < 2 ^ n ∧ decode (leBytes (n / 8) w ++ rest) = .ok (i, rest)

/-- Memory, and that of a checkpoint image, stays in its canonical form (the model's form of memory, log 3), whatever the step does. -/
def Obligations.StepKeepsMemory : Prop := ∀ s t, s.memOk → step s = .next t → t.memOk

/-- R57, R83: x0 of every hart reads zero after every step, whatever writes it, and in every checkpoint image. -/
def Obligations.StepKeepsZero : Prop := ∀ s t, s.zeroOk → step s = .next t → t.zeroOk ∧ ∀ h : Fin 512, t.harts[h].xr 0 = 0 ∧ t.harts[h].x[0] = 0

/-- R105, R106, R391: no instruction issued in user mode changes stvec, sscratch, sxlat, violog or lgquota of its hart, nor sstatus, sepc, scause
or stval but by a trap, which goes to stvec in supervisor mode; nor any of them, or the mode, of another hart.
Readings of the model: log 9. -/
def Obligations.UserModeConfined : Prop :=
  ∀ (i : Instr) (s t : State), (encode i).isSome = true → s.me.sup = false → exec i s = .next t →
    t.cur = s.cur ∧ t.me.stvec = s.me.stvec ∧ t.me.sscratch = s.me.sscratch ∧ t.me.sxlat = s.me.sxlat ∧ t.me.violog = s.me.violog ∧
    t.me.lgquota = s.me.lgquota ∧
    (t.me.sup = false → t.me.sstatus = s.me.sstatus ∧ t.me.sepc = s.me.sepc ∧ t.me.scause = s.me.scause ∧ t.me.stval = s.me.stval) ∧
    (t.me.sup = true → t.me.pc = s.me.stvec &&& ~~~ 3 ∧ t.me.sstatus.getLsbD 2 = false) ∧
    ∀ j : Fin 512, j ≠ s.cur → (t.harts[j].sup = s.harts[j].sup ∧ t.harts[j].sstatus = s.harts[j].sstatus ∧ t.harts[j].stvec = s.harts[j].stvec ∧
      t.harts[j].sepc = s.harts[j].sepc ∧ t.harts[j].scause = s.harts[j].scause ∧ t.harts[j].stval = s.harts[j].stval ∧
      t.harts[j].sscratch = s.harts[j].sscratch ∧ t.harts[j].sxlat = s.harts[j].sxlat ∧ t.harts[j].violog = s.harts[j].violog ∧
      t.harts[j].lgquota = s.harts[j].lgquota)
end

