-- ==== Sys2Proof/Laws/Decode.lean ====
section
/-! SUPPORT. The encoding: a word is its fields, an immediate is its parts, and the bytes of an encoding decode by its bits. -/

namespace Sys2Proof

/-! ### Words and their fields -/

theorem Fields.pack_bounds (cls : Nat) (x : Fields) (h : cls < 4) : Fields.pack cls x % 4 = cls ∧ Fields.pack cls x < 2 ^ 32 := by
  have h1 := x.f.isLt; have h2 := x.e.isLt; have h3 := x.d.isLt; have h4 := x.c.isLt; have h5 := x.b.isLt; have h6 := x.a.isLt
  have h7 := x.major.isLt
  unfold Fields.pack; omega
theorem Fields.unpack_pack (cls : Nat) (x : Fields) (h : cls < 4) : Fields.unpack (Fields.pack cls x) = x := by
  have h1 := x.f.isLt; have h2 := x.e.isLt; have h3 := x.d.isLt; have h4 := x.c.isLt; have h5 := x.b.isLt; have h6 := x.a.isLt
  have h7 := x.major.isLt
  cases x
  simp only [Fields.unpack, Fields.pack, Fields.mk.injEq] at *
  refine ⟨?_, ?_, ?_, ?_, ?_, ?_, ?_⟩ <;> (apply BitVec.eq_of_toNat_eq; rw [BitVec.toNat_ofNat]; omega)
theorem Tile.pack_bound (y : Tile) : Tile.pack y < 2 ^ 32 := by
  have h1 := y.rest.isLt; have h2 := y.vb.isLt; have h3 := y.epi.isLt; have h4 := y.fmt.isLt; have h5 := y.rows.isLt; have h6 := y.tile.isLt
  unfold Tile.pack; omega
theorem Tile.unpack_pack (y : Tile) : Tile.unpack (Tile.pack y) = y := by
  have h1 := y.rest.isLt; have h2 := y.vb.isLt; have h3 := y.epi.isLt; have h4 := y.fmt.isLt; have h5 := y.rows.isLt; have h6 := y.tile.isLt
  cases y
  simp only [Tile.unpack, Tile.pack, Tile.mk.injEq] at *
  refine ⟨?_, ?_, ?_, ?_, ?_, ?_⟩ <;> (apply BitVec.eq_of_toNat_eq; rw [BitVec.toNat_ofNat]; omega)

theorem decodeBits_scalar (x : Fields) : decodeBits (Fields.pack 1 x) = decodeScalar x := by
  obtain ⟨h1, h2⟩ := Fields.pack_bounds 1 x (by decide)
  simp only [decodeBits, h1, Nat.mod_eq_of_lt (show Fields.pack 1 x < 4294967296 from h2), Fields.unpack_pack 1 x (by decide)]
theorem decodeBits_vector (x : Fields) : decodeBits (Fields.pack 2 x) = decodeVector x := by
  obtain ⟨h1, h2⟩ := Fields.pack_bounds 2 x (by decide)
  simp only [decodeBits, h1, Nat.mod_eq_of_lt (show Fields.pack 2 x < 4294967296 from h2), Fields.unpack_pack 2 x (by decide)]
theorem decodeBits_tile (x : Fields) (y : Tile) : decodeBits (Fields.pack 3 x + 4294967296 * Tile.pack y) = decodeTile x y := by
  obtain ⟨h1, h2⟩ := Fields.pack_bounds 3 x (by decide)
  have h3 := Tile.pack_bound y
  have e1 : (Fields.pack 3 x + 4294967296 * Tile.pack y) % 4 = 3 := by omega
  have e2 : (Fields.pack 3 x + 4294967296 * Tile.pack y) % 4294967296 = Fields.pack 3 x := by omega
  have e3 : (Fields.pack 3 x + 4294967296 * Tile.pack y) / 4294967296 % 4294967296 = Tile.pack y := by omega
  simp only [decodeBits, e1, e2, e3, Fields.unpack_pack 3 x (by decide), Tile.unpack_pack]
theorem decodeBits_compressed (op p : Nat) (h : op < 16) (hp : p < 1024) : decodeBits (4 * op + 64 * p) = decodeCompressed op p := by
  have e1 : (4 * op + 64 * p) % 4 = 0 := by omega
  have e2 : (4 * op + 64 * p) / 4 % 16 = op := by omega
  have e3 : (4 * op + 64 * p) / 64 % 1024 = p := by omega
  simp only [decodeBits, e1, e2, e3]

/-! ### Immediates and fields that are split -/

theorem Fields.immI_pack (imm : BitVec 11) (fn3 : Nat) (a b : BitVec 5) (m : BitVec 6) (h : fn3 < 8) :
    Fields.immI { f := BitVec.ofNat 4 (imm.toNat / 128), e := BitVec.ofNat 2 (imm.toNat / 32), d := BitVec.ofNat 3 (imm.toNat / 4),
                  c := BitVec.ofNat 5 (8 * (imm.toNat % 4) + fn3), b := b, a := a, major := m } = imm := by
  have := imm.isLt
  apply BitVec.eq_of_toNat_eq
  simp only [Fields.immI, BitVec.toNat_ofNat]; omega
theorem Fields.fn3_pack (imm : BitVec 11) (fn3 : Nat) (a b : BitVec 5) (d : BitVec 3) (e : BitVec 2) (f : BitVec 4) (m : BitVec 6) (h : fn3 < 8) :
    Fields.fn3 { f := f, e := e, d := d, c := BitVec.ofNat 5 (8 * (imm.toNat % 4) + fn3), b := b, a := a, major := m } = fn3 := by
  simp only [Fields.fn3, BitVec.toNat_ofNat]; omega
theorem Fields.immS_pack (imm : BitVec 11) (d : BitVec 3) (b c : BitVec 5) (m : BitVec 6) :
    Fields.immS { f := BitVec.ofNat 4 (imm.toNat / 128), e := BitVec.ofNat 2 (imm.toNat / 32), d := d, c := c, b := b,
                  a := BitVec.ofNat 5 imm.toNat, major := m } = imm := by
  have := imm.isLt
  apply BitVec.eq_of_toNat_eq
  simp only [Fields.immS, BitVec.toNat_ofNat]; omega
theorem Fields.immU_pack (imm : BitVec 19) (a : BitVec 5) (m : BitVec 6) :
    Fields.immU { f := BitVec.ofNat 4 (imm.toNat / 32768), e := BitVec.ofNat 2 (imm.toNat / 8192), d := BitVec.ofNat 3 (imm.toNat / 1024),
                  c := BitVec.ofNat 5 (imm.toNat / 32), b := BitVec.ofNat 5 imm.toNat, a := a, major := m } = imm := by
  have := imm.isLt
  apply BitVec.eq_of_toNat_eq
  simp only [Fields.immU, BitVec.toNat_ofNat]; omega
theorem Fields.rs3_pack (rs3 : BitVec 5) (f : BitVec 4) (a b c : BitVec 5) (m : BitVec 6) :
    Fields.rs3 { f := f, e := BitVec.ofNat 2 (rs3.toNat / 8), d := BitVec.ofNat 3 rs3.toNat, c := c, b := b, a := a, major := m } = rs3 := by
  have := rs3.isLt
  apply BitVec.eq_of_toNat_eq
  simp only [Fields.rs3, BitVec.toNat_ofNat]; omega

theorem narrow54 (q : BitVec 4) : (q.setWidth 5).setWidth 4 = q := by revert q; decide
theorem narrow53 (k : BitVec 3) : (k.setWidth 5).setWidth 3 = k := by revert k; decide
theorem narrow32 (k : BitVec 2) : (k.setWidth 3).setWidth 2 = k := by revert k; decide
theorem fits54 (q : BitVec 4) : decide ((q.setWidth 5).toNat < 16) = true := by revert q; decide
theorem fits53 (k : BitVec 3) : decide ((k.setWidth 5).toNat < 8) = true := by revert k; decide
theorem fits32 (k : BitVec 2) : decide ((k.setWidth 3).toNat < 4) = true := by revert k; decide

/-! ### Bytes -/

theorem leNat_leBytes (n v : Nat) : leNat (leBytes n v) = v % 2 ^ (8 * n) := by
  induction n generalizing v with
  | zero => simp [leBytes, leNat, Nat.mod_one]
  | succ n ih =>
    simp only [leBytes, leNat, ih, BitVec.toNat_ofNat]
    rw [show 8 * (n + 1) = 8 + 8 * n by omega, Nat.pow_add, Nat.mod_mul]
@[simp] theorem leBytes_length (n v : Nat) : (leBytes n v).length = n := by
  induction n generalizing v with
  | zero => rfl
  | succ n ih => simp [leBytes, ih]
theorem classLength_mod (w : Nat) : classLength (w % 256) = classLength w := by
  unfold classLength
  rw [show w % 256 % 4 = w % 4 by omega]
/-- Bytes that begin with an instruction's word decode by its bits, whatever follows. -/
theorem decode_of_bits {i : Instr} {w : Nat} (rest : List (BitVec 8)) (hw : w < 2 ^ (8 * classLength w)) (h : decodeBits w = .ok i) :
    decode (leBytes (classLength w) w ++ rest) = .ok (i, rest) := by
  obtain ⟨n, hn⟩ : ∃ n, classLength w = n + 1 := by
    unfold classLength; split
    · exact ⟨1, rfl⟩
    · exact ⟨7, rfl⟩
    · exact ⟨3, rfl⟩
  have e1 : (leBytes (classLength w) w ++ rest).take 1 = [BitVec.ofNat 8 w] := by rw [hn]; simp [leBytes]
  have e2 : classLength (leNat ((leBytes (classLength w) w ++ rest).take 1)) = classLength w := by
    rw [e1]; simp only [leNat, BitVec.toNat_ofNat]; exact classLength_mod w
  unfold decode
  simp only [e2]
  have hl : ¬ (leBytes (classLength w) w ++ rest).length < classLength w := by simp
  have e3 : (leBytes (classLength w) w ++ rest).take (classLength w) = leBytes (classLength w) w := by
    rw [List.take_append_of_le_length (by simp)]; exact List.take_of_length_le (by simp)
  have e4 : (leBytes (classLength w) w ++ rest).drop (classLength w) = rest := by
    rw [List.drop_append_of_le_length (by simp), List.drop_of_length_le (by simp)]; rfl
  rw [if_neg hl, e3, e4, leNat_leBytes, Nat.mod_eq_of_lt hw, h]

end Sys2Proof
end

