-- ==== Sys2Proof/Laws/Map.lean ====
section
/-! SUPPORT. Sparse data: what is read after a write, and that every operation keeps the canonical form. -/

namespace Sys2Proof.Machine

section
variable {α : Type} [DecidableEq α] {d : α}

theorem SMap.wfFrom_mono {m : SMap α} {lo lo' : Nat} (h : lo' ≤ lo) (w : SMap.wfFrom d lo m = true) : SMap.wfFrom d lo' m = true := by
  cases m with
  | nil => rfl
  | cons e r =>
    obtain ⟨k, v⟩ := e
    simp only [SMap.wfFrom, Bool.and_eq_true, decide_eq_true_eq] at w ⊢
    exact ⟨⟨by omega, w.1.2⟩, w.2⟩

theorem SMap.get_below {m : SMap α} {lo i : Nat} (w : SMap.wfFrom d lo m = true) (h : i < lo) : SMap.get d m i = d := by
  cases m with
  | nil => rfl
  | cons e r =>
    obtain ⟨k, v⟩ := e
    simp only [SMap.wfFrom, Bool.and_eq_true, decide_eq_true_eq] at w
    simp only [SMap.get]
    rw [if_neg (by omega), if_pos (by omega)]

/-- A write keeps the canonical form. -/
theorem SMap.wfFrom_set {m : SMap α} {lo : Nat} (i : Nat) (v : α) (h : lo ≤ i) (w : SMap.wfFrom d lo m = true) :
    SMap.wfFrom d lo (SMap.set d m i v) = true := by
  induction m generalizing lo with
  | nil =>
    simp only [SMap.set]
    split
    · rfl
    · simp [SMap.wfFrom, *]
  | cons e r ih =>
    obtain ⟨k, x⟩ := e
    simp only [SMap.wfFrom, Bool.and_eq_true, decide_eq_true_eq] at w
    simp only [SMap.set]
    split
    · split
      · simp [SMap.wfFrom, w]
      · have := SMap.wfFrom_mono (d := d) (m := r) (lo := k + 1) (lo' := k + 1) le_rfl w.2
        simp [SMap.wfFrom, *]
    · split
      · split
        · exact SMap.wfFrom_mono (by omega) w.2
        · simp_all [SMap.wfFrom]
      · simp only [SMap.wfFrom, Bool.and_eq_true, decide_eq_true_eq]
        exact ⟨w.1, ih (by omega) w.2⟩

theorem SMap.wf_set {m : SMap α} (i : Nat) (v : α) (w : SMap.wf d m = true) : SMap.wf d (SMap.set d m i v) = true :=
  SMap.wfFrom_set i v (Nat.zero_le i) w

theorem SMap.wf_setRange {m : SMap α} (l : List α) (i : Nat) (w : SMap.wf d m = true) : SMap.wf d (SMap.setRange d m i l) = true := by
  induction l generalizing m i with
  | nil => exact w
  | cons v r ih => exact ih (i + 1) (SMap.wf_set i v w)

/-- Entries removed keep the canonical form. -/
theorem SMap.wfFrom_filter {m : SMap α} {lo : Nat} (p : Nat × α → Bool) (w : SMap.wfFrom d lo m = true) :
    SMap.wfFrom d lo (m.filter p) = true := by
  induction m generalizing lo with
  | nil => rfl
  | cons e r ih =>
    obtain ⟨k, v⟩ := e
    simp only [SMap.wfFrom, Bool.and_eq_true, decide_eq_true_eq] at w
    rw [List.filter_cons]
    split
    · simp only [SMap.wfFrom, Bool.and_eq_true, decide_eq_true_eq]
      exact ⟨w.1, ih w.2⟩
    · exact SMap.wfFrom_mono (by omega) (ih w.2)

theorem SMap.wf_filter {m : SMap α} (p : Nat × α → Bool) (w : SMap.wf d m = true) : SMap.wf d (m.filter p) = true :=
  SMap.wfFrom_filter p w

/-- Every key of one list is below a bound and every key of the next at least at it: joined they keep the form. -/
theorem SMap.wfFrom_append {m m' : SMap α} {lo hi : Nat} (w : SMap.wfFrom d lo m = true) (b : ∀ e ∈ m, e.1 < hi)
    (w' : SMap.wfFrom d hi m' = true) (h : lo ≤ hi) : SMap.wfFrom d lo (m ++ m') = true := by
  induction m generalizing lo with
  | nil => exact SMap.wfFrom_mono h w'
  | cons e r ih =>
    obtain ⟨k, v⟩ := e
    simp only [SMap.wfFrom, Bool.and_eq_true, decide_eq_true_eq, List.cons_append] at w ⊢
    have : k < hi := b (k, v) (by simp)
    exact ⟨w.1, ih w.2 (fun e he => b e (by simp [he])) (by omega)⟩

/-- Entries from a bound on keep the form from that bound. -/
theorem SMap.wfFrom_raise {m : SMap α} {lo hi : Nat} (w : SMap.wfFrom d lo m = true) (b : ∀ e ∈ m, hi ≤ e.1) : SMap.wfFrom d hi m = true := by
  cases m with
  | nil => rfl
  | cons e r =>
    obtain ⟨k, v⟩ := e
    simp only [SMap.wfFrom, Bool.and_eq_true, decide_eq_true_eq] at w ⊢
    exact ⟨⟨b (k, v) (by simp), w.1.2⟩, w.2⟩

/-- A range taken from another map keeps the canonical form. -/
theorem SMap.wf_splice {m part : SMap α} (lo hi : Nat) (w : SMap.wf d m = true) (p : SMap.wf d part = true) :
    SMap.wf d (SMap.splice lo hi m part) = true := by
  unfold SMap.splice
  have inner : SMap.wfFrom d lo (part.filter (fun e => decide (lo ≤ e.1) && decide (e.1 < hi)) ++
      m.filter fun e => decide (lo ≤ e.1) && decide (hi ≤ e.1)) = true := by
    refine SMap.wfFrom_append (hi := max lo hi)
      (SMap.wfFrom_raise (SMap.wf_filter (fun e => decide (lo ≤ e.1) && decide (e.1 < hi)) p) ?_) ?_
      (SMap.wfFrom_raise (SMap.wf_filter (fun e => decide (lo ≤ e.1) && decide (hi ≤ e.1)) w) ?_) (by omega)
    all_goals
      intro e he
      simp only [List.mem_filter, Bool.and_eq_true, decide_eq_true_eq] at he
      omega
  refine SMap.wfFrom_append (hi := lo) (SMap.wf_filter (fun e => decide (e.1 < lo)) w) ?_ inner (Nat.zero_le _)
  intro e he
  simpa using (List.mem_filter.mp he).2

theorem SMap.wfFrom_shift {m : SMap α} {lo : Nat} (src dst : Nat) (w : SMap.wfFrom d lo m = true) (b : ∀ e ∈ m, src ≤ e.1) (h : src ≤ lo) :
    SMap.wfFrom d (dst + (lo - src)) (m.map fun e => (dst + (e.1 - src), e.2)) = true := by
  induction m generalizing lo with
  | nil => rfl
  | cons e r ih =>
    obtain ⟨k, v⟩ := e
    simp only [SMap.wfFrom, Bool.and_eq_true, decide_eq_true_eq, List.map_cons] at w ⊢
    have hk : src ≤ k := b (k, v) (by simp)
    have := ih w.2 (fun e he => b e (by simp [he])) (by omega)
    exact ⟨⟨by omega, w.1.2⟩, by rwa [show dst + (k - src) + 1 = dst + (k + 1 - src) by omega]⟩

/-- A range moved keeps the canonical form. -/
theorem SMap.wf_move {m : SMap α} (src n dst : Nat) (w : SMap.wf d m = true) : SMap.wf d (SMap.move src n dst m) = true := by
  unfold SMap.move
  have b : ∀ e ∈ m.filter (fun e => decide (src ≤ e.1) && decide (e.1 < src + n)), src ≤ e.1 := by
    intro e he
    simp only [List.mem_filter, Bool.and_eq_true, decide_eq_true_eq] at he
    exact he.2.1
  exact SMap.wfFrom_mono (Nat.zero_le _) (SMap.wfFrom_shift src dst (SMap.wfFrom_raise (SMap.wf_filter _ w) b) b le_rfl)

/-- A write elsewhere leaves the value read. -/
theorem SMap.get_set_ne {m : SMap α} {lo i j : Nat} (v : α) (w : SMap.wfFrom d lo m = true) (h : i ≠ j) :
    SMap.get d (SMap.set d m i v) j = SMap.get d m j := by
  induction m generalizing lo with
  | nil =>
    simp only [SMap.set]
    split
    · rfl
    · simp only [SMap.get]
      rw [if_neg h]
      split <;> rfl
  | cons e r ih =>
    obtain ⟨k, x⟩ := e
    simp only [SMap.wfFrom, Bool.and_eq_true, decide_eq_true_eq] at w
    simp only [SMap.set]
    split
    · split
      · rfl
      · rw [SMap.get, if_neg h]
        split
        · symm
          rw [SMap.get, if_neg (by omega), if_pos (by omega)]
        · rfl
    · split
      · subst_vars
        split
        · rw [SMap.get, if_neg h]
          split
          · exact SMap.get_below w.2 (by omega)
          · rfl
        · rw [SMap.get, SMap.get, if_neg h, if_neg h]
      · rw [SMap.get, SMap.get]
        split
        · rfl
        · split
          · rfl
          · exact ih w.2

/-- The value written is the value read. -/
theorem SMap.get_set_same {m : SMap α} {lo : Nat} (i : Nat) (v : α) (w : SMap.wfFrom d lo m = true) :
    SMap.get d (SMap.set d m i v) i = v := by
  induction m generalizing lo with
  | nil =>
    simp only [SMap.set]
    split
    · simp [SMap.get, *]
    · simp [SMap.get]
  | cons e r ih =>
    obtain ⟨k, x⟩ := e
    simp only [SMap.wfFrom, Bool.and_eq_true, decide_eq_true_eq] at w
    simp only [SMap.set]
    split
    · split
      · rw [SMap.get, if_neg (by omega), if_pos (by omega)]; exact (by assumption : v = d).symm
      · simp [SMap.get]
    · split
      · subst_vars
        split
        · rw [SMap.get_below w.2 (by omega)]; exact (by assumption : v = d).symm
        · simp [SMap.get]
      · rw [SMap.get, if_neg (by omega), if_neg (by omega)]
        exact ih w.2

/-- Writes to a run of keys leave every other key. -/
theorem SMap.get_setRange_out {m : SMap α} (l : List α) (i j : Nat) (w : SMap.wf d m = true) (h : j < i ∨ i + l.length ≤ j) :
    SMap.get d (SMap.setRange d m i l) j = SMap.get d m j := by
  induction l generalizing m i with
  | nil => rfl
  | cons v r ih =>
    simp only [List.length_cons] at h
    rw [SMap.setRange, ih (i + 1) (SMap.wf_set i v w) (by omega)]
    exact SMap.get_set_ne v w (by omega)

/-- Writes to a run of keys are read back. -/
theorem SMap.get_setRange_in {m : SMap α} (l : List α) (i j : Nat) (w : SMap.wf d m = true) (h : i ≤ j) (hj : j - i < l.length) :
    SMap.get d (SMap.setRange d m i l) j = l[j - i] := by
  induction l generalizing m i with
  | nil => simp at hj
  | cons v r ih =>
    rw [SMap.setRange]
    by_cases e : i = j
    · subst e
      rw [SMap.get_setRange_out r (i + 1) i (SMap.wf_set i v w) (by omega), SMap.get_set_same i v w]
      simp
    · have h1 : j - i = (j - (i + 1)) + 1 := by omega
      simp only [List.length_cons] at hj
      rw [ih (i + 1) (SMap.wf_set i v w) (by omega) (by omega)]
      simp [h1]
end

end Sys2Proof.Machine
end

