-- ==== Sys2Proof/Laws/State.lean ====
section
/-! SUPPORT. Each field of the state after each update: one lemma for each field, true by unfolding, so that no proof unfolds a
record update. -/

namespace Sys2Proof.Machine

/-! ### The hart in hand and the numbered parts -/

@[simp] theorem mapMe_me (s : State) (f : Hart → Hart) : (s.mapMe f).me = f s.me := by simp [State.mapMe, State.me]
theorem me_eq_hartAt (s : State) : s.me = s.hartAt s.cur.val := by
  simp [State.me, State.hartAt]
@[simp] theorem mapMe_mapMe (s : State) (f g : Hart → Hart) : (s.mapMe f).mapMe g = s.mapMe (fun h => g (f h)) := by
  simp [State.mapMe]
@[simp] theorem mapMe_id (s : State) : s.mapMe (fun h => h) = s := by simp [State.mapMe]
theorem mapMe_hart_ne (s : State) (f : Hart → Hart) (i : Fin 512) (h : i ≠ s.cur) : (s.mapMe f).harts[i] = s.harts[i] := by
  have h' : s.cur.val ≠ i.val := fun e => h (Fin.ext e.symm)
  simp only [State.mapMe, Fin.getElem_fin]
  exact Vector.getElem_set_ne _ _ h'

@[simp] theorem mapHart_hartAt (s : State) (i : Nat) (f : Hart → Hart) : (s.mapHart i f).hartAt i = f (s.hartAt i) := by
  simp [State.mapHart, State.hartAt]
theorem mapHart_hartAt_ne (s : State) (i j : Nat) (f : Hart → Hart) (h : i % 512 ≠ j % 512) : (s.mapHart i f).hartAt j = s.hartAt j := by
  simp only [State.mapHart, State.hartAt, Fin.getElem_fin, Fin.val_ofNat]
  exact Vector.getElem_set_ne _ _ h

@[simp] theorem mapCrew_crewAt (s : State) (i : Nat) (f : Crew → Crew) : (s.mapCrew i f).crewAt i = f (s.crewAt i) := by
  simp [State.mapCrew, State.crewAt]
theorem mapCrew_crewAt_ne (s : State) (i j : Nat) (f : Crew → Crew) (h : i % 256 ≠ j % 256) : (s.mapCrew i f).crewAt j = s.crewAt j := by
  simp only [State.mapCrew, State.crewAt, Fin.getElem_fin, Fin.val_ofNat]
  exact Vector.getElem_set_ne _ _ h

@[simp] theorem mapCore_coreAt (s : State) (i : Nat) (f : Core → Core) : (s.mapCore i f).coreAt i = f (s.coreAt i) := by
  simp [State.mapCore, State.coreAt]
theorem mapCore_coreAt_ne (s : State) (i j : Nat) (f : Core → Core) (h : i % 64 ≠ j % 64) : (s.mapCore i f).coreAt j = s.coreAt j := by
  simp only [State.mapCore, State.coreAt, Fin.getElem_fin, Fin.val_ofNat]
  exact Vector.getElem_set_ne _ _ h

@[simp] theorem mapDie_dieAt (s : State) (i : Nat) (f : Die → Die) : (s.mapDie i f).dieAt i = f (s.dieAt i) := by
  simp [State.mapDie, State.dieAt]
theorem mapDie_dieAt_ne (s : State) (i j : Nat) (f : Die → Die) (h : i % 8 ≠ j % 8) : (s.mapDie i f).dieAt j = s.dieAt j := by
  simp only [State.mapDie, State.dieAt, Fin.getElem_fin, Fin.val_ofNat]
  exact Vector.getElem_set_ne _ _ h

@[simp] theorem mapWorld_worldAt (s : State) (i : Nat) (f : World → World) : (s.mapWorld i f).worldAt i = f (s.worldAt i) := by
  simp [State.mapWorld, State.worldAt]
theorem mapWorld_worldAt_ne (s : State) (i j : Nat) (f : World → World) (h : i % 16 ≠ j % 16) : (s.mapWorld i f).worldAt j = s.worldAt j := by
  simp only [State.mapWorld, State.worldAt, Fin.getElem_fin, Fin.val_ofNat]
  exact Vector.getElem_set_ne _ _ h

/-! ### State.mapMe -/

@[simp] theorem mapMe_mem (s : State) (f : Hart → Hart) : (s.mapMe f).mem = s.mem := rfl
@[simp] theorem mapMe_writes (s : State) (f : Hart → Hart) : (s.mapMe f).writes = s.writes := rfl
@[simp] theorem mapMe_nextWrite (s : State) (f : Hart → Hart) : (s.mapMe f).nextWrite = s.nextWrite := rfl
@[simp] theorem mapMe_poison (s : State) (f : Hart → Hart) : (s.mapMe f).poison = s.poison := rfl
@[simp] theorem mapMe_held (s : State) (f : Hart → Hart) : (s.mapMe f).held = s.held := rfl
@[simp] theorem mapMe_pools (s : State) (f : Hart → Hart) : (s.mapMe f).pools = s.pools := rfl
@[simp] theorem mapMe_pageWaits (s : State) (f : Hart → Hart) : (s.mapMe f).pageWaits = s.pageWaits := rfl
@[simp] theorem mapMe_indexes (s : State) (f : Hart → Hart) : (s.mapMe f).indexes = s.indexes := rfl
@[simp] theorem mapMe_ctxCmds (s : State) (f : Hart → Hart) : (s.mapMe f).ctxCmds = s.ctxCmds := rfl
@[simp] theorem mapMe_frameTag (s : State) (f : Hart → Hart) : (s.mapMe f).frameTag = s.frameTag := rfl
@[simp] theorem mapMe_frameMajor (s : State) (f : Hart → Hart) : (s.mapMe f).frameMajor = s.frameMajor := rfl
@[simp] theorem mapMe_lineVer (s : State) (f : Hart → Hart) : (s.mapMe f).lineVer = s.lineVer := rfl
@[simp] theorem mapMe_lineGen (s : State) (f : Hart → Hart) : (s.mapMe f).lineGen = s.lineGen := rfl
@[simp] theorem mapMe_groups (s : State) (f : Hart → Hart) : (s.mapMe f).groups = s.groups := rfl
@[simp] theorem mapMe_nextGseq (s : State) (f : Hart → Hart) : (s.mapMe f).nextGseq = s.nextGseq := rfl
@[simp] theorem mapMe_subs (s : State) (f : Hart → Hart) : (s.mapMe f).subs = s.subs := rfl
@[simp] theorem mapMe_nextSub (s : State) (f : Hart → Hart) : (s.mapMe f).nextSub = s.nextSub := rfl
@[simp] theorem mapMe_launches (s : State) (f : Hart → Hart) : (s.mapMe f).launches = s.launches := rfl
@[simp] theorem mapMe_nextLid (s : State) (f : Hart → Hart) : (s.mapMe f).nextLid = s.nextLid := rfl
@[simp] theorem mapMe_queues (s : State) (f : Hart → Hart) : (s.mapMe f).queues = s.queues := rfl
@[simp] theorem mapMe_parked (s : State) (f : Hart → Hart) : (s.mapMe f).parked = s.parked := rfl
@[simp] theorem mapMe_nextPid (s : State) (f : Hart → Hart) : (s.mapMe f).nextPid = s.nextPid := rfl
@[simp] theorem mapMe_nextBind (s : State) (f : Hart → Hart) : (s.mapMe f).nextBind = s.nextBind := rfl
@[simp] theorem mapMe_crews (s : State) (f : Hart → Hart) : (s.mapMe f).crews = s.crews := rfl
@[simp] theorem mapMe_cores (s : State) (f : Hart → Hart) : (s.mapMe f).cores = s.cores := rfl
@[simp] theorem mapMe_dies (s : State) (f : Hart → Hart) : (s.mapMe f).dies = s.dies := rfl
@[simp] theorem mapMe_worlds (s : State) (f : Hart → Hart) : (s.mapMe f).worlds = s.worlds := rfl
@[simp] theorem mapMe_nextKey (s : State) (f : Hart → Hart) : (s.mapMe f).nextKey = s.nextKey := rfl
@[simp] theorem mapMe_keyRing (s : State) (f : Hart → Hart) : (s.mapMe f).keyRing = s.keyRing := rfl
@[simp] theorem mapMe_parity (s : State) (f : Hart → Hart) : (s.mapMe f).parity = s.parity := rfl
@[simp] theorem mapMe_chFails (s : State) (f : Hart → Hart) : (s.mapMe f).chFails = s.chFails := rfl
@[simp] theorem mapMe_bankRows (s : State) (f : Hart → Hart) : (s.mapMe f).bankRows = s.bankRows := rfl
@[simp] theorem mapMe_rowFails (s : State) (f : Hart → Hart) : (s.mapMe f).rowFails = s.rowFails := rfl
@[simp] theorem mapMe_image (s : State) (f : Hart → Hart) : (s.mapMe f).image = s.image := rfl
@[simp] theorem mapMe_ckptSeq (s : State) (f : Hart → Hart) : (s.mapMe f).ckptSeq = s.ckptSeq := rfl
@[simp] theorem mapMe_ckptTime (s : State) (f : Hart → Hart) : (s.mapMe f).ckptTime = s.ckptTime := rfl
@[simp] theorem mapMe_sliceLog (s : State) (f : Hart → Hart) : (s.mapMe f).sliceLog = s.sliceLog := rfl
@[simp] theorem mapMe_mhz (s : State) (f : Hart → Hart) : (s.mapMe f).mhz = s.mhz := rfl
@[simp] theorem mapMe_clkset (s : State) (f : Hart → Hart) : (s.mapMe f).clkset = s.clkset := rfl
@[simp] theorem mapMe_pwrLimit (s : State) (f : Hart → Hart) : (s.mapMe f).pwrLimit = s.pwrLimit := rfl
@[simp] theorem mapMe_power (s : State) (f : Hart → Hart) : (s.mapMe f).power = s.power := rfl
@[simp] theorem mapMe_temps (s : State) (f : Hart → Hart) : (s.mapMe f).temps = s.temps := rfl
@[simp] theorem mapMe_overSince (s : State) (f : Hart → Hart) : (s.mapMe f).overSince = s.overSince := rfl
@[simp] theorem mapMe_needService (s : State) (f : Hart → Hart) : (s.mapMe f).needService = s.needService := rfl
@[simp] theorem mapMe_stopping (s : State) (f : Hart → Hart) : (s.mapMe f).stopping = s.stopping := rfl
@[simp] theorem mapMe_dying (s : State) (f : Hart → Hart) : (s.mapMe f).dying = s.dying := rfl
@[simp] theorem mapMe_off (s : State) (f : Hart → Hart) : (s.mapMe f).off = s.off := rfl
@[simp] theorem mapMe_bootFailed (s : State) (f : Hart → Hart) : (s.mapMe f).bootFailed = s.bootFailed := rfl
@[simp] theorem mapMe_mrBoot (s : State) (f : Hart → Hart) : (s.mapMe f).mrBoot = s.mrBoot := rfl
@[simp] theorem mapMe_devnum (s : State) (f : Hart → Hart) : (s.mapMe f).devnum = s.devnum := rfl
@[simp] theorem mapMe_requests (s : State) (f : Hart → Hart) : (s.mapMe f).requests = s.requests := rfl
@[simp] theorem mapMe_nextReq (s : State) (f : Hart → Hart) : (s.mapMe f).nextReq = s.nextReq := rfl
@[simp] theorem mapMe_ports (s : State) (f : Hart → Hart) : (s.mapMe f).ports = s.ports := rfl
@[simp] theorem mapMe_admission (s : State) (f : Hart → Hart) : (s.mapMe f).admission = s.admission := rfl
@[simp] theorem mapMe_atc (s : State) (f : Hart → Hart) : (s.mapMe f).atc = s.atc := rfl
@[simp] theorem mapMe_invals (s : State) (f : Hart → Hart) : (s.mapMe f).invals = s.invals := rfl
@[simp] theorem mapMe_nextInval (s : State) (f : Hart → Hart) : (s.mapMe f).nextInval = s.nextInval := rfl
@[simp] theorem mapMe_hostOut (s : State) (f : Hart → Hart) : (s.mapMe f).hostOut = s.hostOut := rfl
@[simp] theorem mapMe_streams (s : State) (f : Hart → Hart) : (s.mapMe f).streams = s.streams := rfl
@[simp] theorem mapMe_denied (s : State) (f : Hart → Hart) : (s.mapMe f).denied = s.denied := rfl
@[simp] theorem mapMe_apertures (s : State) (f : Hart → Hart) : (s.mapMe f).apertures = s.apertures := rfl
@[simp] theorem mapMe_telemetry (s : State) (f : Hart → Hart) : (s.mapMe f).telemetry = s.telemetry := rfl
@[simp] theorem mapMe_doorbell (s : State) (f : Hart → Hart) : (s.mapMe f).doorbell = s.doorbell := rfl
@[simp] theorem mapMe_bells (s : State) (f : Hart → Hart) : (s.mapMe f).bells = s.bells := rfl
@[simp] theorem mapMe_mbxReq (s : State) (f : Hart → Hart) : (s.mapMe f).mbxReq = s.mbxReq := rfl
@[simp] theorem mapMe_mbxResp (s : State) (f : Hart → Hart) : (s.mapMe f).mbxResp = s.mbxResp := rfl
@[simp] theorem mapMe_mbxDone (s : State) (f : Hart → Hart) : (s.mapMe f).mbxDone = s.mbxDone := rfl
@[simp] theorem mapMe_mbxErr (s : State) (f : Hart → Hart) : (s.mapMe f).mbxErr = s.mbxErr := rfl
@[simp] theorem mapMe_doe (s : State) (f : Hart → Hart) : (s.mapMe f).doe = s.doe := rfl
@[simp] theorem mapMe_now (s : State) (f : Hart → Hart) : (s.mapMe f).now = s.now := rfl
@[simp] theorem mapMe_freeCtr (s : State) (f : Hart → Hart) : (s.mapMe f).freeCtr = s.freeCtr := rfl
@[simp] theorem mapMe_cur (s : State) (f : Hart → Hart) : (s.mapMe f).cur = s.cur := rfl
@[simp] theorem mapMe_ir (s : State) (f : Hart → Hart) : (s.mapMe f).ir = s.ir := rfl
@[simp] theorem mapMe_agenda (s : State) (f : Hart → Hart) : (s.mapMe f).agenda = s.agenda := rfl
@[simp] theorem mapMe_crewAt (s : State) (f : Hart → Hart) (j : Nat) : (s.mapMe f).crewAt j = s.crewAt j := rfl
@[simp] theorem mapMe_coreAt (s : State) (f : Hart → Hart) (j : Nat) : (s.mapMe f).coreAt j = s.coreAt j := rfl
@[simp] theorem mapMe_dieAt (s : State) (f : Hart → Hart) (j : Nat) : (s.mapMe f).dieAt j = s.dieAt j := rfl
@[simp] theorem mapMe_worldAt (s : State) (f : Hart → Hart) (j : Nat) : (s.mapMe f).worldAt j = s.worldAt j := rfl

/-! ### State.mapHart -/

@[simp] theorem mapHart_mem (s : State) (i : Nat) (f : Hart → Hart) : (s.mapHart i f).mem = s.mem := rfl
@[simp] theorem mapHart_writes (s : State) (i : Nat) (f : Hart → Hart) : (s.mapHart i f).writes = s.writes := rfl
@[simp] theorem mapHart_nextWrite (s : State) (i : Nat) (f : Hart → Hart) : (s.mapHart i f).nextWrite = s.nextWrite := rfl
@[simp] theorem mapHart_poison (s : State) (i : Nat) (f : Hart → Hart) : (s.mapHart i f).poison = s.poison := rfl
@[simp] theorem mapHart_held (s : State) (i : Nat) (f : Hart → Hart) : (s.mapHart i f).held = s.held := rfl
@[simp] theorem mapHart_pools (s : State) (i : Nat) (f : Hart → Hart) : (s.mapHart i f).pools = s.pools := rfl
@[simp] theorem mapHart_pageWaits (s : State) (i : Nat) (f : Hart → Hart) : (s.mapHart i f).pageWaits = s.pageWaits := rfl
@[simp] theorem mapHart_indexes (s : State) (i : Nat) (f : Hart → Hart) : (s.mapHart i f).indexes = s.indexes := rfl
@[simp] theorem mapHart_ctxCmds (s : State) (i : Nat) (f : Hart → Hart) : (s.mapHart i f).ctxCmds = s.ctxCmds := rfl
@[simp] theorem mapHart_frameTag (s : State) (i : Nat) (f : Hart → Hart) : (s.mapHart i f).frameTag = s.frameTag := rfl
@[simp] theorem mapHart_frameMajor (s : State) (i : Nat) (f : Hart → Hart) : (s.mapHart i f).frameMajor = s.frameMajor := rfl
@[simp] theorem mapHart_lineVer (s : State) (i : Nat) (f : Hart → Hart) : (s.mapHart i f).lineVer = s.lineVer := rfl
@[simp] theorem mapHart_lineGen (s : State) (i : Nat) (f : Hart → Hart) : (s.mapHart i f).lineGen = s.lineGen := rfl
@[simp] theorem mapHart_groups (s : State) (i : Nat) (f : Hart → Hart) : (s.mapHart i f).groups = s.groups := rfl
@[simp] theorem mapHart_nextGseq (s : State) (i : Nat) (f : Hart → Hart) : (s.mapHart i f).nextGseq = s.nextGseq := rfl
@[simp] theorem mapHart_subs (s : State) (i : Nat) (f : Hart → Hart) : (s.mapHart i f).subs = s.subs := rfl
@[simp] theorem mapHart_nextSub (s : State) (i : Nat) (f : Hart → Hart) : (s.mapHart i f).nextSub = s.nextSub := rfl
@[simp] theorem mapHart_launches (s : State) (i : Nat) (f : Hart → Hart) : (s.mapHart i f).launches = s.launches := rfl
@[simp] theorem mapHart_nextLid (s : State) (i : Nat) (f : Hart → Hart) : (s.mapHart i f).nextLid = s.nextLid := rfl
@[simp] theorem mapHart_queues (s : State) (i : Nat) (f : Hart → Hart) : (s.mapHart i f).queues = s.queues := rfl
@[simp] theorem mapHart_parked (s : State) (i : Nat) (f : Hart → Hart) : (s.mapHart i f).parked = s.parked := rfl
@[simp] theorem mapHart_nextPid (s : State) (i : Nat) (f : Hart → Hart) : (s.mapHart i f).nextPid = s.nextPid := rfl
@[simp] theorem mapHart_nextBind (s : State) (i : Nat) (f : Hart → Hart) : (s.mapHart i f).nextBind = s.nextBind := rfl
@[simp] theorem mapHart_crews (s : State) (i : Nat) (f : Hart → Hart) : (s.mapHart i f).crews = s.crews := rfl
@[simp] theorem mapHart_cores (s : State) (i : Nat) (f : Hart → Hart) : (s.mapHart i f).cores = s.cores := rfl
@[simp] theorem mapHart_dies (s : State) (i : Nat) (f : Hart → Hart) : (s.mapHart i f).dies = s.dies := rfl
@[simp] theorem mapHart_worlds (s : State) (i : Nat) (f : Hart → Hart) : (s.mapHart i f).worlds = s.worlds := rfl
@[simp] theorem mapHart_nextKey (s : State) (i : Nat) (f : Hart → Hart) : (s.mapHart i f).nextKey = s.nextKey := rfl
@[simp] theorem mapHart_keyRing (s : State) (i : Nat) (f : Hart → Hart) : (s.mapHart i f).keyRing = s.keyRing := rfl
@[simp] theorem mapHart_parity (s : State) (i : Nat) (f : Hart → Hart) : (s.mapHart i f).parity = s.parity := rfl
@[simp] theorem mapHart_chFails (s : State) (i : Nat) (f : Hart → Hart) : (s.mapHart i f).chFails = s.chFails := rfl
@[simp] theorem mapHart_bankRows (s : State) (i : Nat) (f : Hart → Hart) : (s.mapHart i f).bankRows = s.bankRows := rfl
@[simp] theorem mapHart_rowFails (s : State) (i : Nat) (f : Hart → Hart) : (s.mapHart i f).rowFails = s.rowFails := rfl
@[simp] theorem mapHart_image (s : State) (i : Nat) (f : Hart → Hart) : (s.mapHart i f).image = s.image := rfl
@[simp] theorem mapHart_ckptSeq (s : State) (i : Nat) (f : Hart → Hart) : (s.mapHart i f).ckptSeq = s.ckptSeq := rfl
@[simp] theorem mapHart_ckptTime (s : State) (i : Nat) (f : Hart → Hart) : (s.mapHart i f).ckptTime = s.ckptTime := rfl
@[simp] theorem mapHart_sliceLog (s : State) (i : Nat) (f : Hart → Hart) : (s.mapHart i f).sliceLog = s.sliceLog := rfl
@[simp] theorem mapHart_mhz (s : State) (i : Nat) (f : Hart → Hart) : (s.mapHart i f).mhz = s.mhz := rfl
@[simp] theorem mapHart_clkset (s : State) (i : Nat) (f : Hart → Hart) : (s.mapHart i f).clkset = s.clkset := rfl
@[simp] theorem mapHart_pwrLimit (s : State) (i : Nat) (f : Hart → Hart) : (s.mapHart i f).pwrLimit = s.pwrLimit := rfl
@[simp] theorem mapHart_power (s : State) (i : Nat) (f : Hart → Hart) : (s.mapHart i f).power = s.power := rfl
@[simp] theorem mapHart_temps (s : State) (i : Nat) (f : Hart → Hart) : (s.mapHart i f).temps = s.temps := rfl
@[simp] theorem mapHart_overSince (s : State) (i : Nat) (f : Hart → Hart) : (s.mapHart i f).overSince = s.overSince := rfl
@[simp] theorem mapHart_needService (s : State) (i : Nat) (f : Hart → Hart) : (s.mapHart i f).needService = s.needService := rfl
@[simp] theorem mapHart_stopping (s : State) (i : Nat) (f : Hart → Hart) : (s.mapHart i f).stopping = s.stopping := rfl
@[simp] theorem mapHart_dying (s : State) (i : Nat) (f : Hart → Hart) : (s.mapHart i f).dying = s.dying := rfl
@[simp] theorem mapHart_off (s : State) (i : Nat) (f : Hart → Hart) : (s.mapHart i f).off = s.off := rfl
@[simp] theorem mapHart_bootFailed (s : State) (i : Nat) (f : Hart → Hart) : (s.mapHart i f).bootFailed = s.bootFailed := rfl
@[simp] theorem mapHart_mrBoot (s : State) (i : Nat) (f : Hart → Hart) : (s.mapHart i f).mrBoot = s.mrBoot := rfl
@[simp] theorem mapHart_devnum (s : State) (i : Nat) (f : Hart → Hart) : (s.mapHart i f).devnum = s.devnum := rfl
@[simp] theorem mapHart_requests (s : State) (i : Nat) (f : Hart → Hart) : (s.mapHart i f).requests = s.requests := rfl
@[simp] theorem mapHart_nextReq (s : State) (i : Nat) (f : Hart → Hart) : (s.mapHart i f).nextReq = s.nextReq := rfl
@[simp] theorem mapHart_ports (s : State) (i : Nat) (f : Hart → Hart) : (s.mapHart i f).ports = s.ports := rfl
@[simp] theorem mapHart_admission (s : State) (i : Nat) (f : Hart → Hart) : (s.mapHart i f).admission = s.admission := rfl
@[simp] theorem mapHart_atc (s : State) (i : Nat) (f : Hart → Hart) : (s.mapHart i f).atc = s.atc := rfl
@[simp] theorem mapHart_invals (s : State) (i : Nat) (f : Hart → Hart) : (s.mapHart i f).invals = s.invals := rfl
@[simp] theorem mapHart_nextInval (s : State) (i : Nat) (f : Hart → Hart) : (s.mapHart i f).nextInval = s.nextInval := rfl
@[simp] theorem mapHart_hostOut (s : State) (i : Nat) (f : Hart → Hart) : (s.mapHart i f).hostOut = s.hostOut := rfl
@[simp] theorem mapHart_streams (s : State) (i : Nat) (f : Hart → Hart) : (s.mapHart i f).streams = s.streams := rfl
@[simp] theorem mapHart_denied (s : State) (i : Nat) (f : Hart → Hart) : (s.mapHart i f).denied = s.denied := rfl
@[simp] theorem mapHart_apertures (s : State) (i : Nat) (f : Hart → Hart) : (s.mapHart i f).apertures = s.apertures := rfl
@[simp] theorem mapHart_telemetry (s : State) (i : Nat) (f : Hart → Hart) : (s.mapHart i f).telemetry = s.telemetry := rfl
@[simp] theorem mapHart_doorbell (s : State) (i : Nat) (f : Hart → Hart) : (s.mapHart i f).doorbell = s.doorbell := rfl
@[simp] theorem mapHart_bells (s : State) (i : Nat) (f : Hart → Hart) : (s.mapHart i f).bells = s.bells := rfl
@[simp] theorem mapHart_mbxReq (s : State) (i : Nat) (f : Hart → Hart) : (s.mapHart i f).mbxReq = s.mbxReq := rfl
@[simp] theorem mapHart_mbxResp (s : State) (i : Nat) (f : Hart → Hart) : (s.mapHart i f).mbxResp = s.mbxResp := rfl
@[simp] theorem mapHart_mbxDone (s : State) (i : Nat) (f : Hart → Hart) : (s.mapHart i f).mbxDone = s.mbxDone := rfl
@[simp] theorem mapHart_mbxErr (s : State) (i : Nat) (f : Hart → Hart) : (s.mapHart i f).mbxErr = s.mbxErr := rfl
@[simp] theorem mapHart_doe (s : State) (i : Nat) (f : Hart → Hart) : (s.mapHart i f).doe = s.doe := rfl
@[simp] theorem mapHart_now (s : State) (i : Nat) (f : Hart → Hart) : (s.mapHart i f).now = s.now := rfl
@[simp] theorem mapHart_freeCtr (s : State) (i : Nat) (f : Hart → Hart) : (s.mapHart i f).freeCtr = s.freeCtr := rfl
@[simp] theorem mapHart_cur (s : State) (i : Nat) (f : Hart → Hart) : (s.mapHart i f).cur = s.cur := rfl
@[simp] theorem mapHart_ir (s : State) (i : Nat) (f : Hart → Hart) : (s.mapHart i f).ir = s.ir := rfl
@[simp] theorem mapHart_agenda (s : State) (i : Nat) (f : Hart → Hart) : (s.mapHart i f).agenda = s.agenda := rfl
@[simp] theorem mapHart_crewAt (s : State) (i : Nat) (f : Hart → Hart) (j : Nat) : (s.mapHart i f).crewAt j = s.crewAt j := rfl
@[simp] theorem mapHart_coreAt (s : State) (i : Nat) (f : Hart → Hart) (j : Nat) : (s.mapHart i f).coreAt j = s.coreAt j := rfl
@[simp] theorem mapHart_dieAt (s : State) (i : Nat) (f : Hart → Hart) (j : Nat) : (s.mapHart i f).dieAt j = s.dieAt j := rfl
@[simp] theorem mapHart_worldAt (s : State) (i : Nat) (f : Hart → Hart) (j : Nat) : (s.mapHart i f).worldAt j = s.worldAt j := rfl

/-! ### State.mapCrew -/

@[simp] theorem mapCrew_mem (s : State) (i : Nat) (f : Crew → Crew) : (s.mapCrew i f).mem = s.mem := rfl
@[simp] theorem mapCrew_writes (s : State) (i : Nat) (f : Crew → Crew) : (s.mapCrew i f).writes = s.writes := rfl
@[simp] theorem mapCrew_nextWrite (s : State) (i : Nat) (f : Crew → Crew) : (s.mapCrew i f).nextWrite = s.nextWrite := rfl
@[simp] theorem mapCrew_poison (s : State) (i : Nat) (f : Crew → Crew) : (s.mapCrew i f).poison = s.poison := rfl
@[simp] theorem mapCrew_held (s : State) (i : Nat) (f : Crew → Crew) : (s.mapCrew i f).held = s.held := rfl
@[simp] theorem mapCrew_pools (s : State) (i : Nat) (f : Crew → Crew) : (s.mapCrew i f).pools = s.pools := rfl
@[simp] theorem mapCrew_pageWaits (s : State) (i : Nat) (f : Crew → Crew) : (s.mapCrew i f).pageWaits = s.pageWaits := rfl
@[simp] theorem mapCrew_indexes (s : State) (i : Nat) (f : Crew → Crew) : (s.mapCrew i f).indexes = s.indexes := rfl
@[simp] theorem mapCrew_ctxCmds (s : State) (i : Nat) (f : Crew → Crew) : (s.mapCrew i f).ctxCmds = s.ctxCmds := rfl
@[simp] theorem mapCrew_frameTag (s : State) (i : Nat) (f : Crew → Crew) : (s.mapCrew i f).frameTag = s.frameTag := rfl
@[simp] theorem mapCrew_frameMajor (s : State) (i : Nat) (f : Crew → Crew) : (s.mapCrew i f).frameMajor = s.frameMajor := rfl
@[simp] theorem mapCrew_lineVer (s : State) (i : Nat) (f : Crew → Crew) : (s.mapCrew i f).lineVer = s.lineVer := rfl
@[simp] theorem mapCrew_lineGen (s : State) (i : Nat) (f : Crew → Crew) : (s.mapCrew i f).lineGen = s.lineGen := rfl
@[simp] theorem mapCrew_groups (s : State) (i : Nat) (f : Crew → Crew) : (s.mapCrew i f).groups = s.groups := rfl
@[simp] theorem mapCrew_nextGseq (s : State) (i : Nat) (f : Crew → Crew) : (s.mapCrew i f).nextGseq = s.nextGseq := rfl
@[simp] theorem mapCrew_subs (s : State) (i : Nat) (f : Crew → Crew) : (s.mapCrew i f).subs = s.subs := rfl
@[simp] theorem mapCrew_nextSub (s : State) (i : Nat) (f : Crew → Crew) : (s.mapCrew i f).nextSub = s.nextSub := rfl
@[simp] theorem mapCrew_launches (s : State) (i : Nat) (f : Crew → Crew) : (s.mapCrew i f).launches = s.launches := rfl
@[simp] theorem mapCrew_nextLid (s : State) (i : Nat) (f : Crew → Crew) : (s.mapCrew i f).nextLid = s.nextLid := rfl
@[simp] theorem mapCrew_queues (s : State) (i : Nat) (f : Crew → Crew) : (s.mapCrew i f).queues = s.queues := rfl
@[simp] theorem mapCrew_parked (s : State) (i : Nat) (f : Crew → Crew) : (s.mapCrew i f).parked = s.parked := rfl
@[simp] theorem mapCrew_nextPid (s : State) (i : Nat) (f : Crew → Crew) : (s.mapCrew i f).nextPid = s.nextPid := rfl
@[simp] theorem mapCrew_nextBind (s : State) (i : Nat) (f : Crew → Crew) : (s.mapCrew i f).nextBind = s.nextBind := rfl
@[simp] theorem mapCrew_harts (s : State) (i : Nat) (f : Crew → Crew) : (s.mapCrew i f).harts = s.harts := rfl
@[simp] theorem mapCrew_cores (s : State) (i : Nat) (f : Crew → Crew) : (s.mapCrew i f).cores = s.cores := rfl
@[simp] theorem mapCrew_dies (s : State) (i : Nat) (f : Crew → Crew) : (s.mapCrew i f).dies = s.dies := rfl
@[simp] theorem mapCrew_worlds (s : State) (i : Nat) (f : Crew → Crew) : (s.mapCrew i f).worlds = s.worlds := rfl
@[simp] theorem mapCrew_nextKey (s : State) (i : Nat) (f : Crew → Crew) : (s.mapCrew i f).nextKey = s.nextKey := rfl
@[simp] theorem mapCrew_keyRing (s : State) (i : Nat) (f : Crew → Crew) : (s.mapCrew i f).keyRing = s.keyRing := rfl
@[simp] theorem mapCrew_parity (s : State) (i : Nat) (f : Crew → Crew) : (s.mapCrew i f).parity = s.parity := rfl
@[simp] theorem mapCrew_chFails (s : State) (i : Nat) (f : Crew → Crew) : (s.mapCrew i f).chFails = s.chFails := rfl
@[simp] theorem mapCrew_bankRows (s : State) (i : Nat) (f : Crew → Crew) : (s.mapCrew i f).bankRows = s.bankRows := rfl
@[simp] theorem mapCrew_rowFails (s : State) (i : Nat) (f : Crew → Crew) : (s.mapCrew i f).rowFails = s.rowFails := rfl
@[simp] theorem mapCrew_image (s : State) (i : Nat) (f : Crew → Crew) : (s.mapCrew i f).image = s.image := rfl
@[simp] theorem mapCrew_ckptSeq (s : State) (i : Nat) (f : Crew → Crew) : (s.mapCrew i f).ckptSeq = s.ckptSeq := rfl
@[simp] theorem mapCrew_ckptTime (s : State) (i : Nat) (f : Crew → Crew) : (s.mapCrew i f).ckptTime = s.ckptTime := rfl
@[simp] theorem mapCrew_sliceLog (s : State) (i : Nat) (f : Crew → Crew) : (s.mapCrew i f).sliceLog = s.sliceLog := rfl
@[simp] theorem mapCrew_mhz (s : State) (i : Nat) (f : Crew → Crew) : (s.mapCrew i f).mhz = s.mhz := rfl
@[simp] theorem mapCrew_clkset (s : State) (i : Nat) (f : Crew → Crew) : (s.mapCrew i f).clkset = s.clkset := rfl
@[simp] theorem mapCrew_pwrLimit (s : State) (i : Nat) (f : Crew → Crew) : (s.mapCrew i f).pwrLimit = s.pwrLimit := rfl
@[simp] theorem mapCrew_power (s : State) (i : Nat) (f : Crew → Crew) : (s.mapCrew i f).power = s.power := rfl
@[simp] theorem mapCrew_temps (s : State) (i : Nat) (f : Crew → Crew) : (s.mapCrew i f).temps = s.temps := rfl
@[simp] theorem mapCrew_overSince (s : State) (i : Nat) (f : Crew → Crew) : (s.mapCrew i f).overSince = s.overSince := rfl
@[simp] theorem mapCrew_needService (s : State) (i : Nat) (f : Crew → Crew) : (s.mapCrew i f).needService = s.needService := rfl
@[simp] theorem mapCrew_stopping (s : State) (i : Nat) (f : Crew → Crew) : (s.mapCrew i f).stopping = s.stopping := rfl
@[simp] theorem mapCrew_dying (s : State) (i : Nat) (f : Crew → Crew) : (s.mapCrew i f).dying = s.dying := rfl
@[simp] theorem mapCrew_off (s : State) (i : Nat) (f : Crew → Crew) : (s.mapCrew i f).off = s.off := rfl
@[simp] theorem mapCrew_bootFailed (s : State) (i : Nat) (f : Crew → Crew) : (s.mapCrew i f).bootFailed = s.bootFailed := rfl
@[simp] theorem mapCrew_mrBoot (s : State) (i : Nat) (f : Crew → Crew) : (s.mapCrew i f).mrBoot = s.mrBoot := rfl
@[simp] theorem mapCrew_devnum (s : State) (i : Nat) (f : Crew → Crew) : (s.mapCrew i f).devnum = s.devnum := rfl
@[simp] theorem mapCrew_requests (s : State) (i : Nat) (f : Crew → Crew) : (s.mapCrew i f).requests = s.requests := rfl
@[simp] theorem mapCrew_nextReq (s : State) (i : Nat) (f : Crew → Crew) : (s.mapCrew i f).nextReq = s.nextReq := rfl
@[simp] theorem mapCrew_ports (s : State) (i : Nat) (f : Crew → Crew) : (s.mapCrew i f).ports = s.ports := rfl
@[simp] theorem mapCrew_admission (s : State) (i : Nat) (f : Crew → Crew) : (s.mapCrew i f).admission = s.admission := rfl
@[simp] theorem mapCrew_atc (s : State) (i : Nat) (f : Crew → Crew) : (s.mapCrew i f).atc = s.atc := rfl
@[simp] theorem mapCrew_invals (s : State) (i : Nat) (f : Crew → Crew) : (s.mapCrew i f).invals = s.invals := rfl
@[simp] theorem mapCrew_nextInval (s : State) (i : Nat) (f : Crew → Crew) : (s.mapCrew i f).nextInval = s.nextInval := rfl
@[simp] theorem mapCrew_hostOut (s : State) (i : Nat) (f : Crew → Crew) : (s.mapCrew i f).hostOut = s.hostOut := rfl
@[simp] theorem mapCrew_streams (s : State) (i : Nat) (f : Crew → Crew) : (s.mapCrew i f).streams = s.streams := rfl
@[simp] theorem mapCrew_denied (s : State) (i : Nat) (f : Crew → Crew) : (s.mapCrew i f).denied = s.denied := rfl
@[simp] theorem mapCrew_apertures (s : State) (i : Nat) (f : Crew → Crew) : (s.mapCrew i f).apertures = s.apertures := rfl
@[simp] theorem mapCrew_telemetry (s : State) (i : Nat) (f : Crew → Crew) : (s.mapCrew i f).telemetry = s.telemetry := rfl
@[simp] theorem mapCrew_doorbell (s : State) (i : Nat) (f : Crew → Crew) : (s.mapCrew i f).doorbell = s.doorbell := rfl
@[simp] theorem mapCrew_bells (s : State) (i : Nat) (f : Crew → Crew) : (s.mapCrew i f).bells = s.bells := rfl
@[simp] theorem mapCrew_mbxReq (s : State) (i : Nat) (f : Crew → Crew) : (s.mapCrew i f).mbxReq = s.mbxReq := rfl
@[simp] theorem mapCrew_mbxResp (s : State) (i : Nat) (f : Crew → Crew) : (s.mapCrew i f).mbxResp = s.mbxResp := rfl
@[simp] theorem mapCrew_mbxDone (s : State) (i : Nat) (f : Crew → Crew) : (s.mapCrew i f).mbxDone = s.mbxDone := rfl
@[simp] theorem mapCrew_mbxErr (s : State) (i : Nat) (f : Crew → Crew) : (s.mapCrew i f).mbxErr = s.mbxErr := rfl
@[simp] theorem mapCrew_doe (s : State) (i : Nat) (f : Crew → Crew) : (s.mapCrew i f).doe = s.doe := rfl
@[simp] theorem mapCrew_now (s : State) (i : Nat) (f : Crew → Crew) : (s.mapCrew i f).now = s.now := rfl
@[simp] theorem mapCrew_freeCtr (s : State) (i : Nat) (f : Crew → Crew) : (s.mapCrew i f).freeCtr = s.freeCtr := rfl
@[simp] theorem mapCrew_cur (s : State) (i : Nat) (f : Crew → Crew) : (s.mapCrew i f).cur = s.cur := rfl
@[simp] theorem mapCrew_ir (s : State) (i : Nat) (f : Crew → Crew) : (s.mapCrew i f).ir = s.ir := rfl
@[simp] theorem mapCrew_agenda (s : State) (i : Nat) (f : Crew → Crew) : (s.mapCrew i f).agenda = s.agenda := rfl
@[simp] theorem mapCrew_hartAt (s : State) (i : Nat) (f : Crew → Crew) (j : Nat) : (s.mapCrew i f).hartAt j = s.hartAt j := rfl
@[simp] theorem mapCrew_coreAt (s : State) (i : Nat) (f : Crew → Crew) (j : Nat) : (s.mapCrew i f).coreAt j = s.coreAt j := rfl
@[simp] theorem mapCrew_dieAt (s : State) (i : Nat) (f : Crew → Crew) (j : Nat) : (s.mapCrew i f).dieAt j = s.dieAt j := rfl
@[simp] theorem mapCrew_worldAt (s : State) (i : Nat) (f : Crew → Crew) (j : Nat) : (s.mapCrew i f).worldAt j = s.worldAt j := rfl
@[simp] theorem mapCrew_me (s : State) (i : Nat) (f : Crew → Crew) : (s.mapCrew i f).me = s.me := rfl

/-! ### State.mapCore -/

@[simp] theorem mapCore_mem (s : State) (i : Nat) (f : Core → Core) : (s.mapCore i f).mem = s.mem := rfl
@[simp] theorem mapCore_writes (s : State) (i : Nat) (f : Core → Core) : (s.mapCore i f).writes = s.writes := rfl
@[simp] theorem mapCore_nextWrite (s : State) (i : Nat) (f : Core → Core) : (s.mapCore i f).nextWrite = s.nextWrite := rfl
@[simp] theorem mapCore_poison (s : State) (i : Nat) (f : Core → Core) : (s.mapCore i f).poison = s.poison := rfl
@[simp] theorem mapCore_held (s : State) (i : Nat) (f : Core → Core) : (s.mapCore i f).held = s.held := rfl
@[simp] theorem mapCore_pools (s : State) (i : Nat) (f : Core → Core) : (s.mapCore i f).pools = s.pools := rfl
@[simp] theorem mapCore_pageWaits (s : State) (i : Nat) (f : Core → Core) : (s.mapCore i f).pageWaits = s.pageWaits := rfl
@[simp] theorem mapCore_indexes (s : State) (i : Nat) (f : Core → Core) : (s.mapCore i f).indexes = s.indexes := rfl
@[simp] theorem mapCore_ctxCmds (s : State) (i : Nat) (f : Core → Core) : (s.mapCore i f).ctxCmds = s.ctxCmds := rfl
@[simp] theorem mapCore_frameTag (s : State) (i : Nat) (f : Core → Core) : (s.mapCore i f).frameTag = s.frameTag := rfl
@[simp] theorem mapCore_frameMajor (s : State) (i : Nat) (f : Core → Core) : (s.mapCore i f).frameMajor = s.frameMajor := rfl
@[simp] theorem mapCore_lineVer (s : State) (i : Nat) (f : Core → Core) : (s.mapCore i f).lineVer = s.lineVer := rfl
@[simp] theorem mapCore_lineGen (s : State) (i : Nat) (f : Core → Core) : (s.mapCore i f).lineGen = s.lineGen := rfl
@[simp] theorem mapCore_groups (s : State) (i : Nat) (f : Core → Core) : (s.mapCore i f).groups = s.groups := rfl
@[simp] theorem mapCore_nextGseq (s : State) (i : Nat) (f : Core → Core) : (s.mapCore i f).nextGseq = s.nextGseq := rfl
@[simp] theorem mapCore_subs (s : State) (i : Nat) (f : Core → Core) : (s.mapCore i f).subs = s.subs := rfl
@[simp] theorem mapCore_nextSub (s : State) (i : Nat) (f : Core → Core) : (s.mapCore i f).nextSub = s.nextSub := rfl
@[simp] theorem mapCore_launches (s : State) (i : Nat) (f : Core → Core) : (s.mapCore i f).launches = s.launches := rfl
@[simp] theorem mapCore_nextLid (s : State) (i : Nat) (f : Core → Core) : (s.mapCore i f).nextLid = s.nextLid := rfl
@[simp] theorem mapCore_queues (s : State) (i : Nat) (f : Core → Core) : (s.mapCore i f).queues = s.queues := rfl
@[simp] theorem mapCore_parked (s : State) (i : Nat) (f : Core → Core) : (s.mapCore i f).parked = s.parked := rfl
@[simp] theorem mapCore_nextPid (s : State) (i : Nat) (f : Core → Core) : (s.mapCore i f).nextPid = s.nextPid := rfl
@[simp] theorem mapCore_nextBind (s : State) (i : Nat) (f : Core → Core) : (s.mapCore i f).nextBind = s.nextBind := rfl
@[simp] theorem mapCore_harts (s : State) (i : Nat) (f : Core → Core) : (s.mapCore i f).harts = s.harts := rfl
@[simp] theorem mapCore_crews (s : State) (i : Nat) (f : Core → Core) : (s.mapCore i f).crews = s.crews := rfl
@[simp] theorem mapCore_dies (s : State) (i : Nat) (f : Core → Core) : (s.mapCore i f).dies = s.dies := rfl
@[simp] theorem mapCore_worlds (s : State) (i : Nat) (f : Core → Core) : (s.mapCore i f).worlds = s.worlds := rfl
@[simp] theorem mapCore_nextKey (s : State) (i : Nat) (f : Core → Core) : (s.mapCore i f).nextKey = s.nextKey := rfl
@[simp] theorem mapCore_keyRing (s : State) (i : Nat) (f : Core → Core) : (s.mapCore i f).keyRing = s.keyRing := rfl
@[simp] theorem mapCore_parity (s : State) (i : Nat) (f : Core → Core) : (s.mapCore i f).parity = s.parity := rfl
@[simp] theorem mapCore_chFails (s : State) (i : Nat) (f : Core → Core) : (s.mapCore i f).chFails = s.chFails := rfl
@[simp] theorem mapCore_bankRows (s : State) (i : Nat) (f : Core → Core) : (s.mapCore i f).bankRows = s.bankRows := rfl
@[simp] theorem mapCore_rowFails (s : State) (i : Nat) (f : Core → Core) : (s.mapCore i f).rowFails = s.rowFails := rfl
@[simp] theorem mapCore_image (s : State) (i : Nat) (f : Core → Core) : (s.mapCore i f).image = s.image := rfl
@[simp] theorem mapCore_ckptSeq (s : State) (i : Nat) (f : Core → Core) : (s.mapCore i f).ckptSeq = s.ckptSeq := rfl
@[simp] theorem mapCore_ckptTime (s : State) (i : Nat) (f : Core → Core) : (s.mapCore i f).ckptTime = s.ckptTime := rfl
@[simp] theorem mapCore_sliceLog (s : State) (i : Nat) (f : Core → Core) : (s.mapCore i f).sliceLog = s.sliceLog := rfl
@[simp] theorem mapCore_mhz (s : State) (i : Nat) (f : Core → Core) : (s.mapCore i f).mhz = s.mhz := rfl
@[simp] theorem mapCore_clkset (s : State) (i : Nat) (f : Core → Core) : (s.mapCore i f).clkset = s.clkset := rfl
@[simp] theorem mapCore_pwrLimit (s : State) (i : Nat) (f : Core → Core) : (s.mapCore i f).pwrLimit = s.pwrLimit := rfl
@[simp] theorem mapCore_power (s : State) (i : Nat) (f : Core → Core) : (s.mapCore i f).power = s.power := rfl
@[simp] theorem mapCore_temps (s : State) (i : Nat) (f : Core → Core) : (s.mapCore i f).temps = s.temps := rfl
@[simp] theorem mapCore_overSince (s : State) (i : Nat) (f : Core → Core) : (s.mapCore i f).overSince = s.overSince := rfl
@[simp] theorem mapCore_needService (s : State) (i : Nat) (f : Core → Core) : (s.mapCore i f).needService = s.needService := rfl
@[simp] theorem mapCore_stopping (s : State) (i : Nat) (f : Core → Core) : (s.mapCore i f).stopping = s.stopping := rfl
@[simp] theorem mapCore_dying (s : State) (i : Nat) (f : Core → Core) : (s.mapCore i f).dying = s.dying := rfl
@[simp] theorem mapCore_off (s : State) (i : Nat) (f : Core → Core) : (s.mapCore i f).off = s.off := rfl
@[simp] theorem mapCore_bootFailed (s : State) (i : Nat) (f : Core → Core) : (s.mapCore i f).bootFailed = s.bootFailed := rfl
@[simp] theorem mapCore_mrBoot (s : State) (i : Nat) (f : Core → Core) : (s.mapCore i f).mrBoot = s.mrBoot := rfl
@[simp] theorem mapCore_devnum (s : State) (i : Nat) (f : Core → Core) : (s.mapCore i f).devnum = s.devnum := rfl
@[simp] theorem mapCore_requests (s : State) (i : Nat) (f : Core → Core) : (s.mapCore i f).requests = s.requests := rfl
@[simp] theorem mapCore_nextReq (s : State) (i : Nat) (f : Core → Core) : (s.mapCore i f).nextReq = s.nextReq := rfl
@[simp] theorem mapCore_ports (s : State) (i : Nat) (f : Core → Core) : (s.mapCore i f).ports = s.ports := rfl
@[simp] theorem mapCore_admission (s : State) (i : Nat) (f : Core → Core) : (s.mapCore i f).admission = s.admission := rfl
@[simp] theorem mapCore_atc (s : State) (i : Nat) (f : Core → Core) : (s.mapCore i f).atc = s.atc := rfl
@[simp] theorem mapCore_invals (s : State) (i : Nat) (f : Core → Core) : (s.mapCore i f).invals = s.invals := rfl
@[simp] theorem mapCore_nextInval (s : State) (i : Nat) (f : Core → Core) : (s.mapCore i f).nextInval = s.nextInval := rfl
@[simp] theorem mapCore_hostOut (s : State) (i : Nat) (f : Core → Core) : (s.mapCore i f).hostOut = s.hostOut := rfl
@[simp] theorem mapCore_streams (s : State) (i : Nat) (f : Core → Core) : (s.mapCore i f).streams = s.streams := rfl
@[simp] theorem mapCore_denied (s : State) (i : Nat) (f : Core → Core) : (s.mapCore i f).denied = s.denied := rfl
@[simp] theorem mapCore_apertures (s : State) (i : Nat) (f : Core → Core) : (s.mapCore i f).apertures = s.apertures := rfl
@[simp] theorem mapCore_telemetry (s : State) (i : Nat) (f : Core → Core) : (s.mapCore i f).telemetry = s.telemetry := rfl
@[simp] theorem mapCore_doorbell (s : State) (i : Nat) (f : Core → Core) : (s.mapCore i f).doorbell = s.doorbell := rfl
@[simp] theorem mapCore_bells (s : State) (i : Nat) (f : Core → Core) : (s.mapCore i f).bells = s.bells := rfl
@[simp] theorem mapCore_mbxReq (s : State) (i : Nat) (f : Core → Core) : (s.mapCore i f).mbxReq = s.mbxReq := rfl
@[simp] theorem mapCore_mbxResp (s : State) (i : Nat) (f : Core → Core) : (s.mapCore i f).mbxResp = s.mbxResp := rfl
@[simp] theorem mapCore_mbxDone (s : State) (i : Nat) (f : Core → Core) : (s.mapCore i f).mbxDone = s.mbxDone := rfl
@[simp] theorem mapCore_mbxErr (s : State) (i : Nat) (f : Core → Core) : (s.mapCore i f).mbxErr = s.mbxErr := rfl
@[simp] theorem mapCore_doe (s : State) (i : Nat) (f : Core → Core) : (s.mapCore i f).doe = s.doe := rfl
@[simp] theorem mapCore_now (s : State) (i : Nat) (f : Core → Core) : (s.mapCore i f).now = s.now := rfl
@[simp] theorem mapCore_freeCtr (s : State) (i : Nat) (f : Core → Core) : (s.mapCore i f).freeCtr = s.freeCtr := rfl
@[simp] theorem mapCore_cur (s : State) (i : Nat) (f : Core → Core) : (s.mapCore i f).cur = s.cur := rfl
@[simp] theorem mapCore_ir (s : State) (i : Nat) (f : Core → Core) : (s.mapCore i f).ir = s.ir := rfl
@[simp] theorem mapCore_agenda (s : State) (i : Nat) (f : Core → Core) : (s.mapCore i f).agenda = s.agenda := rfl
@[simp] theorem mapCore_hartAt (s : State) (i : Nat) (f : Core → Core) (j : Nat) : (s.mapCore i f).hartAt j = s.hartAt j := rfl
@[simp] theorem mapCore_crewAt (s : State) (i : Nat) (f : Core → Core) (j : Nat) : (s.mapCore i f).crewAt j = s.crewAt j := rfl
@[simp] theorem mapCore_dieAt (s : State) (i : Nat) (f : Core → Core) (j : Nat) : (s.mapCore i f).dieAt j = s.dieAt j := rfl
@[simp] theorem mapCore_worldAt (s : State) (i : Nat) (f : Core → Core) (j : Nat) : (s.mapCore i f).worldAt j = s.worldAt j := rfl
@[simp] theorem mapCore_me (s : State) (i : Nat) (f : Core → Core) : (s.mapCore i f).me = s.me := rfl

/-! ### State.mapDie -/

@[simp] theorem mapDie_mem (s : State) (i : Nat) (f : Die → Die) : (s.mapDie i f).mem = s.mem := rfl
@[simp] theorem mapDie_writes (s : State) (i : Nat) (f : Die → Die) : (s.mapDie i f).writes = s.writes := rfl
@[simp] theorem mapDie_nextWrite (s : State) (i : Nat) (f : Die → Die) : (s.mapDie i f).nextWrite = s.nextWrite := rfl
@[simp] theorem mapDie_poison (s : State) (i : Nat) (f : Die → Die) : (s.mapDie i f).poison = s.poison := rfl
@[simp] theorem mapDie_held (s : State) (i : Nat) (f : Die → Die) : (s.mapDie i f).held = s.held := rfl
@[simp] theorem mapDie_pools (s : State) (i : Nat) (f : Die → Die) : (s.mapDie i f).pools = s.pools := rfl
@[simp] theorem mapDie_pageWaits (s : State) (i : Nat) (f : Die → Die) : (s.mapDie i f).pageWaits = s.pageWaits := rfl
@[simp] theorem mapDie_indexes (s : State) (i : Nat) (f : Die → Die) : (s.mapDie i f).indexes = s.indexes := rfl
@[simp] theorem mapDie_ctxCmds (s : State) (i : Nat) (f : Die → Die) : (s.mapDie i f).ctxCmds = s.ctxCmds := rfl
@[simp] theorem mapDie_frameTag (s : State) (i : Nat) (f : Die → Die) : (s.mapDie i f).frameTag = s.frameTag := rfl
@[simp] theorem mapDie_frameMajor (s : State) (i : Nat) (f : Die → Die) : (s.mapDie i f).frameMajor = s.frameMajor := rfl
@[simp] theorem mapDie_lineVer (s : State) (i : Nat) (f : Die → Die) : (s.mapDie i f).lineVer = s.lineVer := rfl
@[simp] theorem mapDie_lineGen (s : State) (i : Nat) (f : Die → Die) : (s.mapDie i f).lineGen = s.lineGen := rfl
@[simp] theorem mapDie_groups (s : State) (i : Nat) (f : Die → Die) : (s.mapDie i f).groups = s.groups := rfl
@[simp] theorem mapDie_nextGseq (s : State) (i : Nat) (f : Die → Die) : (s.mapDie i f).nextGseq = s.nextGseq := rfl
@[simp] theorem mapDie_subs (s : State) (i : Nat) (f : Die → Die) : (s.mapDie i f).subs = s.subs := rfl
@[simp] theorem mapDie_nextSub (s : State) (i : Nat) (f : Die → Die) : (s.mapDie i f).nextSub = s.nextSub := rfl
@[simp] theorem mapDie_launches (s : State) (i : Nat) (f : Die → Die) : (s.mapDie i f).launches = s.launches := rfl
@[simp] theorem mapDie_nextLid (s : State) (i : Nat) (f : Die → Die) : (s.mapDie i f).nextLid = s.nextLid := rfl
@[simp] theorem mapDie_queues (s : State) (i : Nat) (f : Die → Die) : (s.mapDie i f).queues = s.queues := rfl
@[simp] theorem mapDie_parked (s : State) (i : Nat) (f : Die → Die) : (s.mapDie i f).parked = s.parked := rfl
@[simp] theorem mapDie_nextPid (s : State) (i : Nat) (f : Die → Die) : (s.mapDie i f).nextPid = s.nextPid := rfl
@[simp] theorem mapDie_nextBind (s : State) (i : Nat) (f : Die → Die) : (s.mapDie i f).nextBind = s.nextBind := rfl
@[simp] theorem mapDie_harts (s : State) (i : Nat) (f : Die → Die) : (s.mapDie i f).harts = s.harts := rfl
@[simp] theorem mapDie_crews (s : State) (i : Nat) (f : Die → Die) : (s.mapDie i f).crews = s.crews := rfl
@[simp] theorem mapDie_cores (s : State) (i : Nat) (f : Die → Die) : (s.mapDie i f).cores = s.cores := rfl
@[simp] theorem mapDie_worlds (s : State) (i : Nat) (f : Die → Die) : (s.mapDie i f).worlds = s.worlds := rfl
@[simp] theorem mapDie_nextKey (s : State) (i : Nat) (f : Die → Die) : (s.mapDie i f).nextKey = s.nextKey := rfl
@[simp] theorem mapDie_keyRing (s : State) (i : Nat) (f : Die → Die) : (s.mapDie i f).keyRing = s.keyRing := rfl
@[simp] theorem mapDie_parity (s : State) (i : Nat) (f : Die → Die) : (s.mapDie i f).parity = s.parity := rfl
@[simp] theorem mapDie_chFails (s : State) (i : Nat) (f : Die → Die) : (s.mapDie i f).chFails = s.chFails := rfl
@[simp] theorem mapDie_bankRows (s : State) (i : Nat) (f : Die → Die) : (s.mapDie i f).bankRows = s.bankRows := rfl
@[simp] theorem mapDie_rowFails (s : State) (i : Nat) (f : Die → Die) : (s.mapDie i f).rowFails = s.rowFails := rfl
@[simp] theorem mapDie_image (s : State) (i : Nat) (f : Die → Die) : (s.mapDie i f).image = s.image := rfl
@[simp] theorem mapDie_ckptSeq (s : State) (i : Nat) (f : Die → Die) : (s.mapDie i f).ckptSeq = s.ckptSeq := rfl
@[simp] theorem mapDie_ckptTime (s : State) (i : Nat) (f : Die → Die) : (s.mapDie i f).ckptTime = s.ckptTime := rfl
@[simp] theorem mapDie_sliceLog (s : State) (i : Nat) (f : Die → Die) : (s.mapDie i f).sliceLog = s.sliceLog := rfl
@[simp] theorem mapDie_mhz (s : State) (i : Nat) (f : Die → Die) : (s.mapDie i f).mhz = s.mhz := rfl
@[simp] theorem mapDie_clkset (s : State) (i : Nat) (f : Die → Die) : (s.mapDie i f).clkset = s.clkset := rfl
@[simp] theorem mapDie_pwrLimit (s : State) (i : Nat) (f : Die → Die) : (s.mapDie i f).pwrLimit = s.pwrLimit := rfl
@[simp] theorem mapDie_power (s : State) (i : Nat) (f : Die → Die) : (s.mapDie i f).power = s.power := rfl
@[simp] theorem mapDie_temps (s : State) (i : Nat) (f : Die → Die) : (s.mapDie i f).temps = s.temps := rfl
@[simp] theorem mapDie_overSince (s : State) (i : Nat) (f : Die → Die) : (s.mapDie i f).overSince = s.overSince := rfl
@[simp] theorem mapDie_needService (s : State) (i : Nat) (f : Die → Die) : (s.mapDie i f).needService = s.needService := rfl
@[simp] theorem mapDie_stopping (s : State) (i : Nat) (f : Die → Die) : (s.mapDie i f).stopping = s.stopping := rfl
@[simp] theorem mapDie_dying (s : State) (i : Nat) (f : Die → Die) : (s.mapDie i f).dying = s.dying := rfl
@[simp] theorem mapDie_off (s : State) (i : Nat) (f : Die → Die) : (s.mapDie i f).off = s.off := rfl
@[simp] theorem mapDie_bootFailed (s : State) (i : Nat) (f : Die → Die) : (s.mapDie i f).bootFailed = s.bootFailed := rfl
@[simp] theorem mapDie_mrBoot (s : State) (i : Nat) (f : Die → Die) : (s.mapDie i f).mrBoot = s.mrBoot := rfl
@[simp] theorem mapDie_devnum (s : State) (i : Nat) (f : Die → Die) : (s.mapDie i f).devnum = s.devnum := rfl
@[simp] theorem mapDie_requests (s : State) (i : Nat) (f : Die → Die) : (s.mapDie i f).requests = s.requests := rfl
@[simp] theorem mapDie_nextReq (s : State) (i : Nat) (f : Die → Die) : (s.mapDie i f).nextReq = s.nextReq := rfl
@[simp] theorem mapDie_ports (s : State) (i : Nat) (f : Die → Die) : (s.mapDie i f).ports = s.ports := rfl
@[simp] theorem mapDie_admission (s : State) (i : Nat) (f : Die → Die) : (s.mapDie i f).admission = s.admission := rfl
@[simp] theorem mapDie_atc (s : State) (i : Nat) (f : Die → Die) : (s.mapDie i f).atc = s.atc := rfl
@[simp] theorem mapDie_invals (s : State) (i : Nat) (f : Die → Die) : (s.mapDie i f).invals = s.invals := rfl
@[simp] theorem mapDie_nextInval (s : State) (i : Nat) (f : Die → Die) : (s.mapDie i f).nextInval = s.nextInval := rfl
@[simp] theorem mapDie_hostOut (s : State) (i : Nat) (f : Die → Die) : (s.mapDie i f).hostOut = s.hostOut := rfl
@[simp] theorem mapDie_streams (s : State) (i : Nat) (f : Die → Die) : (s.mapDie i f).streams = s.streams := rfl
@[simp] theorem mapDie_denied (s : State) (i : Nat) (f : Die → Die) : (s.mapDie i f).denied = s.denied := rfl
@[simp] theorem mapDie_apertures (s : State) (i : Nat) (f : Die → Die) : (s.mapDie i f).apertures = s.apertures := rfl
@[simp] theorem mapDie_telemetry (s : State) (i : Nat) (f : Die → Die) : (s.mapDie i f).telemetry = s.telemetry := rfl
@[simp] theorem mapDie_doorbell (s : State) (i : Nat) (f : Die → Die) : (s.mapDie i f).doorbell = s.doorbell := rfl
@[simp] theorem mapDie_bells (s : State) (i : Nat) (f : Die → Die) : (s.mapDie i f).bells = s.bells := rfl
@[simp] theorem mapDie_mbxReq (s : State) (i : Nat) (f : Die → Die) : (s.mapDie i f).mbxReq = s.mbxReq := rfl
@[simp] theorem mapDie_mbxResp (s : State) (i : Nat) (f : Die → Die) : (s.mapDie i f).mbxResp = s.mbxResp := rfl
@[simp] theorem mapDie_mbxDone (s : State) (i : Nat) (f : Die → Die) : (s.mapDie i f).mbxDone = s.mbxDone := rfl
@[simp] theorem mapDie_mbxErr (s : State) (i : Nat) (f : Die → Die) : (s.mapDie i f).mbxErr = s.mbxErr := rfl
@[simp] theorem mapDie_doe (s : State) (i : Nat) (f : Die → Die) : (s.mapDie i f).doe = s.doe := rfl
@[simp] theorem mapDie_now (s : State) (i : Nat) (f : Die → Die) : (s.mapDie i f).now = s.now := rfl
@[simp] theorem mapDie_freeCtr (s : State) (i : Nat) (f : Die → Die) : (s.mapDie i f).freeCtr = s.freeCtr := rfl
@[simp] theorem mapDie_cur (s : State) (i : Nat) (f : Die → Die) : (s.mapDie i f).cur = s.cur := rfl
@[simp] theorem mapDie_ir (s : State) (i : Nat) (f : Die → Die) : (s.mapDie i f).ir = s.ir := rfl
@[simp] theorem mapDie_agenda (s : State) (i : Nat) (f : Die → Die) : (s.mapDie i f).agenda = s.agenda := rfl
@[simp] theorem mapDie_hartAt (s : State) (i : Nat) (f : Die → Die) (j : Nat) : (s.mapDie i f).hartAt j = s.hartAt j := rfl
@[simp] theorem mapDie_crewAt (s : State) (i : Nat) (f : Die → Die) (j : Nat) : (s.mapDie i f).crewAt j = s.crewAt j := rfl
@[simp] theorem mapDie_coreAt (s : State) (i : Nat) (f : Die → Die) (j : Nat) : (s.mapDie i f).coreAt j = s.coreAt j := rfl
@[simp] theorem mapDie_worldAt (s : State) (i : Nat) (f : Die → Die) (j : Nat) : (s.mapDie i f).worldAt j = s.worldAt j := rfl
@[simp] theorem mapDie_me (s : State) (i : Nat) (f : Die → Die) : (s.mapDie i f).me = s.me := rfl

/-! ### State.mapWorld -/

@[simp] theorem mapWorld_mem (s : State) (i : Nat) (f : World → World) : (s.mapWorld i f).mem = s.mem := rfl
@[simp] theorem mapWorld_writes (s : State) (i : Nat) (f : World → World) : (s.mapWorld i f).writes = s.writes := rfl
@[simp] theorem mapWorld_nextWrite (s : State) (i : Nat) (f : World → World) : (s.mapWorld i f).nextWrite = s.nextWrite := rfl
@[simp] theorem mapWorld_poison (s : State) (i : Nat) (f : World → World) : (s.mapWorld i f).poison = s.poison := rfl
@[simp] theorem mapWorld_held (s : State) (i : Nat) (f : World → World) : (s.mapWorld i f).held = s.held := rfl
@[simp] theorem mapWorld_pools (s : State) (i : Nat) (f : World → World) : (s.mapWorld i f).pools = s.pools := rfl
@[simp] theorem mapWorld_pageWaits (s : State) (i : Nat) (f : World → World) : (s.mapWorld i f).pageWaits = s.pageWaits := rfl
@[simp] theorem mapWorld_indexes (s : State) (i : Nat) (f : World → World) : (s.mapWorld i f).indexes = s.indexes := rfl
@[simp] theorem mapWorld_ctxCmds (s : State) (i : Nat) (f : World → World) : (s.mapWorld i f).ctxCmds = s.ctxCmds := rfl
@[simp] theorem mapWorld_frameTag (s : State) (i : Nat) (f : World → World) : (s.mapWorld i f).frameTag = s.frameTag := rfl
@[simp] theorem mapWorld_frameMajor (s : State) (i : Nat) (f : World → World) : (s.mapWorld i f).frameMajor = s.frameMajor := rfl
@[simp] theorem mapWorld_lineVer (s : State) (i : Nat) (f : World → World) : (s.mapWorld i f).lineVer = s.lineVer := rfl
@[simp] theorem mapWorld_lineGen (s : State) (i : Nat) (f : World → World) : (s.mapWorld i f).lineGen = s.lineGen := rfl
@[simp] theorem mapWorld_groups (s : State) (i : Nat) (f : World → World) : (s.mapWorld i f).groups = s.groups := rfl
@[simp] theorem mapWorld_nextGseq (s : State) (i : Nat) (f : World → World) : (s.mapWorld i f).nextGseq = s.nextGseq := rfl
@[simp] theorem mapWorld_subs (s : State) (i : Nat) (f : World → World) : (s.mapWorld i f).subs = s.subs := rfl
@[simp] theorem mapWorld_nextSub (s : State) (i : Nat) (f : World → World) : (s.mapWorld i f).nextSub = s.nextSub := rfl
@[simp] theorem mapWorld_launches (s : State) (i : Nat) (f : World → World) : (s.mapWorld i f).launches = s.launches := rfl
@[simp] theorem mapWorld_nextLid (s : State) (i : Nat) (f : World → World) : (s.mapWorld i f).nextLid = s.nextLid := rfl
@[simp] theorem mapWorld_queues (s : State) (i : Nat) (f : World → World) : (s.mapWorld i f).queues = s.queues := rfl
@[simp] theorem mapWorld_parked (s : State) (i : Nat) (f : World → World) : (s.mapWorld i f).parked = s.parked := rfl
@[simp] theorem mapWorld_nextPid (s : State) (i : Nat) (f : World → World) : (s.mapWorld i f).nextPid = s.nextPid := rfl
@[simp] theorem mapWorld_nextBind (s : State) (i : Nat) (f : World → World) : (s.mapWorld i f).nextBind = s.nextBind := rfl
@[simp] theorem mapWorld_harts (s : State) (i : Nat) (f : World → World) : (s.mapWorld i f).harts = s.harts := rfl
@[simp] theorem mapWorld_crews (s : State) (i : Nat) (f : World → World) : (s.mapWorld i f).crews = s.crews := rfl
@[simp] theorem mapWorld_cores (s : State) (i : Nat) (f : World → World) : (s.mapWorld i f).cores = s.cores := rfl
@[simp] theorem mapWorld_dies (s : State) (i : Nat) (f : World → World) : (s.mapWorld i f).dies = s.dies := rfl
@[simp] theorem mapWorld_nextKey (s : State) (i : Nat) (f : World → World) : (s.mapWorld i f).nextKey = s.nextKey := rfl
@[simp] theorem mapWorld_keyRing (s : State) (i : Nat) (f : World → World) : (s.mapWorld i f).keyRing = s.keyRing := rfl
@[simp] theorem mapWorld_parity (s : State) (i : Nat) (f : World → World) : (s.mapWorld i f).parity = s.parity := rfl
@[simp] theorem mapWorld_chFails (s : State) (i : Nat) (f : World → World) : (s.mapWorld i f).chFails = s.chFails := rfl
@[simp] theorem mapWorld_bankRows (s : State) (i : Nat) (f : World → World) : (s.mapWorld i f).bankRows = s.bankRows := rfl
@[simp] theorem mapWorld_rowFails (s : State) (i : Nat) (f : World → World) : (s.mapWorld i f).rowFails = s.rowFails := rfl
@[simp] theorem mapWorld_image (s : State) (i : Nat) (f : World → World) : (s.mapWorld i f).image = s.image := rfl
@[simp] theorem mapWorld_ckptSeq (s : State) (i : Nat) (f : World → World) : (s.mapWorld i f).ckptSeq = s.ckptSeq := rfl
@[simp] theorem mapWorld_ckptTime (s : State) (i : Nat) (f : World → World) : (s.mapWorld i f).ckptTime = s.ckptTime := rfl
@[simp] theorem mapWorld_sliceLog (s : State) (i : Nat) (f : World → World) : (s.mapWorld i f).sliceLog = s.sliceLog := rfl
@[simp] theorem mapWorld_mhz (s : State) (i : Nat) (f : World → World) : (s.mapWorld i f).mhz = s.mhz := rfl
@[simp] theorem mapWorld_clkset (s : State) (i : Nat) (f : World → World) : (s.mapWorld i f).clkset = s.clkset := rfl
@[simp] theorem mapWorld_pwrLimit (s : State) (i : Nat) (f : World → World) : (s.mapWorld i f).pwrLimit = s.pwrLimit := rfl
@[simp] theorem mapWorld_power (s : State) (i : Nat) (f : World → World) : (s.mapWorld i f).power = s.power := rfl
@[simp] theorem mapWorld_temps (s : State) (i : Nat) (f : World → World) : (s.mapWorld i f).temps = s.temps := rfl
@[simp] theorem mapWorld_overSince (s : State) (i : Nat) (f : World → World) : (s.mapWorld i f).overSince = s.overSince := rfl
@[simp] theorem mapWorld_needService (s : State) (i : Nat) (f : World → World) : (s.mapWorld i f).needService = s.needService := rfl
@[simp] theorem mapWorld_stopping (s : State) (i : Nat) (f : World → World) : (s.mapWorld i f).stopping = s.stopping := rfl
@[simp] theorem mapWorld_dying (s : State) (i : Nat) (f : World → World) : (s.mapWorld i f).dying = s.dying := rfl
@[simp] theorem mapWorld_off (s : State) (i : Nat) (f : World → World) : (s.mapWorld i f).off = s.off := rfl
@[simp] theorem mapWorld_bootFailed (s : State) (i : Nat) (f : World → World) : (s.mapWorld i f).bootFailed = s.bootFailed := rfl
@[simp] theorem mapWorld_mrBoot (s : State) (i : Nat) (f : World → World) : (s.mapWorld i f).mrBoot = s.mrBoot := rfl
@[simp] theorem mapWorld_devnum (s : State) (i : Nat) (f : World → World) : (s.mapWorld i f).devnum = s.devnum := rfl
@[simp] theorem mapWorld_requests (s : State) (i : Nat) (f : World → World) : (s.mapWorld i f).requests = s.requests := rfl
@[simp] theorem mapWorld_nextReq (s : State) (i : Nat) (f : World → World) : (s.mapWorld i f).nextReq = s.nextReq := rfl
@[simp] theorem mapWorld_ports (s : State) (i : Nat) (f : World → World) : (s.mapWorld i f).ports = s.ports := rfl
@[simp] theorem mapWorld_admission (s : State) (i : Nat) (f : World → World) : (s.mapWorld i f).admission = s.admission := rfl
@[simp] theorem mapWorld_atc (s : State) (i : Nat) (f : World → World) : (s.mapWorld i f).atc = s.atc := rfl
@[simp] theorem mapWorld_invals (s : State) (i : Nat) (f : World → World) : (s.mapWorld i f).invals = s.invals := rfl
@[simp] theorem mapWorld_nextInval (s : State) (i : Nat) (f : World → World) : (s.mapWorld i f).nextInval = s.nextInval := rfl
@[simp] theorem mapWorld_hostOut (s : State) (i : Nat) (f : World → World) : (s.mapWorld i f).hostOut = s.hostOut := rfl
@[simp] theorem mapWorld_streams (s : State) (i : Nat) (f : World → World) : (s.mapWorld i f).streams = s.streams := rfl
@[simp] theorem mapWorld_denied (s : State) (i : Nat) (f : World → World) : (s.mapWorld i f).denied = s.denied := rfl
@[simp] theorem mapWorld_apertures (s : State) (i : Nat) (f : World → World) : (s.mapWorld i f).apertures = s.apertures := rfl
@[simp] theorem mapWorld_telemetry (s : State) (i : Nat) (f : World → World) : (s.mapWorld i f).telemetry = s.telemetry := rfl
@[simp] theorem mapWorld_doorbell (s : State) (i : Nat) (f : World → World) : (s.mapWorld i f).doorbell = s.doorbell := rfl
@[simp] theorem mapWorld_bells (s : State) (i : Nat) (f : World → World) : (s.mapWorld i f).bells = s.bells := rfl
@[simp] theorem mapWorld_mbxReq (s : State) (i : Nat) (f : World → World) : (s.mapWorld i f).mbxReq = s.mbxReq := rfl
@[simp] theorem mapWorld_mbxResp (s : State) (i : Nat) (f : World → World) : (s.mapWorld i f).mbxResp = s.mbxResp := rfl
@[simp] theorem mapWorld_mbxDone (s : State) (i : Nat) (f : World → World) : (s.mapWorld i f).mbxDone = s.mbxDone := rfl
@[simp] theorem mapWorld_mbxErr (s : State) (i : Nat) (f : World → World) : (s.mapWorld i f).mbxErr = s.mbxErr := rfl
@[simp] theorem mapWorld_doe (s : State) (i : Nat) (f : World → World) : (s.mapWorld i f).doe = s.doe := rfl
@[simp] theorem mapWorld_now (s : State) (i : Nat) (f : World → World) : (s.mapWorld i f).now = s.now := rfl
@[simp] theorem mapWorld_freeCtr (s : State) (i : Nat) (f : World → World) : (s.mapWorld i f).freeCtr = s.freeCtr := rfl
@[simp] theorem mapWorld_cur (s : State) (i : Nat) (f : World → World) : (s.mapWorld i f).cur = s.cur := rfl
@[simp] theorem mapWorld_ir (s : State) (i : Nat) (f : World → World) : (s.mapWorld i f).ir = s.ir := rfl
@[simp] theorem mapWorld_agenda (s : State) (i : Nat) (f : World → World) : (s.mapWorld i f).agenda = s.agenda := rfl
@[simp] theorem mapWorld_hartAt (s : State) (i : Nat) (f : World → World) (j : Nat) : (s.mapWorld i f).hartAt j = s.hartAt j := rfl
@[simp] theorem mapWorld_crewAt (s : State) (i : Nat) (f : World → World) (j : Nat) : (s.mapWorld i f).crewAt j = s.crewAt j := rfl
@[simp] theorem mapWorld_coreAt (s : State) (i : Nat) (f : World → World) (j : Nat) : (s.mapWorld i f).coreAt j = s.coreAt j := rfl
@[simp] theorem mapWorld_dieAt (s : State) (i : Nat) (f : World → World) (j : Nat) : (s.mapWorld i f).dieAt j = s.dieAt j := rfl
@[simp] theorem mapWorld_me (s : State) (i : Nat) (f : World → World) : (s.mapWorld i f).me = s.me := rfl

/-! ### State.mapPort -/

@[simp] theorem mapPort_mem (s : State) (i : Nat) (f : Port → Port) : (s.mapPort i f).mem = s.mem := rfl
@[simp] theorem mapPort_writes (s : State) (i : Nat) (f : Port → Port) : (s.mapPort i f).writes = s.writes := rfl
@[simp] theorem mapPort_nextWrite (s : State) (i : Nat) (f : Port → Port) : (s.mapPort i f).nextWrite = s.nextWrite := rfl
@[simp] theorem mapPort_poison (s : State) (i : Nat) (f : Port → Port) : (s.mapPort i f).poison = s.poison := rfl
@[simp] theorem mapPort_held (s : State) (i : Nat) (f : Port → Port) : (s.mapPort i f).held = s.held := rfl
@[simp] theorem mapPort_pools (s : State) (i : Nat) (f : Port → Port) : (s.mapPort i f).pools = s.pools := rfl
@[simp] theorem mapPort_pageWaits (s : State) (i : Nat) (f : Port → Port) : (s.mapPort i f).pageWaits = s.pageWaits := rfl
@[simp] theorem mapPort_indexes (s : State) (i : Nat) (f : Port → Port) : (s.mapPort i f).indexes = s.indexes := rfl
@[simp] theorem mapPort_ctxCmds (s : State) (i : Nat) (f : Port → Port) : (s.mapPort i f).ctxCmds = s.ctxCmds := rfl
@[simp] theorem mapPort_frameTag (s : State) (i : Nat) (f : Port → Port) : (s.mapPort i f).frameTag = s.frameTag := rfl
@[simp] theorem mapPort_frameMajor (s : State) (i : Nat) (f : Port → Port) : (s.mapPort i f).frameMajor = s.frameMajor := rfl
@[simp] theorem mapPort_lineVer (s : State) (i : Nat) (f : Port → Port) : (s.mapPort i f).lineVer = s.lineVer := rfl
@[simp] theorem mapPort_lineGen (s : State) (i : Nat) (f : Port → Port) : (s.mapPort i f).lineGen = s.lineGen := rfl
@[simp] theorem mapPort_groups (s : State) (i : Nat) (f : Port → Port) : (s.mapPort i f).groups = s.groups := rfl
@[simp] theorem mapPort_nextGseq (s : State) (i : Nat) (f : Port → Port) : (s.mapPort i f).nextGseq = s.nextGseq := rfl
@[simp] theorem mapPort_subs (s : State) (i : Nat) (f : Port → Port) : (s.mapPort i f).subs = s.subs := rfl
@[simp] theorem mapPort_nextSub (s : State) (i : Nat) (f : Port → Port) : (s.mapPort i f).nextSub = s.nextSub := rfl
@[simp] theorem mapPort_launches (s : State) (i : Nat) (f : Port → Port) : (s.mapPort i f).launches = s.launches := rfl
@[simp] theorem mapPort_nextLid (s : State) (i : Nat) (f : Port → Port) : (s.mapPort i f).nextLid = s.nextLid := rfl
@[simp] theorem mapPort_queues (s : State) (i : Nat) (f : Port → Port) : (s.mapPort i f).queues = s.queues := rfl
@[simp] theorem mapPort_parked (s : State) (i : Nat) (f : Port → Port) : (s.mapPort i f).parked = s.parked := rfl
@[simp] theorem mapPort_nextPid (s : State) (i : Nat) (f : Port → Port) : (s.mapPort i f).nextPid = s.nextPid := rfl
@[simp] theorem mapPort_nextBind (s : State) (i : Nat) (f : Port → Port) : (s.mapPort i f).nextBind = s.nextBind := rfl
@[simp] theorem mapPort_harts (s : State) (i : Nat) (f : Port → Port) : (s.mapPort i f).harts = s.harts := rfl
@[simp] theorem mapPort_crews (s : State) (i : Nat) (f : Port → Port) : (s.mapPort i f).crews = s.crews := rfl
@[simp] theorem mapPort_cores (s : State) (i : Nat) (f : Port → Port) : (s.mapPort i f).cores = s.cores := rfl
@[simp] theorem mapPort_dies (s : State) (i : Nat) (f : Port → Port) : (s.mapPort i f).dies = s.dies := rfl
@[simp] theorem mapPort_worlds (s : State) (i : Nat) (f : Port → Port) : (s.mapPort i f).worlds = s.worlds := rfl
@[simp] theorem mapPort_nextKey (s : State) (i : Nat) (f : Port → Port) : (s.mapPort i f).nextKey = s.nextKey := rfl
@[simp] theorem mapPort_keyRing (s : State) (i : Nat) (f : Port → Port) : (s.mapPort i f).keyRing = s.keyRing := rfl
@[simp] theorem mapPort_parity (s : State) (i : Nat) (f : Port → Port) : (s.mapPort i f).parity = s.parity := rfl
@[simp] theorem mapPort_chFails (s : State) (i : Nat) (f : Port → Port) : (s.mapPort i f).chFails = s.chFails := rfl
@[simp] theorem mapPort_bankRows (s : State) (i : Nat) (f : Port → Port) : (s.mapPort i f).bankRows = s.bankRows := rfl
@[simp] theorem mapPort_rowFails (s : State) (i : Nat) (f : Port → Port) : (s.mapPort i f).rowFails = s.rowFails := rfl
@[simp] theorem mapPort_image (s : State) (i : Nat) (f : Port → Port) : (s.mapPort i f).image = s.image := rfl
@[simp] theorem mapPort_ckptSeq (s : State) (i : Nat) (f : Port → Port) : (s.mapPort i f).ckptSeq = s.ckptSeq := rfl
@[simp] theorem mapPort_ckptTime (s : State) (i : Nat) (f : Port → Port) : (s.mapPort i f).ckptTime = s.ckptTime := rfl
@[simp] theorem mapPort_sliceLog (s : State) (i : Nat) (f : Port → Port) : (s.mapPort i f).sliceLog = s.sliceLog := rfl
@[simp] theorem mapPort_mhz (s : State) (i : Nat) (f : Port → Port) : (s.mapPort i f).mhz = s.mhz := rfl
@[simp] theorem mapPort_clkset (s : State) (i : Nat) (f : Port → Port) : (s.mapPort i f).clkset = s.clkset := rfl
@[simp] theorem mapPort_pwrLimit (s : State) (i : Nat) (f : Port → Port) : (s.mapPort i f).pwrLimit = s.pwrLimit := rfl
@[simp] theorem mapPort_power (s : State) (i : Nat) (f : Port → Port) : (s.mapPort i f).power = s.power := rfl
@[simp] theorem mapPort_temps (s : State) (i : Nat) (f : Port → Port) : (s.mapPort i f).temps = s.temps := rfl
@[simp] theorem mapPort_overSince (s : State) (i : Nat) (f : Port → Port) : (s.mapPort i f).overSince = s.overSince := rfl
@[simp] theorem mapPort_needService (s : State) (i : Nat) (f : Port → Port) : (s.mapPort i f).needService = s.needService := rfl
@[simp] theorem mapPort_stopping (s : State) (i : Nat) (f : Port → Port) : (s.mapPort i f).stopping = s.stopping := rfl
@[simp] theorem mapPort_dying (s : State) (i : Nat) (f : Port → Port) : (s.mapPort i f).dying = s.dying := rfl
@[simp] theorem mapPort_off (s : State) (i : Nat) (f : Port → Port) : (s.mapPort i f).off = s.off := rfl
@[simp] theorem mapPort_bootFailed (s : State) (i : Nat) (f : Port → Port) : (s.mapPort i f).bootFailed = s.bootFailed := rfl
@[simp] theorem mapPort_mrBoot (s : State) (i : Nat) (f : Port → Port) : (s.mapPort i f).mrBoot = s.mrBoot := rfl
@[simp] theorem mapPort_devnum (s : State) (i : Nat) (f : Port → Port) : (s.mapPort i f).devnum = s.devnum := rfl
@[simp] theorem mapPort_requests (s : State) (i : Nat) (f : Port → Port) : (s.mapPort i f).requests = s.requests := rfl
@[simp] theorem mapPort_nextReq (s : State) (i : Nat) (f : Port → Port) : (s.mapPort i f).nextReq = s.nextReq := rfl
@[simp] theorem mapPort_admission (s : State) (i : Nat) (f : Port → Port) : (s.mapPort i f).admission = s.admission := rfl
@[simp] theorem mapPort_atc (s : State) (i : Nat) (f : Port → Port) : (s.mapPort i f).atc = s.atc := rfl
@[simp] theorem mapPort_invals (s : State) (i : Nat) (f : Port → Port) : (s.mapPort i f).invals = s.invals := rfl
@[simp] theorem mapPort_nextInval (s : State) (i : Nat) (f : Port → Port) : (s.mapPort i f).nextInval = s.nextInval := rfl
@[simp] theorem mapPort_hostOut (s : State) (i : Nat) (f : Port → Port) : (s.mapPort i f).hostOut = s.hostOut := rfl
@[simp] theorem mapPort_streams (s : State) (i : Nat) (f : Port → Port) : (s.mapPort i f).streams = s.streams := rfl
@[simp] theorem mapPort_denied (s : State) (i : Nat) (f : Port → Port) : (s.mapPort i f).denied = s.denied := rfl
@[simp] theorem mapPort_apertures (s : State) (i : Nat) (f : Port → Port) : (s.mapPort i f).apertures = s.apertures := rfl
@[simp] theorem mapPort_telemetry (s : State) (i : Nat) (f : Port → Port) : (s.mapPort i f).telemetry = s.telemetry := rfl
@[simp] theorem mapPort_doorbell (s : State) (i : Nat) (f : Port → Port) : (s.mapPort i f).doorbell = s.doorbell := rfl
@[simp] theorem mapPort_bells (s : State) (i : Nat) (f : Port → Port) : (s.mapPort i f).bells = s.bells := rfl
@[simp] theorem mapPort_mbxReq (s : State) (i : Nat) (f : Port → Port) : (s.mapPort i f).mbxReq = s.mbxReq := rfl
@[simp] theorem mapPort_mbxResp (s : State) (i : Nat) (f : Port → Port) : (s.mapPort i f).mbxResp = s.mbxResp := rfl
@[simp] theorem mapPort_mbxDone (s : State) (i : Nat) (f : Port → Port) : (s.mapPort i f).mbxDone = s.mbxDone := rfl
@[simp] theorem mapPort_mbxErr (s : State) (i : Nat) (f : Port → Port) : (s.mapPort i f).mbxErr = s.mbxErr := rfl
@[simp] theorem mapPort_doe (s : State) (i : Nat) (f : Port → Port) : (s.mapPort i f).doe = s.doe := rfl
@[simp] theorem mapPort_now (s : State) (i : Nat) (f : Port → Port) : (s.mapPort i f).now = s.now := rfl
@[simp] theorem mapPort_freeCtr (s : State) (i : Nat) (f : Port → Port) : (s.mapPort i f).freeCtr = s.freeCtr := rfl
@[simp] theorem mapPort_cur (s : State) (i : Nat) (f : Port → Port) : (s.mapPort i f).cur = s.cur := rfl
@[simp] theorem mapPort_ir (s : State) (i : Nat) (f : Port → Port) : (s.mapPort i f).ir = s.ir := rfl
@[simp] theorem mapPort_agenda (s : State) (i : Nat) (f : Port → Port) : (s.mapPort i f).agenda = s.agenda := rfl
@[simp] theorem mapPort_hartAt (s : State) (i : Nat) (f : Port → Port) (j : Nat) : (s.mapPort i f).hartAt j = s.hartAt j := rfl
@[simp] theorem mapPort_crewAt (s : State) (i : Nat) (f : Port → Port) (j : Nat) : (s.mapPort i f).crewAt j = s.crewAt j := rfl
@[simp] theorem mapPort_coreAt (s : State) (i : Nat) (f : Port → Port) (j : Nat) : (s.mapPort i f).coreAt j = s.coreAt j := rfl
@[simp] theorem mapPort_dieAt (s : State) (i : Nat) (f : Port → Port) (j : Nat) : (s.mapPort i f).dieAt j = s.dieAt j := rfl
@[simp] theorem mapPort_worldAt (s : State) (i : Nat) (f : Port → Port) (j : Nat) : (s.mapPort i f).worldAt j = s.worldAt j := rfl
@[simp] theorem mapPort_me (s : State) (i : Nat) (f : Port → Port) : (s.mapPort i f).me = s.me := rfl

/-! ### State.as -/

@[simp] theorem as_mem (s : State) (h : Nat) : (s.as h).mem = s.mem := rfl
@[simp] theorem as_writes (s : State) (h : Nat) : (s.as h).writes = s.writes := rfl
@[simp] theorem as_nextWrite (s : State) (h : Nat) : (s.as h).nextWrite = s.nextWrite := rfl
@[simp] theorem as_poison (s : State) (h : Nat) : (s.as h).poison = s.poison := rfl
@[simp] theorem as_held (s : State) (h : Nat) : (s.as h).held = s.held := rfl
@[simp] theorem as_pools (s : State) (h : Nat) : (s.as h).pools = s.pools := rfl
@[simp] theorem as_pageWaits (s : State) (h : Nat) : (s.as h).pageWaits = s.pageWaits := rfl
@[simp] theorem as_indexes (s : State) (h : Nat) : (s.as h).indexes = s.indexes := rfl
@[simp] theorem as_ctxCmds (s : State) (h : Nat) : (s.as h).ctxCmds = s.ctxCmds := rfl
@[simp] theorem as_frameTag (s : State) (h : Nat) : (s.as h).frameTag = s.frameTag := rfl
@[simp] theorem as_frameMajor (s : State) (h : Nat) : (s.as h).frameMajor = s.frameMajor := rfl
@[simp] theorem as_lineVer (s : State) (h : Nat) : (s.as h).lineVer = s.lineVer := rfl
@[simp] theorem as_lineGen (s : State) (h : Nat) : (s.as h).lineGen = s.lineGen := rfl
@[simp] theorem as_groups (s : State) (h : Nat) : (s.as h).groups = s.groups := rfl
@[simp] theorem as_nextGseq (s : State) (h : Nat) : (s.as h).nextGseq = s.nextGseq := rfl
@[simp] theorem as_subs (s : State) (h : Nat) : (s.as h).subs = s.subs := rfl
@[simp] theorem as_nextSub (s : State) (h : Nat) : (s.as h).nextSub = s.nextSub := rfl
@[simp] theorem as_launches (s : State) (h : Nat) : (s.as h).launches = s.launches := rfl
@[simp] theorem as_nextLid (s : State) (h : Nat) : (s.as h).nextLid = s.nextLid := rfl
@[simp] theorem as_queues (s : State) (h : Nat) : (s.as h).queues = s.queues := rfl
@[simp] theorem as_parked (s : State) (h : Nat) : (s.as h).parked = s.parked := rfl
@[simp] theorem as_nextPid (s : State) (h : Nat) : (s.as h).nextPid = s.nextPid := rfl
@[simp] theorem as_nextBind (s : State) (h : Nat) : (s.as h).nextBind = s.nextBind := rfl
@[simp] theorem as_harts (s : State) (h : Nat) : (s.as h).harts = s.harts := rfl
@[simp] theorem as_crews (s : State) (h : Nat) : (s.as h).crews = s.crews := rfl
@[simp] theorem as_cores (s : State) (h : Nat) : (s.as h).cores = s.cores := rfl
@[simp] theorem as_dies (s : State) (h : Nat) : (s.as h).dies = s.dies := rfl
@[simp] theorem as_worlds (s : State) (h : Nat) : (s.as h).worlds = s.worlds := rfl
@[simp] theorem as_nextKey (s : State) (h : Nat) : (s.as h).nextKey = s.nextKey := rfl
@[simp] theorem as_keyRing (s : State) (h : Nat) : (s.as h).keyRing = s.keyRing := rfl
@[simp] theorem as_parity (s : State) (h : Nat) : (s.as h).parity = s.parity := rfl
@[simp] theorem as_chFails (s : State) (h : Nat) : (s.as h).chFails = s.chFails := rfl
@[simp] theorem as_bankRows (s : State) (h : Nat) : (s.as h).bankRows = s.bankRows := rfl
@[simp] theorem as_rowFails (s : State) (h : Nat) : (s.as h).rowFails = s.rowFails := rfl
@[simp] theorem as_image (s : State) (h : Nat) : (s.as h).image = s.image := rfl
@[simp] theorem as_ckptSeq (s : State) (h : Nat) : (s.as h).ckptSeq = s.ckptSeq := rfl
@[simp] theorem as_ckptTime (s : State) (h : Nat) : (s.as h).ckptTime = s.ckptTime := rfl
@[simp] theorem as_sliceLog (s : State) (h : Nat) : (s.as h).sliceLog = s.sliceLog := rfl
@[simp] theorem as_mhz (s : State) (h : Nat) : (s.as h).mhz = s.mhz := rfl
@[simp] theorem as_clkset (s : State) (h : Nat) : (s.as h).clkset = s.clkset := rfl
@[simp] theorem as_pwrLimit (s : State) (h : Nat) : (s.as h).pwrLimit = s.pwrLimit := rfl
@[simp] theorem as_power (s : State) (h : Nat) : (s.as h).power = s.power := rfl
@[simp] theorem as_temps (s : State) (h : Nat) : (s.as h).temps = s.temps := rfl
@[simp] theorem as_overSince (s : State) (h : Nat) : (s.as h).overSince = s.overSince := rfl
@[simp] theorem as_needService (s : State) (h : Nat) : (s.as h).needService = s.needService := rfl
@[simp] theorem as_stopping (s : State) (h : Nat) : (s.as h).stopping = s.stopping := rfl
@[simp] theorem as_dying (s : State) (h : Nat) : (s.as h).dying = s.dying := rfl
@[simp] theorem as_off (s : State) (h : Nat) : (s.as h).off = s.off := rfl
@[simp] theorem as_bootFailed (s : State) (h : Nat) : (s.as h).bootFailed = s.bootFailed := rfl
@[simp] theorem as_mrBoot (s : State) (h : Nat) : (s.as h).mrBoot = s.mrBoot := rfl
@[simp] theorem as_devnum (s : State) (h : Nat) : (s.as h).devnum = s.devnum := rfl
@[simp] theorem as_requests (s : State) (h : Nat) : (s.as h).requests = s.requests := rfl
@[simp] theorem as_nextReq (s : State) (h : Nat) : (s.as h).nextReq = s.nextReq := rfl
@[simp] theorem as_ports (s : State) (h : Nat) : (s.as h).ports = s.ports := rfl
@[simp] theorem as_admission (s : State) (h : Nat) : (s.as h).admission = s.admission := rfl
@[simp] theorem as_atc (s : State) (h : Nat) : (s.as h).atc = s.atc := rfl
@[simp] theorem as_invals (s : State) (h : Nat) : (s.as h).invals = s.invals := rfl
@[simp] theorem as_nextInval (s : State) (h : Nat) : (s.as h).nextInval = s.nextInval := rfl
@[simp] theorem as_hostOut (s : State) (h : Nat) : (s.as h).hostOut = s.hostOut := rfl
@[simp] theorem as_streams (s : State) (h : Nat) : (s.as h).streams = s.streams := rfl
@[simp] theorem as_denied (s : State) (h : Nat) : (s.as h).denied = s.denied := rfl
@[simp] theorem as_apertures (s : State) (h : Nat) : (s.as h).apertures = s.apertures := rfl
@[simp] theorem as_telemetry (s : State) (h : Nat) : (s.as h).telemetry = s.telemetry := rfl
@[simp] theorem as_doorbell (s : State) (h : Nat) : (s.as h).doorbell = s.doorbell := rfl
@[simp] theorem as_bells (s : State) (h : Nat) : (s.as h).bells = s.bells := rfl
@[simp] theorem as_mbxReq (s : State) (h : Nat) : (s.as h).mbxReq = s.mbxReq := rfl
@[simp] theorem as_mbxResp (s : State) (h : Nat) : (s.as h).mbxResp = s.mbxResp := rfl
@[simp] theorem as_mbxDone (s : State) (h : Nat) : (s.as h).mbxDone = s.mbxDone := rfl
@[simp] theorem as_mbxErr (s : State) (h : Nat) : (s.as h).mbxErr = s.mbxErr := rfl
@[simp] theorem as_doe (s : State) (h : Nat) : (s.as h).doe = s.doe := rfl
@[simp] theorem as_now (s : State) (h : Nat) : (s.as h).now = s.now := rfl
@[simp] theorem as_freeCtr (s : State) (h : Nat) : (s.as h).freeCtr = s.freeCtr := rfl
@[simp] theorem as_ir (s : State) (h : Nat) : (s.as h).ir = s.ir := rfl
@[simp] theorem as_agenda (s : State) (h : Nat) : (s.as h).agenda = s.agenda := rfl
@[simp] theorem as_hartAt (s : State) (h : Nat) (j : Nat) : (s.as h).hartAt j = s.hartAt j := rfl
@[simp] theorem as_crewAt (s : State) (h : Nat) (j : Nat) : (s.as h).crewAt j = s.crewAt j := rfl
@[simp] theorem as_coreAt (s : State) (h : Nat) (j : Nat) : (s.as h).coreAt j = s.coreAt j := rfl
@[simp] theorem as_dieAt (s : State) (h : Nat) (j : Nat) : (s.as h).dieAt j = s.dieAt j := rfl
@[simp] theorem as_worldAt (s : State) (h : Nat) (j : Nat) : (s.as h).worldAt j = s.worldAt j := rfl

/-! ### Hart.retire -/

@[simp] theorem retire_hart_x (h : Hart) (len : Nat) : (h.retire len).x = h.x := rfl
@[simp] theorem retire_hart_sup (h : Hart) (len : Nat) : (h.retire len).sup = h.sup := rfl
@[simp] theorem retire_hart_fcsr (h : Hart) (len : Nat) : (h.retire len).fcsr = h.fcsr := rfl
@[simp] theorem retire_hart_vstart (h : Hart) (len : Nat) : (h.retire len).vstart = h.vstart := rfl
@[simp] theorem retire_hart_vl (h : Hart) (len : Nat) : (h.retire len).vl = h.vl := rfl
@[simp] theorem retire_hart_vtype (h : Hart) (len : Nat) : (h.retire len).vtype = h.vtype := rfl
@[simp] theorem retire_hart_lanes (h : Hart) (len : Nat) : (h.retire len).lanes = h.lanes := rfl
@[simp] theorem retire_hart_lgquota (h : Hart) (len : Nat) : (h.retire len).lgquota = h.lgquota := rfl
@[simp] theorem retire_hart_vdirty (h : Hart) (len : Nat) : (h.retire len).vdirty = h.vdirty := rfl
@[simp] theorem retire_hart_kdirty (h : Hart) (len : Nat) : (h.retire len).kdirty = h.kdirty := rfl
@[simp] theorem retire_hart_vstate (h : Hart) (len : Nat) : (h.retire len).vstate = h.vstate := rfl
@[simp] theorem retire_hart_attncfg (h : Hart) (len : Nat) : (h.retire len).attncfg = h.attncfg := rfl
@[simp] theorem retire_hart_cpbar (h : Hart) (len : Nat) : (h.retire len).cpbar = h.cpbar := rfl
@[simp] theorem retire_hart_sstatus (h : Hart) (len : Nat) : (h.retire len).sstatus = h.sstatus := rfl
@[simp] theorem retire_hart_stvec (h : Hart) (len : Nat) : (h.retire len).stvec = h.stvec := rfl
@[simp] theorem retire_hart_sepc (h : Hart) (len : Nat) : (h.retire len).sepc = h.sepc := rfl
@[simp] theorem retire_hart_scause (h : Hart) (len : Nat) : (h.retire len).scause = h.scause := rfl
@[simp] theorem retire_hart_stval (h : Hart) (len : Nat) : (h.retire len).stval = h.stval := rfl
@[simp] theorem retire_hart_sscratch (h : Hart) (len : Nat) : (h.retire len).sscratch = h.sscratch := rfl
@[simp] theorem retire_hart_sxlat (h : Hart) (len : Nat) : (h.retire len).sxlat = h.sxlat := rfl
@[simp] theorem retire_hart_violog (h : Hart) (len : Nat) : (h.retire len).violog = h.violog := rfl
@[simp] theorem retire_hart_cycleBase (h : Hart) (len : Nat) : (h.retire len).cycleBase = h.cycleBase := rfl
@[simp] theorem retire_hart_cycleKept (h : Hart) (len : Nat) : (h.retire len).cycleKept = h.cycleKept := rfl
@[simp] theorem retire_hart_v (h : Hart) (len : Nat) : (h.retire len).v = h.v := rfl
@[simp] theorem retire_hart_vpoison (h : Hart) (len : Nat) : (h.retire len).vpoison = h.vpoison := rfl
@[simp] theorem retire_hart_k (h : Hart) (len : Nat) : (h.retire len).k = h.k := rfl
@[simp] theorem retire_hart_taintX (h : Hart) (len : Nat) : (h.retire len).taintX = h.taintX := rfl
@[simp] theorem retire_hart_taintV (h : Hart) (len : Nat) : (h.retire len).taintV = h.taintV := rfl
@[simp] theorem retire_hart_taintK (h : Hart) (len : Nat) : (h.retire len).taintK = h.taintK := rfl
@[simp] theorem retire_hart_taintVl (h : Hart) (len : Nat) : (h.retire len).taintVl = h.taintVl := rfl
@[simp] theorem retire_hart_taintP (h : Hart) (len : Nat) : (h.retire len).taintP = h.taintP := rfl
@[simp] theorem retire_hart_taintA (h : Hart) (len : Nat) : (h.retire len).taintA = h.taintA := rfl
@[simp] theorem retire_hart_tags (h : Hart) (len : Nat) : (h.retire len).tags = h.tags := rfl
@[simp] theorem retire_hart_issued (h : Hart) (len : Nat) : (h.retire len).issued = h.issued := rfl
@[simp] theorem retire_hart_seen (h : Hart) (len : Nat) : (h.retire len).seen = h.seen := rfl
@[simp] theorem retire_hart_chain (h : Hart) (len : Nat) : (h.retire len).chain = h.chain := rfl
@[simp] theorem retire_hart_copySeq (h : Hart) (len : Nat) : (h.retire len).copySeq = h.copySeq := rfl
@[simp] theorem retire_hart_copies (h : Hart) (len : Nat) : (h.retire len).copies = h.copies := rfl
@[simp] theorem retire_hart_doneWords (h : Hart) (len : Nat) : (h.retire len).doneWords = h.doneWords := rfl
@[simp] theorem retire_hart_keptFail (h : Hart) (len : Nat) : (h.retire len).keptFail = h.keptFail := rfl
@[simp] theorem retire_hart_keptLast (h : Hart) (len : Nat) : (h.retire len).keptLast = h.keptLast := rfl
@[simp] theorem retire_hart_ended (h : Hart) (len : Nat) : (h.retire len).ended = h.ended := rfl
@[simp] theorem retire_hart_left (h : Hart) (len : Nat) : (h.retire len).left = h.left := rfl
@[simp] theorem retire_hart_stalled (h : Hart) (len : Nat) : (h.retire len).stalled = h.stalled := rfl
@[simp] theorem retire_hart_timecmp (h : Hart) (len : Nat) : (h.retire len).timecmp = h.timecmp := rfl
@[simp] theorem retire_hart_bellMuted (h : Hart) (len : Nat) : (h.retire len).bellMuted = h.bellMuted := rfl

/-! ### Hart.addFlags -/

@[simp] theorem addFlags_hart_x (h : Hart) (g : FFlags) : (h.addFlags g).x = h.x := rfl
@[simp] theorem addFlags_hart_pc (h : Hart) (g : FFlags) : (h.addFlags g).pc = h.pc := rfl
@[simp] theorem addFlags_hart_sup (h : Hart) (g : FFlags) : (h.addFlags g).sup = h.sup := rfl
@[simp] theorem addFlags_hart_vstart (h : Hart) (g : FFlags) : (h.addFlags g).vstart = h.vstart := rfl
@[simp] theorem addFlags_hart_vl (h : Hart) (g : FFlags) : (h.addFlags g).vl = h.vl := rfl
@[simp] theorem addFlags_hart_vtype (h : Hart) (g : FFlags) : (h.addFlags g).vtype = h.vtype := rfl
@[simp] theorem addFlags_hart_lanes (h : Hart) (g : FFlags) : (h.addFlags g).lanes = h.lanes := rfl
@[simp] theorem addFlags_hart_lgquota (h : Hart) (g : FFlags) : (h.addFlags g).lgquota = h.lgquota := rfl
@[simp] theorem addFlags_hart_vdirty (h : Hart) (g : FFlags) : (h.addFlags g).vdirty = h.vdirty := rfl
@[simp] theorem addFlags_hart_kdirty (h : Hart) (g : FFlags) : (h.addFlags g).kdirty = h.kdirty := rfl
@[simp] theorem addFlags_hart_vstate (h : Hart) (g : FFlags) : (h.addFlags g).vstate = h.vstate := rfl
@[simp] theorem addFlags_hart_attncfg (h : Hart) (g : FFlags) : (h.addFlags g).attncfg = h.attncfg := rfl
@[simp] theorem addFlags_hart_cpbar (h : Hart) (g : FFlags) : (h.addFlags g).cpbar = h.cpbar := rfl
@[simp] theorem addFlags_hart_sstatus (h : Hart) (g : FFlags) : (h.addFlags g).sstatus = h.sstatus := rfl
@[simp] theorem addFlags_hart_stvec (h : Hart) (g : FFlags) : (h.addFlags g).stvec = h.stvec := rfl
@[simp] theorem addFlags_hart_sepc (h : Hart) (g : FFlags) : (h.addFlags g).sepc = h.sepc := rfl
@[simp] theorem addFlags_hart_scause (h : Hart) (g : FFlags) : (h.addFlags g).scause = h.scause := rfl
@[simp] theorem addFlags_hart_stval (h : Hart) (g : FFlags) : (h.addFlags g).stval = h.stval := rfl
@[simp] theorem addFlags_hart_sscratch (h : Hart) (g : FFlags) : (h.addFlags g).sscratch = h.sscratch := rfl
@[simp] theorem addFlags_hart_sxlat (h : Hart) (g : FFlags) : (h.addFlags g).sxlat = h.sxlat := rfl
@[simp] theorem addFlags_hart_violog (h : Hart) (g : FFlags) : (h.addFlags g).violog = h.violog := rfl
@[simp] theorem addFlags_hart_cycleBase (h : Hart) (g : FFlags) : (h.addFlags g).cycleBase = h.cycleBase := rfl
@[simp] theorem addFlags_hart_cycleKept (h : Hart) (g : FFlags) : (h.addFlags g).cycleKept = h.cycleKept := rfl
@[simp] theorem addFlags_hart_instret (h : Hart) (g : FFlags) : (h.addFlags g).instret = h.instret := rfl
@[simp] theorem addFlags_hart_v (h : Hart) (g : FFlags) : (h.addFlags g).v = h.v := rfl
@[simp] theorem addFlags_hart_vpoison (h : Hart) (g : FFlags) : (h.addFlags g).vpoison = h.vpoison := rfl
@[simp] theorem addFlags_hart_k (h : Hart) (g : FFlags) : (h.addFlags g).k = h.k := rfl
@[simp] theorem addFlags_hart_taintX (h : Hart) (g : FFlags) : (h.addFlags g).taintX = h.taintX := rfl
@[simp] theorem addFlags_hart_taintV (h : Hart) (g : FFlags) : (h.addFlags g).taintV = h.taintV := rfl
@[simp] theorem addFlags_hart_taintK (h : Hart) (g : FFlags) : (h.addFlags g).taintK = h.taintK := rfl
@[simp] theorem addFlags_hart_taintVl (h : Hart) (g : FFlags) : (h.addFlags g).taintVl = h.taintVl := rfl
@[simp] theorem addFlags_hart_taintP (h : Hart) (g : FFlags) : (h.addFlags g).taintP = h.taintP := rfl
@[simp] theorem addFlags_hart_taintA (h : Hart) (g : FFlags) : (h.addFlags g).taintA = h.taintA := rfl
@[simp] theorem addFlags_hart_tags (h : Hart) (g : FFlags) : (h.addFlags g).tags = h.tags := rfl
@[simp] theorem addFlags_hart_issued (h : Hart) (g : FFlags) : (h.addFlags g).issued = h.issued := rfl
@[simp] theorem addFlags_hart_seen (h : Hart) (g : FFlags) : (h.addFlags g).seen = h.seen := rfl
@[simp] theorem addFlags_hart_chain (h : Hart) (g : FFlags) : (h.addFlags g).chain = h.chain := rfl
@[simp] theorem addFlags_hart_copySeq (h : Hart) (g : FFlags) : (h.addFlags g).copySeq = h.copySeq := rfl
@[simp] theorem addFlags_hart_copies (h : Hart) (g : FFlags) : (h.addFlags g).copies = h.copies := rfl
@[simp] theorem addFlags_hart_doneWords (h : Hart) (g : FFlags) : (h.addFlags g).doneWords = h.doneWords := rfl
@[simp] theorem addFlags_hart_keptFail (h : Hart) (g : FFlags) : (h.addFlags g).keptFail = h.keptFail := rfl
@[simp] theorem addFlags_hart_keptLast (h : Hart) (g : FFlags) : (h.addFlags g).keptLast = h.keptLast := rfl
@[simp] theorem addFlags_hart_ended (h : Hart) (g : FFlags) : (h.addFlags g).ended = h.ended := rfl
@[simp] theorem addFlags_hart_left (h : Hart) (g : FFlags) : (h.addFlags g).left = h.left := rfl
@[simp] theorem addFlags_hart_window (h : Hart) (g : FFlags) : (h.addFlags g).window = h.window := rfl
@[simp] theorem addFlags_hart_stalled (h : Hart) (g : FFlags) : (h.addFlags g).stalled = h.stalled := rfl
@[simp] theorem addFlags_hart_run (h : Hart) (g : FFlags) : (h.addFlags g).run = h.run := rfl
@[simp] theorem addFlags_hart_remote (h : Hart) (g : FFlags) : (h.addFlags g).remote = h.remote := rfl
@[simp] theorem addFlags_hart_timecmp (h : Hart) (g : FFlags) : (h.addFlags g).timecmp = h.timecmp := rfl
@[simp] theorem addFlags_hart_bellMuted (h : Hart) (g : FFlags) : (h.addFlags g).bellMuted = h.bellMuted := rfl

/-! ### Hart.setElem -/

@[simp] theorem setElem_hart_x (h : Hart) (r : BitVec 5) (w i v : Nat) : (h.setElem r w i v).x = h.x := rfl
@[simp] theorem setElem_hart_pc (h : Hart) (r : BitVec 5) (w i v : Nat) : (h.setElem r w i v).pc = h.pc := rfl
@[simp] theorem setElem_hart_sup (h : Hart) (r : BitVec 5) (w i v : Nat) : (h.setElem r w i v).sup = h.sup := rfl
@[simp] theorem setElem_hart_fcsr (h : Hart) (r : BitVec 5) (w i v : Nat) : (h.setElem r w i v).fcsr = h.fcsr := rfl
@[simp] theorem setElem_hart_vstart (h : Hart) (r : BitVec 5) (w i v : Nat) : (h.setElem r w i v).vstart = h.vstart := rfl
@[simp] theorem setElem_hart_vl (h : Hart) (r : BitVec 5) (w i v : Nat) : (h.setElem r w i v).vl = h.vl := rfl
@[simp] theorem setElem_hart_vtype (h : Hart) (r : BitVec 5) (w i v : Nat) : (h.setElem r w i v).vtype = h.vtype := rfl
@[simp] theorem setElem_hart_lanes (h : Hart) (r : BitVec 5) (w i v : Nat) : (h.setElem r w i v).lanes = h.lanes := rfl
@[simp] theorem setElem_hart_lgquota (h : Hart) (r : BitVec 5) (w i v : Nat) : (h.setElem r w i v).lgquota = h.lgquota := rfl
@[simp] theorem setElem_hart_vdirty (h : Hart) (r : BitVec 5) (w i v : Nat) : (h.setElem r w i v).vdirty = h.vdirty := rfl
@[simp] theorem setElem_hart_kdirty (h : Hart) (r : BitVec 5) (w i v : Nat) : (h.setElem r w i v).kdirty = h.kdirty := rfl
@[simp] theorem setElem_hart_vstate (h : Hart) (r : BitVec 5) (w i v : Nat) : (h.setElem r w i v).vstate = h.vstate := rfl
@[simp] theorem setElem_hart_attncfg (h : Hart) (r : BitVec 5) (w i v : Nat) : (h.setElem r w i v).attncfg = h.attncfg := rfl
@[simp] theorem setElem_hart_cpbar (h : Hart) (r : BitVec 5) (w i v : Nat) : (h.setElem r w i v).cpbar = h.cpbar := rfl
@[simp] theorem setElem_hart_sstatus (h : Hart) (r : BitVec 5) (w i v : Nat) : (h.setElem r w i v).sstatus = h.sstatus := rfl
@[simp] theorem setElem_hart_stvec (h : Hart) (r : BitVec 5) (w i v : Nat) : (h.setElem r w i v).stvec = h.stvec := rfl
@[simp] theorem setElem_hart_sepc (h : Hart) (r : BitVec 5) (w i v : Nat) : (h.setElem r w i v).sepc = h.sepc := rfl
@[simp] theorem setElem_hart_scause (h : Hart) (r : BitVec 5) (w i v : Nat) : (h.setElem r w i v).scause = h.scause := rfl
@[simp] theorem setElem_hart_stval (h : Hart) (r : BitVec 5) (w i v : Nat) : (h.setElem r w i v).stval = h.stval := rfl
@[simp] theorem setElem_hart_sscratch (h : Hart) (r : BitVec 5) (w i v : Nat) : (h.setElem r w i v).sscratch = h.sscratch := rfl
@[simp] theorem setElem_hart_sxlat (h : Hart) (r : BitVec 5) (w i v : Nat) : (h.setElem r w i v).sxlat = h.sxlat := rfl
@[simp] theorem setElem_hart_violog (h : Hart) (r : BitVec 5) (w i v : Nat) : (h.setElem r w i v).violog = h.violog := rfl
@[simp] theorem setElem_hart_cycleBase (h : Hart) (r : BitVec 5) (w i v : Nat) : (h.setElem r w i v).cycleBase = h.cycleBase := rfl
@[simp] theorem setElem_hart_cycleKept (h : Hart) (r : BitVec 5) (w i v : Nat) : (h.setElem r w i v).cycleKept = h.cycleKept := rfl
@[simp] theorem setElem_hart_instret (h : Hart) (r : BitVec 5) (w i v : Nat) : (h.setElem r w i v).instret = h.instret := rfl
@[simp] theorem setElem_hart_k (h : Hart) (r : BitVec 5) (w i v : Nat) : (h.setElem r w i v).k = h.k := rfl
@[simp] theorem setElem_hart_taintX (h : Hart) (r : BitVec 5) (w i v : Nat) : (h.setElem r w i v).taintX = h.taintX := rfl
@[simp] theorem setElem_hart_taintV (h : Hart) (r : BitVec 5) (w i v : Nat) : (h.setElem r w i v).taintV = h.taintV := rfl
@[simp] theorem setElem_hart_taintK (h : Hart) (r : BitVec 5) (w i v : Nat) : (h.setElem r w i v).taintK = h.taintK := rfl
@[simp] theorem setElem_hart_taintVl (h : Hart) (r : BitVec 5) (w i v : Nat) : (h.setElem r w i v).taintVl = h.taintVl := rfl
@[simp] theorem setElem_hart_taintP (h : Hart) (r : BitVec 5) (w i v : Nat) : (h.setElem r w i v).taintP = h.taintP := rfl
@[simp] theorem setElem_hart_taintA (h : Hart) (r : BitVec 5) (w i v : Nat) : (h.setElem r w i v).taintA = h.taintA := rfl
@[simp] theorem setElem_hart_tags (h : Hart) (r : BitVec 5) (w i v : Nat) : (h.setElem r w i v).tags = h.tags := rfl
@[simp] theorem setElem_hart_issued (h : Hart) (r : BitVec 5) (w i v : Nat) : (h.setElem r w i v).issued = h.issued := rfl
@[simp] theorem setElem_hart_seen (h : Hart) (r : BitVec 5) (w i v : Nat) : (h.setElem r w i v).seen = h.seen := rfl
@[simp] theorem setElem_hart_chain (h : Hart) (r : BitVec 5) (w i v : Nat) : (h.setElem r w i v).chain = h.chain := rfl
@[simp] theorem setElem_hart_copySeq (h : Hart) (r : BitVec 5) (w i v : Nat) : (h.setElem r w i v).copySeq = h.copySeq := rfl
@[simp] theorem setElem_hart_copies (h : Hart) (r : BitVec 5) (w i v : Nat) : (h.setElem r w i v).copies = h.copies := rfl
@[simp] theorem setElem_hart_doneWords (h : Hart) (r : BitVec 5) (w i v : Nat) : (h.setElem r w i v).doneWords = h.doneWords := rfl
@[simp] theorem setElem_hart_keptFail (h : Hart) (r : BitVec 5) (w i v : Nat) : (h.setElem r w i v).keptFail = h.keptFail := rfl
@[simp] theorem setElem_hart_keptLast (h : Hart) (r : BitVec 5) (w i v : Nat) : (h.setElem r w i v).keptLast = h.keptLast := rfl
@[simp] theorem setElem_hart_ended (h : Hart) (r : BitVec 5) (w i v : Nat) : (h.setElem r w i v).ended = h.ended := rfl
@[simp] theorem setElem_hart_left (h : Hart) (r : BitVec 5) (w i v : Nat) : (h.setElem r w i v).left = h.left := rfl
@[simp] theorem setElem_hart_window (h : Hart) (r : BitVec 5) (w i v : Nat) : (h.setElem r w i v).window = h.window := rfl
@[simp] theorem setElem_hart_stalled (h : Hart) (r : BitVec 5) (w i v : Nat) : (h.setElem r w i v).stalled = h.stalled := rfl
@[simp] theorem setElem_hart_run (h : Hart) (r : BitVec 5) (w i v : Nat) : (h.setElem r w i v).run = h.run := rfl
@[simp] theorem setElem_hart_remote (h : Hart) (r : BitVec 5) (w i v : Nat) : (h.setElem r w i v).remote = h.remote := rfl
@[simp] theorem setElem_hart_timecmp (h : Hart) (r : BitVec 5) (w i v : Nat) : (h.setElem r w i v).timecmp = h.timecmp := rfl
@[simp] theorem setElem_hart_bellMuted (h : Hart) (r : BitVec 5) (w i v : Nat) : (h.setElem r w i v).bellMuted = h.bellMuted := rfl

/-! ### Hart.setK -/

@[simp] theorem setK_hart_x (h : Hart) (r i : Nat) (b : Bool) : (h.setK r i b).x = h.x := rfl
@[simp] theorem setK_hart_pc (h : Hart) (r i : Nat) (b : Bool) : (h.setK r i b).pc = h.pc := rfl
@[simp] theorem setK_hart_sup (h : Hart) (r i : Nat) (b : Bool) : (h.setK r i b).sup = h.sup := rfl
@[simp] theorem setK_hart_fcsr (h : Hart) (r i : Nat) (b : Bool) : (h.setK r i b).fcsr = h.fcsr := rfl
@[simp] theorem setK_hart_vstart (h : Hart) (r i : Nat) (b : Bool) : (h.setK r i b).vstart = h.vstart := rfl
@[simp] theorem setK_hart_vl (h : Hart) (r i : Nat) (b : Bool) : (h.setK r i b).vl = h.vl := rfl
@[simp] theorem setK_hart_vtype (h : Hart) (r i : Nat) (b : Bool) : (h.setK r i b).vtype = h.vtype := rfl
@[simp] theorem setK_hart_lanes (h : Hart) (r i : Nat) (b : Bool) : (h.setK r i b).lanes = h.lanes := rfl
@[simp] theorem setK_hart_lgquota (h : Hart) (r i : Nat) (b : Bool) : (h.setK r i b).lgquota = h.lgquota := rfl
@[simp] theorem setK_hart_vdirty (h : Hart) (r i : Nat) (b : Bool) : (h.setK r i b).vdirty = h.vdirty := rfl
@[simp] theorem setK_hart_kdirty (h : Hart) (r i : Nat) (b : Bool) : (h.setK r i b).kdirty = h.kdirty := rfl
@[simp] theorem setK_hart_vstate (h : Hart) (r i : Nat) (b : Bool) : (h.setK r i b).vstate = h.vstate := rfl
@[simp] theorem setK_hart_attncfg (h : Hart) (r i : Nat) (b : Bool) : (h.setK r i b).attncfg = h.attncfg := rfl
@[simp] theorem setK_hart_cpbar (h : Hart) (r i : Nat) (b : Bool) : (h.setK r i b).cpbar = h.cpbar := rfl
@[simp] theorem setK_hart_sstatus (h : Hart) (r i : Nat) (b : Bool) : (h.setK r i b).sstatus = h.sstatus := rfl
@[simp] theorem setK_hart_stvec (h : Hart) (r i : Nat) (b : Bool) : (h.setK r i b).stvec = h.stvec := rfl
@[simp] theorem setK_hart_sepc (h : Hart) (r i : Nat) (b : Bool) : (h.setK r i b).sepc = h.sepc := rfl
@[simp] theorem setK_hart_scause (h : Hart) (r i : Nat) (b : Bool) : (h.setK r i b).scause = h.scause := rfl
@[simp] theorem setK_hart_stval (h : Hart) (r i : Nat) (b : Bool) : (h.setK r i b).stval = h.stval := rfl
@[simp] theorem setK_hart_sscratch (h : Hart) (r i : Nat) (b : Bool) : (h.setK r i b).sscratch = h.sscratch := rfl
@[simp] theorem setK_hart_sxlat (h : Hart) (r i : Nat) (b : Bool) : (h.setK r i b).sxlat = h.sxlat := rfl
@[simp] theorem setK_hart_violog (h : Hart) (r i : Nat) (b : Bool) : (h.setK r i b).violog = h.violog := rfl
@[simp] theorem setK_hart_cycleBase (h : Hart) (r i : Nat) (b : Bool) : (h.setK r i b).cycleBase = h.cycleBase := rfl
@[simp] theorem setK_hart_cycleKept (h : Hart) (r i : Nat) (b : Bool) : (h.setK r i b).cycleKept = h.cycleKept := rfl
@[simp] theorem setK_hart_instret (h : Hart) (r i : Nat) (b : Bool) : (h.setK r i b).instret = h.instret := rfl
@[simp] theorem setK_hart_v (h : Hart) (r i : Nat) (b : Bool) : (h.setK r i b).v = h.v := rfl
@[simp] theorem setK_hart_vpoison (h : Hart) (r i : Nat) (b : Bool) : (h.setK r i b).vpoison = h.vpoison := rfl
@[simp] theorem setK_hart_taintX (h : Hart) (r i : Nat) (b : Bool) : (h.setK r i b).taintX = h.taintX := rfl
@[simp] theorem setK_hart_taintV (h : Hart) (r i : Nat) (b : Bool) : (h.setK r i b).taintV = h.taintV := rfl
@[simp] theorem setK_hart_taintK (h : Hart) (r i : Nat) (b : Bool) : (h.setK r i b).taintK = h.taintK := rfl
@[simp] theorem setK_hart_taintVl (h : Hart) (r i : Nat) (b : Bool) : (h.setK r i b).taintVl = h.taintVl := rfl
@[simp] theorem setK_hart_taintP (h : Hart) (r i : Nat) (b : Bool) : (h.setK r i b).taintP = h.taintP := rfl
@[simp] theorem setK_hart_taintA (h : Hart) (r i : Nat) (b : Bool) : (h.setK r i b).taintA = h.taintA := rfl
@[simp] theorem setK_hart_tags (h : Hart) (r i : Nat) (b : Bool) : (h.setK r i b).tags = h.tags := rfl
@[simp] theorem setK_hart_issued (h : Hart) (r i : Nat) (b : Bool) : (h.setK r i b).issued = h.issued := rfl
@[simp] theorem setK_hart_seen (h : Hart) (r i : Nat) (b : Bool) : (h.setK r i b).seen = h.seen := rfl
@[simp] theorem setK_hart_chain (h : Hart) (r i : Nat) (b : Bool) : (h.setK r i b).chain = h.chain := rfl
@[simp] theorem setK_hart_copySeq (h : Hart) (r i : Nat) (b : Bool) : (h.setK r i b).copySeq = h.copySeq := rfl
@[simp] theorem setK_hart_copies (h : Hart) (r i : Nat) (b : Bool) : (h.setK r i b).copies = h.copies := rfl
@[simp] theorem setK_hart_doneWords (h : Hart) (r i : Nat) (b : Bool) : (h.setK r i b).doneWords = h.doneWords := rfl
@[simp] theorem setK_hart_keptFail (h : Hart) (r i : Nat) (b : Bool) : (h.setK r i b).keptFail = h.keptFail := rfl
@[simp] theorem setK_hart_keptLast (h : Hart) (r i : Nat) (b : Bool) : (h.setK r i b).keptLast = h.keptLast := rfl
@[simp] theorem setK_hart_ended (h : Hart) (r i : Nat) (b : Bool) : (h.setK r i b).ended = h.ended := rfl
@[simp] theorem setK_hart_left (h : Hart) (r i : Nat) (b : Bool) : (h.setK r i b).left = h.left := rfl
@[simp] theorem setK_hart_window (h : Hart) (r i : Nat) (b : Bool) : (h.setK r i b).window = h.window := rfl
@[simp] theorem setK_hart_stalled (h : Hart) (r i : Nat) (b : Bool) : (h.setK r i b).stalled = h.stalled := rfl
@[simp] theorem setK_hart_run (h : Hart) (r i : Nat) (b : Bool) : (h.setK r i b).run = h.run := rfl
@[simp] theorem setK_hart_remote (h : Hart) (r i : Nat) (b : Bool) : (h.setK r i b).remote = h.remote := rfl
@[simp] theorem setK_hart_timecmp (h : Hart) (r i : Nat) (b : Bool) : (h.setK r i b).timecmp = h.timecmp := rfl
@[simp] theorem setK_hart_bellMuted (h : Hart) (r i : Nat) (b : Bool) : (h.setK r i b).bellMuted = h.bellMuted := rfl

/-! ### Hart.clearTaint -/

@[simp] theorem clearTaint_hart_x (h : Hart) : (h.clearTaint).x = h.x := rfl
@[simp] theorem clearTaint_hart_pc (h : Hart) : (h.clearTaint).pc = h.pc := rfl
@[simp] theorem clearTaint_hart_sup (h : Hart) : (h.clearTaint).sup = h.sup := rfl
@[simp] theorem clearTaint_hart_fcsr (h : Hart) : (h.clearTaint).fcsr = h.fcsr := rfl
@[simp] theorem clearTaint_hart_vstart (h : Hart) : (h.clearTaint).vstart = h.vstart := rfl
@[simp] theorem clearTaint_hart_vl (h : Hart) : (h.clearTaint).vl = h.vl := rfl
@[simp] theorem clearTaint_hart_vtype (h : Hart) : (h.clearTaint).vtype = h.vtype := rfl
@[simp] theorem clearTaint_hart_lanes (h : Hart) : (h.clearTaint).lanes = h.lanes := rfl
@[simp] theorem clearTaint_hart_lgquota (h : Hart) : (h.clearTaint).lgquota = h.lgquota := rfl
@[simp] theorem clearTaint_hart_vdirty (h : Hart) : (h.clearTaint).vdirty = h.vdirty := rfl
@[simp] theorem clearTaint_hart_kdirty (h : Hart) : (h.clearTaint).kdirty = h.kdirty := rfl
@[simp] theorem clearTaint_hart_vstate (h : Hart) : (h.clearTaint).vstate = h.vstate := rfl
@[simp] theorem clearTaint_hart_attncfg (h : Hart) : (h.clearTaint).attncfg = h.attncfg := rfl
@[simp] theorem clearTaint_hart_cpbar (h : Hart) : (h.clearTaint).cpbar = h.cpbar := rfl
@[simp] theorem clearTaint_hart_sstatus (h : Hart) : (h.clearTaint).sstatus = h.sstatus := rfl
@[simp] theorem clearTaint_hart_stvec (h : Hart) : (h.clearTaint).stvec = h.stvec := rfl
@[simp] theorem clearTaint_hart_sepc (h : Hart) : (h.clearTaint).sepc = h.sepc := rfl
@[simp] theorem clearTaint_hart_scause (h : Hart) : (h.clearTaint).scause = h.scause := rfl
@[simp] theorem clearTaint_hart_stval (h : Hart) : (h.clearTaint).stval = h.stval := rfl
@[simp] theorem clearTaint_hart_sscratch (h : Hart) : (h.clearTaint).sscratch = h.sscratch := rfl
@[simp] theorem clearTaint_hart_sxlat (h : Hart) : (h.clearTaint).sxlat = h.sxlat := rfl
@[simp] theorem clearTaint_hart_violog (h : Hart) : (h.clearTaint).violog = h.violog := rfl
@[simp] theorem clearTaint_hart_cycleBase (h : Hart) : (h.clearTaint).cycleBase = h.cycleBase := rfl
@[simp] theorem clearTaint_hart_cycleKept (h : Hart) : (h.clearTaint).cycleKept = h.cycleKept := rfl
@[simp] theorem clearTaint_hart_instret (h : Hart) : (h.clearTaint).instret = h.instret := rfl
@[simp] theorem clearTaint_hart_v (h : Hart) : (h.clearTaint).v = h.v := rfl
@[simp] theorem clearTaint_hart_vpoison (h : Hart) : (h.clearTaint).vpoison = h.vpoison := rfl
@[simp] theorem clearTaint_hart_k (h : Hart) : (h.clearTaint).k = h.k := rfl
@[simp] theorem clearTaint_hart_tags (h : Hart) : (h.clearTaint).tags = h.tags := rfl
@[simp] theorem clearTaint_hart_issued (h : Hart) : (h.clearTaint).issued = h.issued := rfl
@[simp] theorem clearTaint_hart_seen (h : Hart) : (h.clearTaint).seen = h.seen := rfl
@[simp] theorem clearTaint_hart_chain (h : Hart) : (h.clearTaint).chain = h.chain := rfl
@[simp] theorem clearTaint_hart_copySeq (h : Hart) : (h.clearTaint).copySeq = h.copySeq := rfl
@[simp] theorem clearTaint_hart_copies (h : Hart) : (h.clearTaint).copies = h.copies := rfl
@[simp] theorem clearTaint_hart_doneWords (h : Hart) : (h.clearTaint).doneWords = h.doneWords := rfl
@[simp] theorem clearTaint_hart_keptFail (h : Hart) : (h.clearTaint).keptFail = h.keptFail := rfl
@[simp] theorem clearTaint_hart_keptLast (h : Hart) : (h.clearTaint).keptLast = h.keptLast := rfl
@[simp] theorem clearTaint_hart_ended (h : Hart) : (h.clearTaint).ended = h.ended := rfl
@[simp] theorem clearTaint_hart_left (h : Hart) : (h.clearTaint).left = h.left := rfl
@[simp] theorem clearTaint_hart_window (h : Hart) : (h.clearTaint).window = h.window := rfl
@[simp] theorem clearTaint_hart_stalled (h : Hart) : (h.clearTaint).stalled = h.stalled := rfl
@[simp] theorem clearTaint_hart_run (h : Hart) : (h.clearTaint).run = h.run := rfl
@[simp] theorem clearTaint_hart_remote (h : Hart) : (h.clearTaint).remote = h.remote := rfl
@[simp] theorem clearTaint_hart_timecmp (h : Hart) : (h.clearTaint).timecmp = h.timecmp := rfl
@[simp] theorem clearTaint_hart_bellMuted (h : Hart) : (h.clearTaint).bellMuted = h.bellMuted := rfl

/-! ### Hart.setX -/

@[simp] theorem setX_hart_pc (h : Hart) (r : BitVec 5) (v : Word) (t : Taint) : (h.setX r v t).pc = h.pc := by unfold Hart.setX; split <;> rfl
@[simp] theorem setX_hart_sup (h : Hart) (r : BitVec 5) (v : Word) (t : Taint) : (h.setX r v t).sup = h.sup := by unfold Hart.setX; split <;> rfl
@[simp] theorem setX_hart_fcsr (h : Hart) (r : BitVec 5) (v : Word) (t : Taint) : (h.setX r v t).fcsr = h.fcsr := by unfold Hart.setX; split <;> rfl
@[simp] theorem setX_hart_vstart (h : Hart) (r : BitVec 5) (v : Word) (t : Taint) : (h.setX r v t).vstart = h.vstart := by unfold Hart.setX; split <;> rfl
@[simp] theorem setX_hart_vl (h : Hart) (r : BitVec 5) (v : Word) (t : Taint) : (h.setX r v t).vl = h.vl := by unfold Hart.setX; split <;> rfl
@[simp] theorem setX_hart_vtype (h : Hart) (r : BitVec 5) (v : Word) (t : Taint) : (h.setX r v t).vtype = h.vtype := by unfold Hart.setX; split <;> rfl
@[simp] theorem setX_hart_lanes (h : Hart) (r : BitVec 5) (v : Word) (t : Taint) : (h.setX r v t).lanes = h.lanes := by unfold Hart.setX; split <;> rfl
@[simp] theorem setX_hart_lgquota (h : Hart) (r : BitVec 5) (v : Word) (t : Taint) : (h.setX r v t).lgquota = h.lgquota := by unfold Hart.setX; split <;> rfl
@[simp] theorem setX_hart_vdirty (h : Hart) (r : BitVec 5) (v : Word) (t : Taint) : (h.setX r v t).vdirty = h.vdirty := by unfold Hart.setX; split <;> rfl
@[simp] theorem setX_hart_kdirty (h : Hart) (r : BitVec 5) (v : Word) (t : Taint) : (h.setX r v t).kdirty = h.kdirty := by unfold Hart.setX; split <;> rfl
@[simp] theorem setX_hart_vstate (h : Hart) (r : BitVec 5) (v : Word) (t : Taint) : (h.setX r v t).vstate = h.vstate := by unfold Hart.setX; split <;> rfl
@[simp] theorem setX_hart_attncfg (h : Hart) (r : BitVec 5) (v : Word) (t : Taint) : (h.setX r v t).attncfg = h.attncfg := by unfold Hart.setX; split <;> rfl
@[simp] theorem setX_hart_cpbar (h : Hart) (r : BitVec 5) (v : Word) (t : Taint) : (h.setX r v t).cpbar = h.cpbar := by unfold Hart.setX; split <;> rfl
@[simp] theorem setX_hart_sstatus (h : Hart) (r : BitVec 5) (v : Word) (t : Taint) : (h.setX r v t).sstatus = h.sstatus := by unfold Hart.setX; split <;> rfl
@[simp] theorem setX_hart_stvec (h : Hart) (r : BitVec 5) (v : Word) (t : Taint) : (h.setX r v t).stvec = h.stvec := by unfold Hart.setX; split <;> rfl
@[simp] theorem setX_hart_sepc (h : Hart) (r : BitVec 5) (v : Word) (t : Taint) : (h.setX r v t).sepc = h.sepc := by unfold Hart.setX; split <;> rfl
@[simp] theorem setX_hart_scause (h : Hart) (r : BitVec 5) (v : Word) (t : Taint) : (h.setX r v t).scause = h.scause := by unfold Hart.setX; split <;> rfl
@[simp] theorem setX_hart_stval (h : Hart) (r : BitVec 5) (v : Word) (t : Taint) : (h.setX r v t).stval = h.stval := by unfold Hart.setX; split <;> rfl
@[simp] theorem setX_hart_sscratch (h : Hart) (r : BitVec 5) (v : Word) (t : Taint) : (h.setX r v t).sscratch = h.sscratch := by unfold Hart.setX; split <;> rfl
@[simp] theorem setX_hart_sxlat (h : Hart) (r : BitVec 5) (v : Word) (t : Taint) : (h.setX r v t).sxlat = h.sxlat := by unfold Hart.setX; split <;> rfl
@[simp] theorem setX_hart_violog (h : Hart) (r : BitVec 5) (v : Word) (t : Taint) : (h.setX r v t).violog = h.violog := by unfold Hart.setX; split <;> rfl
@[simp] theorem setX_hart_cycleBase (h : Hart) (r : BitVec 5) (v : Word) (t : Taint) : (h.setX r v t).cycleBase = h.cycleBase := by unfold Hart.setX; split <;> rfl
@[simp] theorem setX_hart_cycleKept (h : Hart) (r : BitVec 5) (v : Word) (t : Taint) : (h.setX r v t).cycleKept = h.cycleKept := by unfold Hart.setX; split <;> rfl
@[simp] theorem setX_hart_instret (h : Hart) (r : BitVec 5) (v : Word) (t : Taint) : (h.setX r v t).instret = h.instret := by unfold Hart.setX; split <;> rfl
@[simp] theorem setX_hart_v (h : Hart) (r : BitVec 5) (v : Word) (t : Taint) : (h.setX r v t).v = h.v := by unfold Hart.setX; split <;> rfl
@[simp] theorem setX_hart_vpoison (h : Hart) (r : BitVec 5) (v : Word) (t : Taint) : (h.setX r v t).vpoison = h.vpoison := by unfold Hart.setX; split <;> rfl
@[simp] theorem setX_hart_k (h : Hart) (r : BitVec 5) (v : Word) (t : Taint) : (h.setX r v t).k = h.k := by unfold Hart.setX; split <;> rfl
@[simp] theorem setX_hart_taintV (h : Hart) (r : BitVec 5) (v : Word) (t : Taint) : (h.setX r v t).taintV = h.taintV := by unfold Hart.setX; split <;> rfl
@[simp] theorem setX_hart_taintK (h : Hart) (r : BitVec 5) (v : Word) (t : Taint) : (h.setX r v t).taintK = h.taintK := by unfold Hart.setX; split <;> rfl
@[simp] theorem setX_hart_taintVl (h : Hart) (r : BitVec 5) (v : Word) (t : Taint) : (h.setX r v t).taintVl = h.taintVl := by unfold Hart.setX; split <;> rfl
@[simp] theorem setX_hart_taintP (h : Hart) (r : BitVec 5) (v : Word) (t : Taint) : (h.setX r v t).taintP = h.taintP := by unfold Hart.setX; split <;> rfl
@[simp] theorem setX_hart_taintA (h : Hart) (r : BitVec 5) (v : Word) (t : Taint) : (h.setX r v t).taintA = h.taintA := by unfold Hart.setX; split <;> rfl
@[simp] theorem setX_hart_tags (h : Hart) (r : BitVec 5) (v : Word) (t : Taint) : (h.setX r v t).tags = h.tags := by unfold Hart.setX; split <;> rfl
@[simp] theorem setX_hart_issued (h : Hart) (r : BitVec 5) (v : Word) (t : Taint) : (h.setX r v t).issued = h.issued := by unfold Hart.setX; split <;> rfl
@[simp] theorem setX_hart_seen (h : Hart) (r : BitVec 5) (v : Word) (t : Taint) : (h.setX r v t).seen = h.seen := by unfold Hart.setX; split <;> rfl
@[simp] theorem setX_hart_chain (h : Hart) (r : BitVec 5) (v : Word) (t : Taint) : (h.setX r v t).chain = h.chain := by unfold Hart.setX; split <;> rfl
@[simp] theorem setX_hart_copySeq (h : Hart) (r : BitVec 5) (v : Word) (t : Taint) : (h.setX r v t).copySeq = h.copySeq := by unfold Hart.setX; split <;> rfl
@[simp] theorem setX_hart_copies (h : Hart) (r : BitVec 5) (v : Word) (t : Taint) : (h.setX r v t).copies = h.copies := by unfold Hart.setX; split <;> rfl
@[simp] theorem setX_hart_doneWords (h : Hart) (r : BitVec 5) (v : Word) (t : Taint) : (h.setX r v t).doneWords = h.doneWords := by unfold Hart.setX; split <;> rfl
@[simp] theorem setX_hart_keptFail (h : Hart) (r : BitVec 5) (v : Word) (t : Taint) : (h.setX r v t).keptFail = h.keptFail := by unfold Hart.setX; split <;> rfl
@[simp] theorem setX_hart_keptLast (h : Hart) (r : BitVec 5) (v : Word) (t : Taint) : (h.setX r v t).keptLast = h.keptLast := by unfold Hart.setX; split <;> rfl
@[simp] theorem setX_hart_ended (h : Hart) (r : BitVec 5) (v : Word) (t : Taint) : (h.setX r v t).ended = h.ended := by unfold Hart.setX; split <;> rfl
@[simp] theorem setX_hart_left (h : Hart) (r : BitVec 5) (v : Word) (t : Taint) : (h.setX r v t).left = h.left := by unfold Hart.setX; split <;> rfl
@[simp] theorem setX_hart_window (h : Hart) (r : BitVec 5) (v : Word) (t : Taint) : (h.setX r v t).window = h.window := by unfold Hart.setX; split <;> rfl
@[simp] theorem setX_hart_stalled (h : Hart) (r : BitVec 5) (v : Word) (t : Taint) : (h.setX r v t).stalled = h.stalled := by unfold Hart.setX; split <;> rfl
@[simp] theorem setX_hart_run (h : Hart) (r : BitVec 5) (v : Word) (t : Taint) : (h.setX r v t).run = h.run := by unfold Hart.setX; split <;> rfl
@[simp] theorem setX_hart_remote (h : Hart) (r : BitVec 5) (v : Word) (t : Taint) : (h.setX r v t).remote = h.remote := by unfold Hart.setX; split <;> rfl
@[simp] theorem setX_hart_timecmp (h : Hart) (r : BitVec 5) (v : Word) (t : Taint) : (h.setX r v t).timecmp = h.timecmp := by unfold Hart.setX; split <;> rfl
@[simp] theorem setX_hart_bellMuted (h : Hart) (r : BitVec 5) (v : Word) (t : Taint) : (h.setX r v t).bellMuted = h.bellMuted := by unfold Hart.setX; split <;> rfl

/-- A register other than x0 reads what was written to it; x0 reads 0 (R83). -/
theorem setX_xr_same (h : Hart) (r : BitVec 5) (v : Word) (t : Taint) : (h.setX r v t).xr r = if r = 0 then 0 else v := by
  unfold Hart.setX Hart.xr; split <;> simp [*]
theorem setX_xr_ne (h : Hart) (r q : BitVec 5) (v : Word) (t : Taint) (n : q ≠ r) : (h.setX r v t).xr q = h.xr q := by
  have hn : r.toNat ≠ q.toNat := fun e => n (BitVec.eq_of_toNat_eq e.symm)
  unfold Hart.setX Hart.xr
  split
  · rfl
  · split
    · rfl
    · exact Vector.getElem_set_ne r.isLt q.isLt hn
@[simp] theorem setX_zero (h : Hart) (v : Word) (t : Taint) : h.setX 0 v t = h := by simp [Hart.setX]
@[simp] theorem retire_hart_pc (h : Hart) (len : Nat) : (h.retire len).pc = h.pc + BitVec.ofNat 64 len := rfl
@[simp] theorem retire_hart_instret (h : Hart) (len : Nat) : (h.retire len).instret = h.instret + 1 := rfl
@[simp] theorem retire_hart_window (h : Hart) (len : Nat) : (h.retire len).window = false := rfl

end Sys2Proof.Machine
end

