-- ==== Sys2Proof/Laws/Memory.lean ====
section
/-! SUPPORT. Memory: what each operation leaves in it and in its canonical form, what is read back after a write, and what no
translation, count or line's effect changes. -/

namespace Sys2Proof.Machine

/-! ### What does not touch memory -/

theorem foldl_keeps {σ α β : Type} (g : σ → β) (f : σ → α → σ) (h : ∀ s a, g (f s a) = g s) (l : List α) (s : σ) : g (l.foldl f s) = g s := by
  induction l generalizing s with
  | nil => rfl
  | cons a r ih => rw [List.foldl_cons, ih, h]

@[simp] theorem bumpVersion_mem (s : State) (l : Nat) : (s.bumpVersion l).mem = s.mem := by
  unfold State.bumpVersion; dsimp only; repeat' split
  all_goals rfl
@[simp] theorem bumpVersion_image (s : State) (l : Nat) : (s.bumpVersion l).image = s.image := by
  unfold State.bumpVersion; dsimp only; repeat' split
  all_goals rfl
@[simp] theorem lineWritten_mem (s : State) (pa n l : Nat) : (s.lineWritten pa n l).mem = s.mem := by
  unfold State.lineWritten; dsimp only; split
  all_goals simp
@[simp] theorem lineWritten_image (s : State) (pa n l : Nat) : (s.lineWritten pa n l).image = s.image := by
  unfold State.lineWritten; dsimp only; split
  all_goals simp
@[simp] theorem performTags_mem (s : State) (h : Nat) (p : Tag → Bool) : (s.performTags h p).mem = s.mem := by
  unfold State.performTags; dsimp only; split <;> rfl
@[simp] theorem performTags_image (s : State) (h : Nat) (p : Tag → Bool) : (s.performTags h p).image = s.image := by
  unfold State.performTags; dsimp only; split <;> rfl
@[simp] theorem withdrawLease_mem (s : State) (n : Nat) : (s.withdrawLease n).mem = s.mem := by
  unfold State.withdrawLease; split <;> rfl
@[simp] theorem withdrawLease_image (s : State) (n : Nat) : (s.withdrawLease n).image = s.image := by
  unfold State.withdrawLease; split <;> rfl
@[simp] theorem withdrawPage_mem (s : State) (n : Nat) : (s.withdrawPage n).mem = s.mem := rfl
@[simp] theorem withdrawPage_image (s : State) (n : Nat) : (s.withdrawPage n).image = s.image := rfl
@[simp] theorem takeTrap_mem (s : State) (c : Nat) (i : Bool) (v : Nat) (p : Bool) : (s.takeTrap c i v p).mem = s.mem := by
  unfold State.takeTrap; dsimp only; repeat' split
  all_goals simp [State.mapMe, State.count]
@[simp] theorem takeTrap_image (s : State) (c : Nat) (i : Bool) (v : Nat) (p : Bool) : (s.takeTrap c i v p).image = s.image := by
  unfold State.takeTrap; dsimp only; repeat' split
  all_goals simp [State.mapMe, State.count]

/-- A leaf found or walked to fills the TLBs and the walk cache, and leaves memory (R340). -/
theorem leafFor_mem (s : State) (rq : Req) (va : Nat) : (s.leafFor rq va).1.mem = s.mem ∧ (s.leafFor rq va).1.image = s.image ∧ (s.leafFor rq va).1.cur = s.cur ∧
    (s.leafFor rq va).1.harts = s.harts ∧ (s.leafFor rq va).1.crews = s.crews ∧ (s.leafFor rq va).1.writes = s.writes := by
  unfold State.leafFor; dsimp only; repeat' split
  all_goals exact ⟨rfl, rfl, rfl, rfl, rfl, rfl⟩
theorem locate_keeps (s : State) (rq : Req) (va : Nat) (acc : Acc) :
    (s.locate rq va acc).1.mem = s.mem ∧ (s.locate rq va acc).1.image = s.image ∧ (s.locate rq va acc).1.cur = s.cur ∧
    (s.locate rq va acc).1.harts = s.harts ∧ (s.locate rq va acc).1.crews = s.crews ∧ (s.locate rq va acc).1.writes = s.writes := by
  have h := leafFor_mem s rq va
  unfold State.locate
  repeat' split
  all_goals first | exact ⟨rfl, rfl, rfl, rfl, rfl, rfl⟩ | (rename_i e; rw [e] at h; exact h) | (rename_i e _; rw [e] at h; exact h)
@[simp] theorem locate_mem (s : State) (rq : Req) (va : Nat) (acc : Acc) : (s.locate rq va acc).1.mem = s.mem := (locate_keeps s rq va acc).1
@[simp] theorem locate_image (s : State) (rq : Req) (va : Nat) (acc : Acc) : (s.locate rq va acc).1.image = s.image := (locate_keeps s rq va acc).2.1

/-- A hart's read leaves memory where no log takes an event. -/
theorem locate_memOk {s : State} (rq : Req) (va : Nat) (acc : Acc) (h : s.memOk) : (s.locate rq va acc).1.memOk := by
  simpa [State.memOk] using h

/-! ### Writes at a home -/

@[simp] theorem homeWrite_mem (s : State) (pa : Nat) (b : List Byte) : (s.homeWrite pa b).mem = SMap.setRange 0 s.mem pa b := by
  simp only [State.homeWrite]
  rw [foldl_keeps (fun x : State => x.mem) _ (fun x l => lineWritten_mem x pa b.length l)]
@[simp] theorem homeWrite_image (s : State) (pa : Nat) (b : List Byte) : (s.homeWrite pa b).image = s.image := by
  simp only [State.homeWrite]
  rw [foldl_keeps (fun x : State => x.image) _ (fun x l => lineWritten_image x pa b.length l)]
@[simp] theorem writeBytes_mem (s : State) (who : Writer) (pa : Nat) (b : List Byte) (sc : Nat) :
    (s.writeBytes who pa b sc).mem = SMap.setRange 0 s.mem pa b := by
  simp only [State.writeBytes]
  rw [foldl_keeps (fun x : State => x.mem) _ (fun x l => lineWritten_mem x pa b.length l)]
@[simp] theorem writeBytes_image (s : State) (who : Writer) (pa : Nat) (b : List Byte) (sc : Nat) : (s.writeBytes who pa b sc).image = s.image := by
  simp only [State.writeBytes]
  rw [foldl_keeps (fun x : State => x.image) _ (fun x l => lineWritten_image x pa b.length l)]

theorem memOk_of_mem {s t : State} (h : s.memOk) (m : t.mem = s.mem) (i : t.image = s.image) : t.memOk := by
  simpa [State.memOk, m, i] using h
theorem memOk_setRange {s t : State} {pa : Nat} {b : List Byte} (h : s.memOk) (m : t.mem = SMap.setRange 0 s.mem pa b) (i : t.image = s.image) :
    t.memOk :=
  ⟨by rw [Memory.wf, m]; exact SMap.wf_setRange b pa h.1, by rw [i]; exact h.2⟩
theorem memOk_filter {s t : State} {p : Nat × Byte → Bool} (h : s.memOk) (m : t.mem = s.mem.filter p) (i : t.image = s.image) : t.memOk :=
  ⟨by rw [Memory.wf, m]; exact SMap.wf_filter p h.1, by rw [i]; exact h.2⟩

theorem homeWrite_memOk {s : State} (pa : Nat) (b : List Byte) (h : s.memOk) : (s.homeWrite pa b).memOk :=
  memOk_setRange h (homeWrite_mem s pa b) (homeWrite_image s pa b)
theorem homePut_memOk {s : State} (pa n v : Nat) (h : s.memOk) : (s.homePut pa n v).memOk := homeWrite_memOk pa _ h
theorem writeBytes_memOk {s : State} (who : Writer) (pa : Nat) (b : List Byte) (sc : Nat) (h : s.memOk) : (s.writeBytes who pa b sc).memOk :=
  memOk_setRange h (writeBytes_mem s who pa b sc) (writeBytes_image s who pa b sc)
theorem ctxPut_memOk {s : State} (c hi lo v : Nat) (h : s.memOk) : (s.ctxPut c hi lo v).memOk := homePut_memOk _ _ _ h

/-- The bytes written read back at the home, and every other byte reads as before. -/
theorem homeByte_of_setRange {s t : State} {pa : Nat} {b : List Byte} (h : s.memOk) (m : t.mem = SMap.setRange 0 s.mem pa b) :
    (∀ a, a < pa ∨ pa + b.length ≤ a → t.homeByte a = s.homeByte a) ∧
    ∀ j (hj : j < b.length), t.homeByte (pa + j) = b[j] := by
  refine ⟨fun a ha => ?_, fun j hj => ?_⟩
  · rw [State.homeByte, m]; exact SMap.get_setRange_out b pa a h.1 ha
  · have hj' : pa + j - pa < b.length := by omega
    rw [State.homeByte, m, SMap.get_setRange_in b pa (pa + j) h.1 (by omega) hj']
    congr 1; omega
theorem homeByte_writeBytes {s : State} (who : Writer) (pa : Nat) (b : List Byte) (sc : Nat) (h : s.memOk) :
    (∀ a, a < pa ∨ pa + b.length ≤ a → (s.writeBytes who pa b sc).homeByte a = s.homeByte a) ∧
    ∀ j (hj : j < b.length), (s.writeBytes who pa b sc).homeByte (pa + j) = b[j] :=
  homeByte_of_setRange h (writeBytes_mem s who pa b sc)

@[simp] theorem leBytesOf_length (n v : Nat) : (leBytesOf n v).length = n := by
  induction n generalizing v with
  | zero => rfl
  | succ n ih => simp [leBytesOf, ih]
theorem leValue_leBytesOf (n v : Nat) : leValue (leBytesOf n v) = v % 2 ^ (8 * n) := by
  induction n generalizing v with
  | zero => simp [leBytesOf, leValue, Nat.mod_one]
  | succ n ih =>
    simp only [leBytesOf, leValue, ih, BitVec.toNat_ofNat]
    rw [show 8 * (n + 1) = 8 + 8 * n by omega, Nat.pow_add, Nat.mod_mul]
/-- A number written at a home reads back, cut to its bytes. -/
theorem homeNat_of_setRange {s t : State} {pa : Nat} {b : List Byte} (h : s.memOk) (m : t.mem = SMap.setRange 0 s.mem pa b) :
    t.homeNat pa b.length = leValue b := by
  rw [State.homeNat]; congr 1
  apply List.ext_getElem
  · simp [State.homeBytes]
  · intro j h1 h2
    simp only [State.homeBytes, List.getElem_map, List.getElem_range]
    exact (homeByte_of_setRange h m).2 j h2
theorem homeNat_homePut {s : State} (pa n v : Nat) (h : s.memOk) : (s.homePut pa n v).homeNat pa n = v % 2 ^ (8 * n) := by
  have := homeNat_of_setRange (t := s.homePut pa n v) (b := leBytesOf n v) h (homeWrite_mem s pa _)
  simpa [leValue_leBytesOf] using this

/-! ### The logs -/

theorem logError_memOk {s : State} (k u l c a : Nat) (h : s.memOk) : (s.logError k u l c a).memOk := by
  have h1 : (if k = 15 then s.count (worldItem (s.ctxWorld c) 4) 1 else s).memOk := by split <;> exact h
  unfold State.logError
  dsimp only
  repeat' split
  all_goals repeat' apply homePut_memOk
  all_goals exact h
theorem wantService_memOk {s : State} (u l a : Nat) (h : s.memOk) : (s.wantService u l a).memOk :=
  logError_memOk 14 u l 0 a (s := { s with needService := true }) h
theorem frameMajor_memOk {s : State} (x : SMap Nat) (h : s.memOk) : { s with frameMajor := x }.memOk := h
theorem noteSpent_memOk {s : State} (w pa n : Nat) (h : s.memOk) : (s.noteSpent w pa n).memOk := by
  unfold State.noteSpent
  split
  · exact h
  · split
    · exact h
    · exact wantService_memOk _ _ _ (frameMajor_memOk _ h)
/-- A write that the home does not refuse leaves no frame to note. -/
theorem noteSpent_of_ok {s : State} {w pa n : Nat} (h : s.writeRefused w pa n = false) : s.noteSpent w pa n = s := by
  have h : ∀ l ∈ linesOf pa n, s.majorSpent (l * 64) = false := by
    simpa [State.spentIn] using (Bool.or_eq_false_iff.mp h).2
  unfold State.noteSpent
  split
  · rfl
  · split
    · rfl
    · rename_i l e
      have := h l (List.mem_of_find?_eq_some e)
      simpa [this] using List.find?_some e
theorem hwPlace_memOk {s : State} (rq : Req) (va n : Nat) (h : s.memOk) : (s.hwPlace rq va n).1.memOk := by
  have k := locate_memOk rq va .write h
  unfold State.hwPlace
  split
  · rename_i e; rw [e] at k
    split
    · exact noteSpent_memOk _ _ _ k
    · exact k
  · rename_i e; rw [e] at k; exact k
theorem logViolation_memOk {s : State} (e : VEvent) (h : s.memOk) : (s.logViolation e).memOk := by
  unfold State.logViolation
  dsimp only
  split
  · exact logError_memOk _ _ _ _ _ h
  · have k := hwPlace_memOk (s.logReq e.ctx) (s.ctxLog e.ctx) 64 h
    split
    · rename_i e1; rw [e1] at k; exact logError_memOk _ _ _ _ _ k
    · rename_i s1 hp e1; rw [e1] at k
      split
      · exact homePut_memOk _ _ _ k
      · have k2 := hwPlace_memOk (s1.logReq e.ctx) (s.ctxLog e.ctx + 64 + 32 * (s1.homeNat hp 8 % 2 ^ bits (s1.homeNat (hp + 16) 8) 3 0)) 32 k
        split
        · rename_i e2; rw [e2] at k2; exact logError_memOk _ _ _ _ _ k2
        · rename_i e2; rw [e2] at k2; exact writeBytes_memOk _ _ _ _ (writeBytes_memOk _ _ _ _ k2)

/-! ### Stores -/

theorem recFrames_memOk (rq : Req) (die n va : Nat) (acc : List Nat) {s : State} (h : s.memOk) : (s.recFrames rq die n va acc).1.memOk := by
  induction n generalizing s va acc with
  | zero => exact h
  | succ n ih =>
    have k := locate_memOk rq va .read h
    unfold State.recFrames
    split
    · rename_i s1 pa e1; rw [e1] at k
      have k2 := locate_memOk rq va .write k
      split
      · rename_i e2; rw [e2] at k2
        split
        · exact ih _ _ k2
        · exact k2
      · rename_i e2; rw [e2] at k2; exact k2
    · rename_i e1; rw [e1] at k; exact k
theorem validatePool_memOk {s : State} (pa : Nat) (h : s.memOk) : (s.validatePool pa).memOk := by
  unfold State.validatePool
  dsimp only
  split
  · exact h
  · split
    · exact homePut_memOk _ _ _ h
    · split <;> (rename_i e; have k := (congrArg (fun x => x.1.memOk) e).mp (recFrames_memOk _ _ _ _ _ h))
      · exact homePut_memOk _ _ _ k
      · exact k
theorem poolHook_memOk {s : State} (pa n : Nat) (h : s.memOk) : (s.poolHook pa n).memOk := by
  have hd : s.draw.2.memOk := h
  unfold State.poolHook
  dsimp only
  repeat' split
  all_goals first | exact validatePool_memOk _ h | exact validatePool_memOk _ hd | exact h
theorem ctxWordStore_memOk {s t : State} (c w lo n v : Nat) (h : s.memOk) (e : s.ctxWordStore c w lo n v = some t) : t.memOk := by
  unfold State.ctxWordStore at e
  dsimp only at e
  split at e
  · cases e
  · split at e <;> cases e <;> exact homePut_memOk _ _ _ h
theorem ctxTabStore_memOk (k : Nat) {s t : State} (pa : Nat) (b : List Byte) (h : s.memOk) (e : State.ctxTabStore k s pa b = some t) : t.memOk := by
  induction k generalizing s pa b with
  | zero => cases e; exact h
  | succ k ih =>
    unfold State.ctxTabStore at e
    dsimp only at e
    split at e
    · cases e; exact h
    · split at e
      · cases e
      · rename_i e1; exact ih _ _ (ctxWordStore_memOk _ _ _ _ _ h e1) e
/-- A store that a home takes keeps the canonical form, whatever it stores to (R332, R271, R349). -/
theorem storeAt_memOk {s t : State} (world : Nat) (who : Writer) (pa : Nat) (b : List Byte) (sc : Nat) (h : s.memOk)
    (e : s.storeAt world who pa b sc = some t) : t.memOk := by
  unfold State.storeAt at e
  dsimp only at e
  split at e
  · cases e
  · split at e
    · exact ctxTabStore_memOk _ _ _ h e
    · split at e
      · cases e
      · cases e
        exact poolHook_memOk _ _ (writeBytes_memOk _ _ _ _ h)

/-- A home's own write is made, but where its frame takes no further write: then the frame is noted. -/
theorem homeTake_of_ok {s : State} {pa n : Nat} (v : Nat) (h : s.spentIn pa n = false) : s.homeTake pa n v = s.homePut pa n v := by
  simp [State.homeTake, h]
theorem homeTake_of_spent {s : State} {pa n : Nat} (v : Nat) (h : s.spentIn pa n = true) : s.homeTake pa n v = s.noteSpent (s.tagOf pa) pa n := by
  simp [State.homeTake, h]
theorem homeTake_memOk {s : State} (pa n v : Nat) (h : s.memOk) : (s.homeTake pa n v).memOk := by
  cases e : s.spentIn pa n
  · rw [homeTake_of_ok v e]; exact homePut_memOk pa n v h
  · rw [homeTake_of_spent v e]; exact noteSpent_memOk _ pa n h

/-! ### The checkpoint image -/

/-- Ranges copied one after the other keep the canonical form. -/
theorem splices_wf {β : Type} (lo hi src n dst : β → Nat) (from' : SMap Byte) (w : SMap.wf 0 from' = true) (l : List β) (m : SMap Byte)
    (h : SMap.wf 0 m = true) : SMap.wf 0 (l.foldl (fun m e => SMap.splice (lo e) (hi e) m (SMap.move (src e) (n e) (dst e) from')) m) = true := by
  induction l generalizing m with
  | nil => exact h
  | cons e r ih => exact ih _ (SMap.wf_splice _ _ h (SMap.wf_move _ _ _ w))
theorem sections_wf {β : Type} (at' : β → Nat) (b : β → List Byte) (l : List β) (m : SMap Byte) (h : SMap.wf 0 m = true) :
    SMap.wf 0 (l.foldl (fun m e => SMap.setRange 0 m (at' e) (b e)) m) = true := by
  induction l generalizing m with
  | nil => exact h
  | cons e r ih => exact ih _ (SMap.wf_setRange _ _ h)
theorem imageMem_wf {s : State} (h : s.memOk) : Memory.wf s.imageMem = true := by
  unfold State.imageMem Memory.wf
  dsimp only
  generalize imageParts = parts, s.imageSections = l, Config.ckptBase = base
  exact sections_wf (fun e => base + e.1) (fun e => e.2) l _
    (splices_wf (fun e => base + e.2.2) (fun e => base + e.2.2 + e.2.1) (fun e => e.1) (fun e => e.2.1) (fun e => base + e.2.2)
      s.mem h.1 parts _ (SMap.wf_splice (part := []) _ _ h.1 (by rfl)))
theorem imageBack_wf {m : SMap Byte} (h : SMap.wf 0 m = true) : SMap.wf 0 (imageBack m) = true := by
  unfold imageBack
  dsimp only
  generalize imageParts = parts, Config.ckptBase = base
  exact SMap.wf_setRange _ _ (splices_wf (fun e => e.1) (fun e => e.1 + e.2.1) (fun e => base + e.2.2) (fun e => e.2.1) (fun e => e.1) m h parts _ h)

/-! ### Ranges zeroed -/

theorem assignScratch_memOk {s : State} (c : Nat) (l : Launch) (h : s.memOk) : (s.assignScratch c l).memOk := by
  unfold State.assignScratch
  dsimp only
  split
  · exact h
  · exact memOk_filter h rfl rfl
theorem retagFrame_memOk {s : State} (pa w : Nat) (h : s.memOk) : (s.retagFrame pa w).memOk := by
  unfold State.retagFrame
  dsimp only
  refine memOk_filter (p := fun e => !(decide (pa ≤ e.1) && decide (e.1 < pa + 0x1_0000))) h ?_ ?_
  · rw [foldl_keeps (fun x : State => x.mem) _ (fun x l => lineWritten_mem x pa 0x1_0000 l)]
  · rw [foldl_keeps (fun x : State => x.image) _ (fun x l => lineWritten_image x pa 0x1_0000 l)]

/-- Memory at reset is in its canonical form. -/
theorem reset_memOk : State.reset.memOk := ⟨rfl, fun m h => by cases h⟩

end Sys2Proof.Machine
end

