-- ==== Sys2Proof/Laws/Ops.lean ====
section
/-! SUPPORT. The shared operations: what each does to the state, once, for the meanings that call it. -/

namespace Sys2Proof.Machine

/-! ### Computations -/

@[simp] theorem bind_run {α β : Type} (m : M α) (f : α → M β) (s : State) :
    (m >>= f) s = (match m s with | .ok a t => f a t | .error e t => .error e t) := by
  cases h : m s <;> simp [bind, EStateM.bind, h]
@[simp] theorem pure_run {α : Type} (a : α) (s : State) : (pure a : M α) s = .ok a s := rfl
@[simp] theorem getHart_run (s : State) : getHart s = .ok s.me s := rfl
@[simp] theorem modHart_run (f : Hart → Hart) (s : State) : modHart f s = .ok () (s.mapMe f) := rfl
@[simp] theorem modState_run (f : State → State) (s : State) : modState f s = .ok () (f s) := rfl
@[simp] theorem liftOp_run {α : Type} (f : State → State × α) (s : State) : liftOp f s = .ok (f s).2 (f s).1 := rfl
@[simp] theorem getCrew_run (s : State) : getCrew s = .ok (s.crewAt (crewOf s.cur)) s := rfl
@[simp] theorem modCrew_run (f : Crew → Crew) (s : State) : modCrew f s = .ok () (s.mapCrew (crewOf s.cur) f) := rfl
@[simp] theorem isAccess_run (s : State) : isAccess s = .ok (s.cur.val % 2 == 0) s := rfl
@[simp] theorem trap_run {α : Type} (c v : Nat) (s : State) : (trap c v : M α) s = .error (.trap c false v false) s := rfl
@[simp] theorem trapReg_run {α : Type} (c v : Nat) (s : State) : (trapReg c v : M α) s = .error (.trap c false v true) s := rfl
@[simp] theorem stall_run {α : Type} (w : StallWhy) (s : State) : (stall w : M α) s = .error (.stall w) s := rfl
@[simp] theorem illegal_run {α : Type} (s : State) : (illegal : M α) s = .error (.trap 4 false s.ir.toNat false) s := rfl
@[simp] theorem readX_run (r : BitVec 5) (s : State) : readX r s = .ok (s.me.xr r) s := rfl
@[simp] theorem taintX_run (r : BitVec 5) (s : State) : taintX r s = .ok (s.me.xt r) s := rfl
@[simp] theorem writeX_run (r : BitVec 5) (v : Word) (t : Taint) (s : State) : writeX r v t s = .ok () (s.mapMe fun h => h.setX r v t) := rfl
@[simp] theorem joinX_run (rs : List (BitVec 5)) (own : List Nat) (s : State) :
    joinX rs own s = .ok (unionTaint s.me.issued own (rs.map s.me.xt)) s := rfl
@[simp] theorem retire_run (len : Nat) (s : State) : retire len s = .ok () (s.mapMe fun h => h.retire len) := rfl
@[simp] theorem waitTaint_run (ts : List Taint) (s : State) : waitTaint ts s = .ok () (s.performTags s.cur fun t => ts.any (·.names t)) := rfl

/-- An execute-only, access-only or supervisor-only instruction goes on, or is illegal (R104, R138). -/
theorem needExecute_run (s : State) : needExecute s = if s.cur.val % 2 = 1 then .ok () s else .error (.trap 4 false s.ir.toNat false) s := by
  rcases Nat.mod_two_eq_zero_or_one s.cur.val with h | h <;> simp [needExecute, h]
theorem needAccess_run (s : State) : needAccess s = if s.cur.val % 2 = 0 then .ok () s else .error (.trap 4 false s.ir.toNat false) s := by
  rcases Nat.mod_two_eq_zero_or_one s.cur.val with h | h <;> simp [needAccess, h]
theorem needSup_run (s : State) : needSup s = if s.me.sup = true then .ok () s else .error (.trap 4 false s.ir.toNat false) s := by
  cases h : s.me.sup <;> simp [needSup, h]

/-! ### Outcomes -/

theorem settle_ok {m : M Unit} {s t : State} (h : m s = .ok () t) : settle m s = .next t := by simp [settle, h]
theorem settle_trap {m : M Unit} {s t : State} {c v : Nat} {i p : Bool} (h : m s = .error (.trap c i v p) t) :
    settle m s = .next (t.takeTrap c i v p) := by simp [settle, h]
theorem settle_stall {m : M Unit} {s t : State} {w : StallWhy} (h : m s = .error (.stall w) t) : settle m s = .next (t.takeStall w) := by
  simp [settle, h]
/-- A computation settles in one of three ways, and always in a next state. -/
theorem settle_cases {m : M Unit} {s t : State} (h : settle m s = .next t) :
    m s = .ok () t ∨ (∃ c i v p u, m s = .error (.trap c i v p) u ∧ t = u.takeTrap c i v p) ∨
    ∃ w u, m s = .error (.stall w) u ∧ t = u.takeStall w := by
  unfold settle at h
  split at h
  · rename_i e; cases h; exact .inl e
  · rename_i c i v p u e; cases h; exact .inr (.inl ⟨c, i, v, p, u, e, rfl⟩)
  · rename_i w u e; cases h; exact .inr (.inr ⟨w, u, e, rfl⟩)
theorem settle_next (m : M Unit) (s : State) : ∃ t, settle m s = .next t := by
  unfold settle; split <;> exact ⟨_, rfl⟩

/-! ### Tags and taint -/

@[simp] theorem retireTags_hart_x (h : Hart) (p : Tag → Bool) : (h.retireTags p).x = h.x := by unfold Hart.retireTags; dsimp only; split <;> rfl
@[simp] theorem retireTags_hart_pc (h : Hart) (p : Tag → Bool) : (h.retireTags p).pc = h.pc := by unfold Hart.retireTags; dsimp only; split <;> rfl
@[simp] theorem retireTags_hart_sup (h : Hart) (p : Tag → Bool) : (h.retireTags p).sup = h.sup := by unfold Hart.retireTags; dsimp only; split <;> rfl
@[simp] theorem retireTags_hart_fcsr (h : Hart) (p : Tag → Bool) : (h.retireTags p).fcsr = h.fcsr := by unfold Hart.retireTags; dsimp only; split <;> rfl
@[simp] theorem retireTags_hart_vstart (h : Hart) (p : Tag → Bool) : (h.retireTags p).vstart = h.vstart := by unfold Hart.retireTags; dsimp only; split <;> rfl
@[simp] theorem retireTags_hart_vl (h : Hart) (p : Tag → Bool) : (h.retireTags p).vl = h.vl := by unfold Hart.retireTags; dsimp only; split <;> rfl
@[simp] theorem retireTags_hart_vtype (h : Hart) (p : Tag → Bool) : (h.retireTags p).vtype = h.vtype := by unfold Hart.retireTags; dsimp only; split <;> rfl
@[simp] theorem retireTags_hart_lanes (h : Hart) (p : Tag → Bool) : (h.retireTags p).lanes = h.lanes := by unfold Hart.retireTags; dsimp only; split <;> rfl
@[simp] theorem retireTags_hart_lgquota (h : Hart) (p : Tag → Bool) : (h.retireTags p).lgquota = h.lgquota := by unfold Hart.retireTags; dsimp only; split <;> rfl
@[simp] theorem retireTags_hart_vdirty (h : Hart) (p : Tag → Bool) : (h.retireTags p).vdirty = h.vdirty := by unfold Hart.retireTags; dsimp only; split <;> rfl
@[simp] theorem retireTags_hart_kdirty (h : Hart) (p : Tag → Bool) : (h.retireTags p).kdirty = h.kdirty := by unfold Hart.retireTags; dsimp only; split <;> rfl
@[simp] theorem retireTags_hart_vstate (h : Hart) (p : Tag → Bool) : (h.retireTags p).vstate = h.vstate := by unfold Hart.retireTags; dsimp only; split <;> rfl
@[simp] theorem retireTags_hart_attncfg (h : Hart) (p : Tag → Bool) : (h.retireTags p).attncfg = h.attncfg := by unfold Hart.retireTags; dsimp only; split <;> rfl
@[simp] theorem retireTags_hart_cpbar (h : Hart) (p : Tag → Bool) : (h.retireTags p).cpbar = h.cpbar := by unfold Hart.retireTags; dsimp only; split <;> rfl
@[simp] theorem retireTags_hart_sstatus (h : Hart) (p : Tag → Bool) : (h.retireTags p).sstatus = h.sstatus := by unfold Hart.retireTags; dsimp only; split <;> rfl
@[simp] theorem retireTags_hart_stvec (h : Hart) (p : Tag → Bool) : (h.retireTags p).stvec = h.stvec := by unfold Hart.retireTags; dsimp only; split <;> rfl
@[simp] theorem retireTags_hart_sepc (h : Hart) (p : Tag → Bool) : (h.retireTags p).sepc = h.sepc := by unfold Hart.retireTags; dsimp only; split <;> rfl
@[simp] theorem retireTags_hart_scause (h : Hart) (p : Tag → Bool) : (h.retireTags p).scause = h.scause := by unfold Hart.retireTags; dsimp only; split <;> rfl
@[simp] theorem retireTags_hart_stval (h : Hart) (p : Tag → Bool) : (h.retireTags p).stval = h.stval := by unfold Hart.retireTags; dsimp only; split <;> rfl
@[simp] theorem retireTags_hart_sscratch (h : Hart) (p : Tag → Bool) : (h.retireTags p).sscratch = h.sscratch := by unfold Hart.retireTags; dsimp only; split <;> rfl
@[simp] theorem retireTags_hart_sxlat (h : Hart) (p : Tag → Bool) : (h.retireTags p).sxlat = h.sxlat := by unfold Hart.retireTags; dsimp only; split <;> rfl
@[simp] theorem retireTags_hart_violog (h : Hart) (p : Tag → Bool) : (h.retireTags p).violog = h.violog := by unfold Hart.retireTags; dsimp only; split <;> rfl
@[simp] theorem retireTags_hart_cycleBase (h : Hart) (p : Tag → Bool) : (h.retireTags p).cycleBase = h.cycleBase := by unfold Hart.retireTags; dsimp only; split <;> rfl
@[simp] theorem retireTags_hart_cycleKept (h : Hart) (p : Tag → Bool) : (h.retireTags p).cycleKept = h.cycleKept := by unfold Hart.retireTags; dsimp only; split <;> rfl
@[simp] theorem retireTags_hart_instret (h : Hart) (p : Tag → Bool) : (h.retireTags p).instret = h.instret := by unfold Hart.retireTags; dsimp only; split <;> rfl
@[simp] theorem retireTags_hart_v (h : Hart) (p : Tag → Bool) : (h.retireTags p).v = h.v := by unfold Hart.retireTags; dsimp only; split <;> rfl
@[simp] theorem retireTags_hart_vpoison (h : Hart) (p : Tag → Bool) : (h.retireTags p).vpoison = h.vpoison := by unfold Hart.retireTags; dsimp only; split <;> rfl
@[simp] theorem retireTags_hart_k (h : Hart) (p : Tag → Bool) : (h.retireTags p).k = h.k := by unfold Hart.retireTags; dsimp only; split <;> rfl
@[simp] theorem retireTags_hart_issued (h : Hart) (p : Tag → Bool) : (h.retireTags p).issued = h.issued := by unfold Hart.retireTags; dsimp only; split <;> rfl
@[simp] theorem retireTags_hart_seen (h : Hart) (p : Tag → Bool) : (h.retireTags p).seen = h.seen := by unfold Hart.retireTags; dsimp only; split <;> rfl
@[simp] theorem retireTags_hart_chain (h : Hart) (p : Tag → Bool) : (h.retireTags p).chain = h.chain := by unfold Hart.retireTags; dsimp only; split <;> rfl
@[simp] theorem retireTags_hart_copySeq (h : Hart) (p : Tag → Bool) : (h.retireTags p).copySeq = h.copySeq := by unfold Hart.retireTags; dsimp only; split <;> rfl
@[simp] theorem retireTags_hart_copies (h : Hart) (p : Tag → Bool) : (h.retireTags p).copies = h.copies := by unfold Hart.retireTags; dsimp only; split <;> rfl
@[simp] theorem retireTags_hart_doneWords (h : Hart) (p : Tag → Bool) : (h.retireTags p).doneWords = h.doneWords := by unfold Hart.retireTags; dsimp only; split <;> rfl
@[simp] theorem retireTags_hart_keptFail (h : Hart) (p : Tag → Bool) : (h.retireTags p).keptFail = h.keptFail := by unfold Hart.retireTags; dsimp only; split <;> rfl
@[simp] theorem retireTags_hart_keptLast (h : Hart) (p : Tag → Bool) : (h.retireTags p).keptLast = h.keptLast := by unfold Hart.retireTags; dsimp only; split <;> rfl
@[simp] theorem retireTags_hart_ended (h : Hart) (p : Tag → Bool) : (h.retireTags p).ended = h.ended := by unfold Hart.retireTags; dsimp only; split <;> rfl
@[simp] theorem retireTags_hart_left (h : Hart) (p : Tag → Bool) : (h.retireTags p).left = h.left := by unfold Hart.retireTags; dsimp only; split <;> rfl
@[simp] theorem retireTags_hart_window (h : Hart) (p : Tag → Bool) : (h.retireTags p).window = h.window := by unfold Hart.retireTags; dsimp only; split <;> rfl
@[simp] theorem retireTags_hart_stalled (h : Hart) (p : Tag → Bool) : (h.retireTags p).stalled = h.stalled := by unfold Hart.retireTags; dsimp only; split <;> rfl
@[simp] theorem retireTags_hart_run (h : Hart) (p : Tag → Bool) : (h.retireTags p).run = h.run := by unfold Hart.retireTags; dsimp only; split <;> rfl
@[simp] theorem retireTags_hart_remote (h : Hart) (p : Tag → Bool) : (h.retireTags p).remote = h.remote := by unfold Hart.retireTags; dsimp only; split <;> rfl
@[simp] theorem retireTags_hart_timecmp (h : Hart) (p : Tag → Bool) : (h.retireTags p).timecmp = h.timecmp := by unfold Hart.retireTags; dsimp only; split <;> rfl
@[simp] theorem retireTags_hart_bellMuted (h : Hart) (p : Tag → Bool) : (h.retireTags p).bellMuted = h.bellMuted := by unfold Hart.retireTags; dsimp only; split <;> rfl

@[simp] theorem retireTags_hart_tags (h : Hart) (p : Tag → Bool) : (h.retireTags p).tags = h.tags.filter fun t => !p t := by
  unfold Hart.retireTags; dsimp only; split
  · rename_i e
    have e' : h.tags.filter p = [] := by simpa using e
    rw [List.filter_eq_nil_iff] at e'
    exact (List.filter_eq_self.mpr fun t ht => by simpa using e' t ht).symm
  · rfl
/-- A register is unchanged by what retires tags. -/
@[simp] theorem retireTags_hart_xr (h : Hart) (p : Tag → Bool) (r : BitVec 5) : (h.retireTags p).xr r = h.xr r := by simp [Hart.xr]
@[simp] theorem performTags_me (s : State) (p : Tag → Bool) : (s.performTags s.cur p).me = s.me.retireTags p := by
  have hh : s.hartAt s.cur.val = s.me := (me_eq_hartAt s).symm
  unfold State.performTags; dsimp only; split
  · rename_i e
    rw [hh] at e
    unfold Hart.retireTags
    have e' : List.filter p s.me.tags = [] := by simpa using e
    simp [e']
  · simp [State.me, State.mapHart, State.enterAll]

@[simp] theorem performTags_nextWrite (s : State) (h : Nat) (p : Tag → Bool) : (s.performTags h p).nextWrite = s.nextWrite := by unfold State.performTags; dsimp only; split <;> rfl
@[simp] theorem performTags_poison (s : State) (h : Nat) (p : Tag → Bool) : (s.performTags h p).poison = s.poison := by unfold State.performTags; dsimp only; split <;> rfl
@[simp] theorem performTags_held (s : State) (h : Nat) (p : Tag → Bool) : (s.performTags h p).held = s.held := by unfold State.performTags; dsimp only; split <;> rfl
@[simp] theorem performTags_pools (s : State) (h : Nat) (p : Tag → Bool) : (s.performTags h p).pools = s.pools := by unfold State.performTags; dsimp only; split <;> rfl
@[simp] theorem performTags_pageWaits (s : State) (h : Nat) (p : Tag → Bool) : (s.performTags h p).pageWaits = s.pageWaits := by unfold State.performTags; dsimp only; split <;> rfl
@[simp] theorem performTags_indexes (s : State) (h : Nat) (p : Tag → Bool) : (s.performTags h p).indexes = s.indexes := by unfold State.performTags; dsimp only; split <;> rfl
@[simp] theorem performTags_ctxCmds (s : State) (h : Nat) (p : Tag → Bool) : (s.performTags h p).ctxCmds = s.ctxCmds := by unfold State.performTags; dsimp only; split <;> rfl
@[simp] theorem performTags_frameTag (s : State) (h : Nat) (p : Tag → Bool) : (s.performTags h p).frameTag = s.frameTag := by unfold State.performTags; dsimp only; split <;> rfl
@[simp] theorem performTags_frameMajor (s : State) (h : Nat) (p : Tag → Bool) : (s.performTags h p).frameMajor = s.frameMajor := by unfold State.performTags; dsimp only; split <;> rfl
@[simp] theorem performTags_lineVer (s : State) (h : Nat) (p : Tag → Bool) : (s.performTags h p).lineVer = s.lineVer := by unfold State.performTags; dsimp only; split <;> rfl
@[simp] theorem performTags_lineGen (s : State) (h : Nat) (p : Tag → Bool) : (s.performTags h p).lineGen = s.lineGen := by unfold State.performTags; dsimp only; split <;> rfl
@[simp] theorem performTags_groups (s : State) (h : Nat) (p : Tag → Bool) : (s.performTags h p).groups = s.groups := by unfold State.performTags; dsimp only; split <;> rfl
@[simp] theorem performTags_nextGseq (s : State) (h : Nat) (p : Tag → Bool) : (s.performTags h p).nextGseq = s.nextGseq := by unfold State.performTags; dsimp only; split <;> rfl
@[simp] theorem performTags_subs (s : State) (h : Nat) (p : Tag → Bool) : (s.performTags h p).subs = s.subs := by unfold State.performTags; dsimp only; split <;> rfl
@[simp] theorem performTags_nextSub (s : State) (h : Nat) (p : Tag → Bool) : (s.performTags h p).nextSub = s.nextSub := by unfold State.performTags; dsimp only; split <;> rfl
@[simp] theorem performTags_launches (s : State) (h : Nat) (p : Tag → Bool) : (s.performTags h p).launches = s.launches := by unfold State.performTags; dsimp only; split <;> rfl
@[simp] theorem performTags_nextLid (s : State) (h : Nat) (p : Tag → Bool) : (s.performTags h p).nextLid = s.nextLid := by unfold State.performTags; dsimp only; split <;> rfl
@[simp] theorem performTags_queues (s : State) (h : Nat) (p : Tag → Bool) : (s.performTags h p).queues = s.queues := by unfold State.performTags; dsimp only; split <;> rfl
@[simp] theorem performTags_parked (s : State) (h : Nat) (p : Tag → Bool) : (s.performTags h p).parked = s.parked := by unfold State.performTags; dsimp only; split <;> rfl
@[simp] theorem performTags_nextPid (s : State) (h : Nat) (p : Tag → Bool) : (s.performTags h p).nextPid = s.nextPid := by unfold State.performTags; dsimp only; split <;> rfl
@[simp] theorem performTags_nextBind (s : State) (h : Nat) (p : Tag → Bool) : (s.performTags h p).nextBind = s.nextBind := by unfold State.performTags; dsimp only; split <;> rfl
@[simp] theorem performTags_crews (s : State) (h : Nat) (p : Tag → Bool) : (s.performTags h p).crews = s.crews := by unfold State.performTags; dsimp only; split <;> rfl
@[simp] theorem performTags_cores (s : State) (h : Nat) (p : Tag → Bool) : (s.performTags h p).cores = s.cores := by unfold State.performTags; dsimp only; split <;> rfl
@[simp] theorem performTags_dies (s : State) (h : Nat) (p : Tag → Bool) : (s.performTags h p).dies = s.dies := by unfold State.performTags; dsimp only; split <;> rfl
@[simp] theorem performTags_worlds (s : State) (h : Nat) (p : Tag → Bool) : (s.performTags h p).worlds = s.worlds := by unfold State.performTags; dsimp only; split <;> rfl
@[simp] theorem performTags_nextKey (s : State) (h : Nat) (p : Tag → Bool) : (s.performTags h p).nextKey = s.nextKey := by unfold State.performTags; dsimp only; split <;> rfl
@[simp] theorem performTags_keyRing (s : State) (h : Nat) (p : Tag → Bool) : (s.performTags h p).keyRing = s.keyRing := by unfold State.performTags; dsimp only; split <;> rfl
@[simp] theorem performTags_parity (s : State) (h : Nat) (p : Tag → Bool) : (s.performTags h p).parity = s.parity := by unfold State.performTags; dsimp only; split <;> rfl
@[simp] theorem performTags_chFails (s : State) (h : Nat) (p : Tag → Bool) : (s.performTags h p).chFails = s.chFails := by unfold State.performTags; dsimp only; split <;> rfl
@[simp] theorem performTags_bankRows (s : State) (h : Nat) (p : Tag → Bool) : (s.performTags h p).bankRows = s.bankRows := by unfold State.performTags; dsimp only; split <;> rfl
@[simp] theorem performTags_rowFails (s : State) (h : Nat) (p : Tag → Bool) : (s.performTags h p).rowFails = s.rowFails := by unfold State.performTags; dsimp only; split <;> rfl
@[simp] theorem performTags_ckptSeq (s : State) (h : Nat) (p : Tag → Bool) : (s.performTags h p).ckptSeq = s.ckptSeq := by unfold State.performTags; dsimp only; split <;> rfl
@[simp] theorem performTags_ckptTime (s : State) (h : Nat) (p : Tag → Bool) : (s.performTags h p).ckptTime = s.ckptTime := by unfold State.performTags; dsimp only; split <;> rfl
@[simp] theorem performTags_sliceLog (s : State) (h : Nat) (p : Tag → Bool) : (s.performTags h p).sliceLog = s.sliceLog := by unfold State.performTags; dsimp only; split <;> rfl
@[simp] theorem performTags_mhz (s : State) (h : Nat) (p : Tag → Bool) : (s.performTags h p).mhz = s.mhz := by unfold State.performTags; dsimp only; split <;> rfl
@[simp] theorem performTags_clkset (s : State) (h : Nat) (p : Tag → Bool) : (s.performTags h p).clkset = s.clkset := by unfold State.performTags; dsimp only; split <;> rfl
@[simp] theorem performTags_pwrLimit (s : State) (h : Nat) (p : Tag → Bool) : (s.performTags h p).pwrLimit = s.pwrLimit := by unfold State.performTags; dsimp only; split <;> rfl
@[simp] theorem performTags_power (s : State) (h : Nat) (p : Tag → Bool) : (s.performTags h p).power = s.power := by unfold State.performTags; dsimp only; split <;> rfl
@[simp] theorem performTags_temps (s : State) (h : Nat) (p : Tag → Bool) : (s.performTags h p).temps = s.temps := by unfold State.performTags; dsimp only; split <;> rfl
@[simp] theorem performTags_overSince (s : State) (h : Nat) (p : Tag → Bool) : (s.performTags h p).overSince = s.overSince := by unfold State.performTags; dsimp only; split <;> rfl
@[simp] theorem performTags_needService (s : State) (h : Nat) (p : Tag → Bool) : (s.performTags h p).needService = s.needService := by unfold State.performTags; dsimp only; split <;> rfl
@[simp] theorem performTags_stopping (s : State) (h : Nat) (p : Tag → Bool) : (s.performTags h p).stopping = s.stopping := by unfold State.performTags; dsimp only; split <;> rfl
@[simp] theorem performTags_dying (s : State) (h : Nat) (p : Tag → Bool) : (s.performTags h p).dying = s.dying := by unfold State.performTags; dsimp only; split <;> rfl
@[simp] theorem performTags_off (s : State) (h : Nat) (p : Tag → Bool) : (s.performTags h p).off = s.off := by unfold State.performTags; dsimp only; split <;> rfl
@[simp] theorem performTags_bootFailed (s : State) (h : Nat) (p : Tag → Bool) : (s.performTags h p).bootFailed = s.bootFailed := by unfold State.performTags; dsimp only; split <;> rfl
@[simp] theorem performTags_mrBoot (s : State) (h : Nat) (p : Tag → Bool) : (s.performTags h p).mrBoot = s.mrBoot := by unfold State.performTags; dsimp only; split <;> rfl
@[simp] theorem performTags_devnum (s : State) (h : Nat) (p : Tag → Bool) : (s.performTags h p).devnum = s.devnum := by unfold State.performTags; dsimp only; split <;> rfl
@[simp] theorem performTags_requests (s : State) (h : Nat) (p : Tag → Bool) : (s.performTags h p).requests = s.requests := by unfold State.performTags; dsimp only; split <;> rfl
@[simp] theorem performTags_nextReq (s : State) (h : Nat) (p : Tag → Bool) : (s.performTags h p).nextReq = s.nextReq := by unfold State.performTags; dsimp only; split <;> rfl
@[simp] theorem performTags_ports (s : State) (h : Nat) (p : Tag → Bool) : (s.performTags h p).ports = s.ports := by unfold State.performTags; dsimp only; split <;> rfl
@[simp] theorem performTags_admission (s : State) (h : Nat) (p : Tag → Bool) : (s.performTags h p).admission = s.admission := by unfold State.performTags; dsimp only; split <;> rfl
@[simp] theorem performTags_atc (s : State) (h : Nat) (p : Tag → Bool) : (s.performTags h p).atc = s.atc := by unfold State.performTags; dsimp only; split <;> rfl
@[simp] theorem performTags_invals (s : State) (h : Nat) (p : Tag → Bool) : (s.performTags h p).invals = s.invals := by unfold State.performTags; dsimp only; split <;> rfl
@[simp] theorem performTags_nextInval (s : State) (h : Nat) (p : Tag → Bool) : (s.performTags h p).nextInval = s.nextInval := by unfold State.performTags; dsimp only; split <;> rfl
@[simp] theorem performTags_hostOut (s : State) (h : Nat) (p : Tag → Bool) : (s.performTags h p).hostOut = s.hostOut := by unfold State.performTags; dsimp only; split <;> rfl
@[simp] theorem performTags_streams (s : State) (h : Nat) (p : Tag → Bool) : (s.performTags h p).streams = s.streams := by unfold State.performTags; dsimp only; split <;> rfl
@[simp] theorem performTags_denied (s : State) (h : Nat) (p : Tag → Bool) : (s.performTags h p).denied = s.denied := by unfold State.performTags; dsimp only; split <;> rfl
@[simp] theorem performTags_apertures (s : State) (h : Nat) (p : Tag → Bool) : (s.performTags h p).apertures = s.apertures := by unfold State.performTags; dsimp only; split <;> rfl
@[simp] theorem performTags_telemetry (s : State) (h : Nat) (p : Tag → Bool) : (s.performTags h p).telemetry = s.telemetry := by unfold State.performTags; dsimp only; split <;> rfl
@[simp] theorem performTags_doorbell (s : State) (h : Nat) (p : Tag → Bool) : (s.performTags h p).doorbell = s.doorbell := by unfold State.performTags; dsimp only; split <;> rfl
@[simp] theorem performTags_bells (s : State) (h : Nat) (p : Tag → Bool) : (s.performTags h p).bells = s.bells := by unfold State.performTags; dsimp only; split <;> rfl
@[simp] theorem performTags_mbxReq (s : State) (h : Nat) (p : Tag → Bool) : (s.performTags h p).mbxReq = s.mbxReq := by unfold State.performTags; dsimp only; split <;> rfl
@[simp] theorem performTags_mbxResp (s : State) (h : Nat) (p : Tag → Bool) : (s.performTags h p).mbxResp = s.mbxResp := by unfold State.performTags; dsimp only; split <;> rfl
@[simp] theorem performTags_mbxDone (s : State) (h : Nat) (p : Tag → Bool) : (s.performTags h p).mbxDone = s.mbxDone := by unfold State.performTags; dsimp only; split <;> rfl
@[simp] theorem performTags_mbxErr (s : State) (h : Nat) (p : Tag → Bool) : (s.performTags h p).mbxErr = s.mbxErr := by unfold State.performTags; dsimp only; split <;> rfl
@[simp] theorem performTags_doe (s : State) (h : Nat) (p : Tag → Bool) : (s.performTags h p).doe = s.doe := by unfold State.performTags; dsimp only; split <;> rfl
@[simp] theorem performTags_now (s : State) (h : Nat) (p : Tag → Bool) : (s.performTags h p).now = s.now := by unfold State.performTags; dsimp only; split <;> rfl
@[simp] theorem performTags_freeCtr (s : State) (h : Nat) (p : Tag → Bool) : (s.performTags h p).freeCtr = s.freeCtr := by unfold State.performTags; dsimp only; split <;> rfl
@[simp] theorem performTags_cur (s : State) (h : Nat) (p : Tag → Bool) : (s.performTags h p).cur = s.cur := by unfold State.performTags; dsimp only; split <;> rfl
@[simp] theorem performTags_ir (s : State) (h : Nat) (p : Tag → Bool) : (s.performTags h p).ir = s.ir := by unfold State.performTags; dsimp only; split <;> rfl
@[simp] theorem performTags_agenda (s : State) (h : Nat) (p : Tag → Bool) : (s.performTags h p).agenda = s.agenda := by unfold State.performTags; dsimp only; split <;> rfl
theorem performTags_hart_ne (s : State) (p : Tag → Bool) (i : Fin 512) (h : i ≠ s.cur) : (s.performTags s.cur p).harts[i] = s.harts[i] := by
  unfold State.performTags; dsimp only; split
  · rfl
  · have hn : (Fin.ofNat 512 s.cur.val).val ≠ i.val := fun e => h (Fin.ext (by simpa using e.symm))
    simp only [State.mapHart, State.enterAll, Fin.getElem_fin]
    exact Vector.getElem_set_ne _ _ hn

/-! ### Traps and waits -/

/-- sstatus after a trap entry: the mode in PMODE, IEN in PIEN, IEN 0, PREG by cause 9, every other bit kept (R391). -/
theorem trapStatus_bit (st : Word) (sup is9 preg : Bool) (k : Nat) (hk : k < 64) :
    (trapStatus st sup is9 preg).getLsbD k =
      if k = 0 then false else if k = 1 then st.getLsbD 0 else if k = 2 then sup
      else if k = 12 ∧ is9 = true then preg else st.getLsbD k := by
  have h0 : ∀ j : Fin 64, sIEN.getLsbD j = decide (j.val = 0) := by decide
  have h1 : ∀ j : Fin 64, sPIEN.getLsbD j = decide (j.val = 1) := by decide
  have h2 : ∀ j : Fin 64, sPMODE.getLsbD j = decide (j.val = 2) := by decide
  have h3 : ∀ j : Fin 64, sPREG.getLsbD j = decide (j.val = 12) := by decide
  have e0 := h0 ⟨k, hk⟩; have e1 := h1 ⟨k, hk⟩; have e2 := h2 ⟨k, hk⟩; have e3 := h3 ⟨k, hk⟩
  simp only at e0 e1 e2 e3
  unfold trapStatus
  dsimp only
  have z : (0#64 : Word).getLsbD k = false := by simp
  by_cases k0 : k = 0 <;> by_cases k1 : k = 1 <;> by_cases k2 : k = 2 <;> by_cases k3 : k = 12 <;> (try omega) <;>
    cases sup <;> cases is9 <;> cases preg <;> cases hi : st.getLsbD 0 <;>
    simp only [if_true, if_false, Bool.false_eq_true, BitVec.getLsbD_or, BitVec.getLsbD_and, BitVec.getLsbD_not, e0, e1, e2, e3, hk, z,
      BitVec.ofNat_eq_ofNat] <;>
    (try subst k) <;> simp_all
@[simp] theorem count_me (s : State) (c n : Nat) : (s.count c n).me = s.me := rfl
@[simp] theorem withdrawPage_me (s : State) (n : Nat) : (s.withdrawPage n).me = s.me := rfl
@[simp] theorem withdrawLease_me (s : State) (n : Nat) : (s.withdrawLease n).me = s.me := by unfold State.withdrawLease; split <;> rfl
/-- What a trap entry leaves of the hart in hand (R391, R219, R395). -/
theorem takeTrap_me (s : State) (c : Nat) (i : Bool) (v : Nat) (p : Bool) :
    (s.takeTrap c i v p).me = 
    { (s.me.retireTags fun _ => true).clearTaint with
      sepc := s.me.pc, scause := BitVec.ofNat 64 c ||| (if i then 0x8000_0000_0000_0000 else 0), stval := BitVec.ofNat 64 v,
      sstatus := trapStatus s.me.sstatus s.me.sup (c = 9 && !i) p, sup := true, pc := s.me.stvec &&& ~~~ 3#64, stalled := none,
      window := false, run := none, remote := s.me.remote.filter fun r => !r.own } := by
  unfold State.takeTrap; dsimp only
  repeat' split
  all_goals simp only [mapMe_me, count_me, withdrawLease_me, withdrawPage_me, performTags_me, retireTags_hart_pc, retireTags_hart_sstatus, retireTags_hart_sup,
    retireTags_hart_stvec, retireTags_hart_remote]

/-! ### Scalar results (R120 to R126) -/

theorem opImm_run (len : Nat) (f : Word → Word) (rd rs1 : BitVec 5) (s : State) : opImm len f rd rs1 s =
    .ok () (s.mapMe fun h => (h.setX rd (f (h.xr rs1)) (unionTaint h.issued [] [h.xt rs1])).retire len) := by
  simp [opImm, State.me, State.mapMe]
theorem opReg_run (len : Nat) (f : Word → Word → Word) (rd rs1 rs2 : BitVec 5) (s : State) : opReg len f rd rs1 rs2 s =
    .ok () (s.mapMe fun h => (h.setX rd (f (h.xr rs1) (h.xr rs2)) (unionTaint h.issued [] [h.xt rs1, h.xt rs2])).retire len) := by
  simp [opReg, State.me, State.mapMe]
theorem branch_run (len : Nat) (c : Word → Word → Bool) (rs1 rs2 : BitVec 5) (off : Word) (s : State) : branch len c rs1 rs2 off s =
    .ok () (s.mapMe fun h => if c (h.xr rs1) (h.xr rs2) then { h.retire 0 with pc := h.pc + off } else h.retire len) := by
  cases h : c (s.me.xr rs1) (s.me.xr rs2) <;> simp_all [branch, retireTo, State.me, State.mapMe]
theorem jump_run (len : Nat) (rd : BitVec 5) (target : Hart → Word) (s : State) : jump len rd target s =
    .ok () (s.mapMe fun h => { (h.setX rd (h.pc + BitVec.ofNat 64 len) noTaint).retire 0 with pc := target h }) := by
  simp [jump, retireTo, State.me, State.mapMe]

/-! ### Accesses -/

/-- Lines that keep their MAC raise nothing (R453). -/
theorem macFault_sound (s : State) (w : Bool) (k pa n va : Nat) (h : ∀ l ∈ linesOf pa n, s.macBad (l * 64) = false) :
    s.macFault w k pa n va = (s, none) := by
  have h2 : (linesOf pa n).find? (fun l => s.macBad (l * 64) && !(w && pa ≤ l * 64 && l * 64 + 64 ≤ pa + n)) = none := by
    rw [List.find?_eq_none]; intro l hl; simp [h l hl]
  simp only [State.macFault, h2]
/-- Lines that are sound raise nothing (R417, R453). -/
theorem lineFault_sound (s : State) (k pa n va : Nat) (h : ∀ l ∈ linesOf pa n, s.poisoned (l * 64) = false ∧ s.macBad (l * 64) = false) :
    s.lineFault k pa n va = (s, none) := by
  have h1 : (linesOf pa n).find? (fun l => s.poisoned (l * 64)) = none := by
    rw [List.find?_eq_none]; intro l hl; simp [(h l hl).1]
  simp only [State.lineFault, h1, macFault_sound s false k pa n va fun l hl => (h l hl).2]
/-- A read of local, sound memory of the hart's world answers the bytes of its view, and notes the writes returned (R206, R210). -/
theorem readVa_local {s u : State} {va n pa : Nat} {acc : Acc} (vec log : Bool) (hl : s.locate (s.reqFor s.cur) va acc = (u, .ok (.local pa)))
    (hr : u.readRefused (s.reqFor s.cur).world pa n = false)
    (hs : ∀ l ∈ linesOf pa n, u.poisoned (l * 64) = false ∧ u.macBad (l * 64) = false) :
    s.readVa va n acc vec log =
      ((u.owed (hartView s.cur) pa n).noteSeen (hartView s.cur) (.hart s.cur vec) pa n,
        .ok ((u.owed (hartView s.cur) pa n).viewBytes (hartView s.cur) (.hart s.cur vec) pa n)) := by
  unfold State.readVa
  dsimp only
  rw [hl]
  simp only [hr, lineFault_sound u 1 pa n va hs]
  rfl
/-- A store to local memory that its home takes and whose lines keep their MAC (R129, R206, R332, R448, R453). -/
theorem writeVa_local {s u t : State} {va pa : Nat} {b : List Byte} (vec narrow : Bool)
    (hl : s.locate (s.reqFor s.cur) va .write = (u, .ok (.local pa)))
    (hm : ∀ l ∈ linesOf pa b.length, u.macBad (l * 64) = false)
    (hs : u.storeAt (s.reqFor s.cur).world (.hart s.cur vec) pa b 0 = some t) : s.writeVa va b vec narrow = (t, .ok ()) := by
  have hc : u.cur = s.cur := by have := (locate_keeps s (s.reqFor s.cur) va .write).2.2.1; rw [hl] at this; exact this
  unfold State.writeVa
  dsimp only
  rw [hl]
  simp only [hc, hs, macFault_sound u true 1 pa b.length va hm]
/-- A store to plain memory is a write at its home and nothing else (R206). -/
theorem storeAt_plain (s : State) (world : Nat) (who : Writer) (pa : Nat) (b : List Byte) (sc : Nat)
    (hw : s.writeRefused world pa b.length = false) (hc : inCtxTab pa = false) (hq : ∀ q ∈ s.queues, q.hit pa b.length = false)
    (hp : ¬ (inPool pa = true ∧ pa ≤ pa / 64 * 64 + 24 ∧ pa / 64 * 64 + 32 ≤ pa + b.length)) :
    s.storeAt world who pa b sc = some ((s.writeBytes who pa b sc).queueWake pa b) := by
  have hr : s.readRefused world pa b.length = false := by
    unfold State.writeRefused at hw
    simp only [Bool.or_eq_false_iff] at hw
    exact hw.1.1
  have hf : s.queues.filter (fun q => q.hit pa b.length) = [] := by
    rw [List.filter_eq_nil_iff]; intro q hqm; simp [hq q hqm]
  have hk : ∀ t : State, t.poolHook pa b.length = t := by
    intro t; unfold State.poolHook; dsimp only
    rw [if_neg]; simpa [and_assoc] using hp
  unfold State.storeAt
  dsimp only
  simp [hr, hc, hw, hf, hk]


end Sys2Proof.Machine
end

