-- ==== Sys2Proof/Laws/PerInstr.lean ====
section
/-! SUPPORT. For each instruction: what its encoding decodes to. -/

namespace Sys2Proof.Laws.RoundTrip

/-- A well-formed instruction's word is as long as the class in its low bits says, fits that length, and decodes to the instruction
(R81, R83 to R101). -/
def Statement (i : Instr) : Prop :=
  ∀ n w, wellFormed i = true → encode i = some (n, w) → n = 8 * classLength w ∧ w < 2 ^ n ∧ decodeBits w = .ok i

theorem of_none {i : Instr} (h : encode i = none) : Statement i := fun _ _ _ e => by rw [h] at e; cases e
theorem of_word {i j : Instr} {n w : Nat} {c : Bool} (e : encode i = some (n, w)) (hn : n = 8 * classLength w) (hb : w < 2 ^ n)
    (d : decodeBits w = accept c j) (hc : c = true) (hj : j = i) : Statement i := by
  intro n' w' wf e'
  rw [e] at e'
  obtain ⟨rfl, rfl⟩ := Prod.mk.inj (Option.some.inj e')
  exact ⟨hn, hb, by rw [d, hc, hj]; simp [accept, wf]⟩
theorem of_scalar {i j : Instr} {x : Fields} {c : Bool} (e : encode i = some (32, Fields.pack 1 x)) (d : decodeScalar x = accept c j)
    (hc : c = true) (hj : j = i) : Statement i :=
  of_word e (by simp [classLength, (Fields.pack_bounds 1 x (by decide)).1]) (Fields.pack_bounds 1 x (by decide)).2
    ((decodeBits_scalar x).trans d) hc hj
theorem of_vector {i j : Instr} {x : Fields} {c : Bool} (e : encode i = some (32, Fields.pack 2 x)) (d : decodeVector x = accept c j)
    (hc : c = true) (hj : j = i) : Statement i :=
  of_word e (by simp [classLength, (Fields.pack_bounds 2 x (by decide)).1]) (Fields.pack_bounds 2 x (by decide)).2
    ((decodeBits_vector x).trans d) hc hj
theorem of_tile {i j : Instr} {x : Fields} {y : Tile} {c : Bool} (e : encode i = some (64, Fields.pack 3 x + 4294967296 * Tile.pack y))
    (d : decodeTile x y = accept c j) (hc : c = true) (hj : j = i) : Statement i :=
  of_word e (by
      have h := (Fields.pack_bounds 3 x (by decide)).1
      have e1 : (Fields.pack 3 x + 4294967296 * Tile.pack y) % 4 = 3 := by omega
      simp [classLength, e1])
    (by have h1 := (Fields.pack_bounds 3 x (by decide)).2; have h2 := Tile.pack_bound y; omega)
    ((decodeBits_tile x y).trans d) hc hj
theorem of_compressed {i j : Instr} {k p : Nat} (op : Nat) {c : Bool} (e : encode i = some (16, k + 64 * p)) (hk : k = 4 * op) (ho : op < 16)
    (hp : p < 1024) (d : decodeCompressed op p = accept c j) (hc : c = true) (hj : j = i) : Statement i := by
  subst hk
  refine of_word e ?_ (by omega) ((decodeBits_compressed op p ho hp).trans d) hc hj
  have e1 : (4 * op + 64 * p) % 4 = 0 := by omega
  simp [classLength, e1]
theorem of_scalar' {i : Instr} {x : Fields} (C : Fields → Bool) (J : Fields → Instr) (e : encode i = some (32, Fields.pack 1 x))
    (d : decodeScalar x = accept (C x) (J x)) (hc : C x = true) (hj : J x = i) : Statement i := of_scalar e d hc hj
theorem of_vector' {i : Instr} {x : Fields} (C : Fields → Bool) (J : Fields → Instr) (e : encode i = some (32, Fields.pack 2 x))
    (d : decodeVector x = accept (C x) (J x)) (hc : C x = true) (hj : J x = i) : Statement i := of_vector e d hc hj
theorem of_tile' {i : Instr} {x : Fields} {y : Tile} (C : Fields → Tile → Bool) (J : Fields → Tile → Instr)
    (e : encode i = some (64, Fields.pack 3 x + 4294967296 * Tile.pack y)) (d : decodeTile x y = accept (C x y) (J x y)) (hc : C x y = true)
    (hj : J x y = i) : Statement i := of_tile e d hc hj
theorem fence_fields (fn3 : Nat) (scope mid d : BitVec 3) (low : BitVec 2) (b a : BitVec 5) (h : fn3 < 8) :
    let x : Fields := { f := BitVec.ofNat 4 (2 * scope.toNat + mid.toNat / 4), e := BitVec.ofNat 2 mid.toNat, d := d,
                        c := BitVec.ofNat 5 (8 * low.toNat + fn3), b := b, a := a, major := 11 }
    x.fn3 = fn3 ∧ x.scope = scope ∧ x.mid = mid ∧ x.low2 = low := by
  have h1 := scope.isLt; have h2 := mid.isLt; have h3 := low.isLt
  refine ⟨?_, ?_, ?_, ?_⟩
  · simp only [Fields.fn3, BitVec.toNat_ofNat]; omega
  all_goals (apply BitVec.eq_of_toNat_eq; simp only [Fields.scope, Fields.mid, Fields.low2, BitVec.toNat_ofNat]; omega)
theorem decodeScalar_fence (x : Fields) (h : x.major = 11) : decodeScalar x = decodeFence x := by simp [decodeScalar, h]
theorem dir_even (dir : BitVec 1) : decide ((BitVec.ofNat 3 (4 * dir.toNat)).toNat % 4 = 0) = true := by revert dir; decide
theorem dir_back (dir : BitVec 1) : BitVec.ofNat 1 ((BitVec.ofNat 3 (4 * dir.toNat)).toNat / 4) = dir := by revert dir; decide
theorem decodeVector_cfg (x : Fields) (h : x.major = 0) (hf : 8 ≤ x.f.toNat) : decodeVector x =
    accept (decide (x.c.toNat % 4 = 0)) (.vsetvli x.a x.b (BitVec.ofNat 11 (256 * x.f.toNat + 64 * x.e.toNat + 8 * x.d.toNat + x.c.toNat / 4))) := by
  have hf' : ¬ x.f.toNat < 8 := by omega
  simp [decodeVector, h, hf']
theorem ofNat_toNat_add {n : Nat} (x : BitVec n) (k m : Nat) (h : k = 2 ^ n * m + x.toNat) : BitVec.ofNat n k = x := by
  have := x.isLt
  apply BitVec.eq_of_toNat_eq
  rw [BitVec.toNat_ofNat, h, Nat.mul_add_mod, Nat.mod_eq_of_lt this]

theorem cLi (rd : BitVec 5) (imm : BitVec 5) : Statement (.cLi rd imm) :=
  of_compressed 0 rfl rfl (by decide) (by have := rd.isLt; have := imm.isLt; omega) rfl rfl
    (by have := rd.isLt; have := imm.isLt; congr 1 <;> (apply BitVec.eq_of_toNat_eq; rw [BitVec.toNat_ofNat]; omega))
theorem cAddi (rd : BitVec 5) (imm : BitVec 5) : Statement (.cAddi rd imm) :=
  of_compressed 1 rfl rfl (by decide) (by have := rd.isLt; have := imm.isLt; omega) rfl rfl
    (by have := rd.isLt; have := imm.isLt; congr 1 <;> (apply BitVec.eq_of_toNat_eq; rw [BitVec.toNat_ofNat]; omega))
theorem cMv (rd : BitVec 5) (rs : BitVec 5) : Statement (.cMv rd rs) :=
  of_compressed 2 rfl rfl (by decide) (by have := rd.isLt; have := rs.isLt; omega) rfl rfl
    (by have := rd.isLt; have := rs.isLt; congr 1 <;> (apply BitVec.eq_of_toNat_eq; rw [BitVec.toNat_ofNat]; omega))
theorem cAdd (rd : BitVec 5) (rs : BitVec 5) : Statement (.cAdd rd rs) :=
  of_compressed 3 rfl rfl (by decide) (by have := rd.isLt; have := rs.isLt; omega) rfl rfl
    (by have := rd.isLt; have := rs.isLt; congr 1 <;> (apply BitVec.eq_of_toNat_eq; rw [BitVec.toNat_ofNat]; omega))
theorem cLd (rd : BitVec 3) (rs1 : BitVec 3) (off : BitVec 4) : Statement (.cLd rd rs1 off) :=
  of_compressed 4 rfl rfl (by decide) (by have := rd.isLt; have := rs1.isLt; have := off.isLt; omega) rfl rfl
    (by have := rd.isLt; have := rs1.isLt; have := off.isLt; congr 1 <;> (apply BitVec.eq_of_toNat_eq; rw [BitVec.toNat_ofNat]; omega))
theorem cSd (rs2 : BitVec 3) (rs1 : BitVec 3) (off : BitVec 4) : Statement (.cSd rs2 rs1 off) :=
  of_compressed 5 rfl rfl (by decide) (by have := rs2.isLt; have := rs1.isLt; have := off.isLt; omega) rfl rfl
    (by have := rs2.isLt; have := rs1.isLt; have := off.isLt; congr 1 <;> (apply BitVec.eq_of_toNat_eq; rw [BitVec.toNat_ofNat]; omega))
theorem cJ (off : BitVec 10) : Statement (.cJ off) :=
  of_compressed 6 rfl rfl (by decide) (by have := off.isLt; omega) rfl rfl
    (by have := off.isLt; congr 1 <;> (apply BitVec.eq_of_toNat_eq; rw [BitVec.toNat_ofNat]; omega))
theorem cBeqz (rs1 : BitVec 3) (off : BitVec 7) : Statement (.cBeqz rs1 off) :=
  of_compressed 7 rfl rfl (by decide) (by have := rs1.isLt; have := off.isLt; omega) rfl rfl
    (by have := rs1.isLt; have := off.isLt; congr 1 <;> (apply BitVec.eq_of_toNat_eq; rw [BitVec.toNat_ofNat]; omega))
theorem cBnez (rs1 : BitVec 3) (off : BitVec 7) : Statement (.cBnez rs1 off) :=
  of_compressed 8 rfl rfl (by decide) (by have := rs1.isLt; have := off.isLt; omega) rfl rfl
    (by have := rs1.isLt; have := off.isLt; congr 1 <;> (apply BitVec.eq_of_toNat_eq; rw [BitVec.toNat_ofNat]; omega))
theorem cJr (rs1 : BitVec 5) : Statement (.cJr rs1) :=
  of_compressed 9 rfl rfl (by decide) (by have := rs1.isLt; omega) rfl (by have := rs1.isLt; simp; omega)
    (by have := rs1.isLt; congr 1 <;> (apply BitVec.eq_of_toNat_eq; rw [BitVec.toNat_ofNat]; omega))
theorem cQget (rd : BitVec 5) (q : BitVec 4) : Statement (.cQget rd q) :=
  of_compressed 10 rfl rfl (by decide) (by have := rd.isLt; have := q.isLt; omega) rfl (by have := rd.isLt; have := q.isLt; simp; omega)
    (by have := rd.isLt; have := q.isLt; congr 1 <;> (apply BitVec.eq_of_toNat_eq; rw [BitVec.toNat_ofNat]; omega))
theorem cNop : Statement .cNop := of_compressed 11 rfl rfl (by decide) (by decide) rfl rfl rfl
theorem addi (rd : BitVec 5) (rs1 : BitVec 5) (imm : BitVec 11) : Statement (.addi rd rs1 imm) := by
  refine of_scalar rfl (c := true) (j := .addi rd rs1 imm) ?_ rfl rfl
  simp only [decodeScalar, decodeOpImm, Fields.fn3_pack _ _ _ _ _ _ _ _ (show 0 < 8 by decide), Fields.immI_pack _ _ _ _ _ (show 0 < 8 by decide)]
  rfl
theorem slti (rd : BitVec 5) (rs1 : BitVec 5) (imm : BitVec 11) : Statement (.slti rd rs1 imm) := by
  refine of_scalar rfl (c := true) (j := .slti rd rs1 imm) ?_ rfl rfl
  simp only [decodeScalar, decodeOpImm, Fields.fn3_pack _ _ _ _ _ _ _ _ (show 1 < 8 by decide), Fields.immI_pack _ _ _ _ _ (show 1 < 8 by decide)]
  rfl
theorem sltiu (rd : BitVec 5) (rs1 : BitVec 5) (imm : BitVec 11) : Statement (.sltiu rd rs1 imm) := by
  refine of_scalar rfl (c := true) (j := .sltiu rd rs1 imm) ?_ rfl rfl
  simp only [decodeScalar, decodeOpImm, Fields.fn3_pack _ _ _ _ _ _ _ _ (show 2 < 8 by decide), Fields.immI_pack _ _ _ _ _ (show 2 < 8 by decide)]
  rfl
theorem andi (rd : BitVec 5) (rs1 : BitVec 5) (imm : BitVec 11) : Statement (.andi rd rs1 imm) := by
  refine of_scalar rfl (c := true) (j := .andi rd rs1 imm) ?_ rfl rfl
  simp only [decodeScalar, decodeOpImm, Fields.fn3_pack _ _ _ _ _ _ _ _ (show 3 < 8 by decide), Fields.immI_pack _ _ _ _ _ (show 3 < 8 by decide)]
  rfl
theorem ori (rd : BitVec 5) (rs1 : BitVec 5) (imm : BitVec 11) : Statement (.ori rd rs1 imm) := by
  refine of_scalar rfl (c := true) (j := .ori rd rs1 imm) ?_ rfl rfl
  simp only [decodeScalar, decodeOpImm, Fields.fn3_pack _ _ _ _ _ _ _ _ (show 4 < 8 by decide), Fields.immI_pack _ _ _ _ _ (show 4 < 8 by decide)]
  rfl
theorem xori (rd : BitVec 5) (rs1 : BitVec 5) (imm : BitVec 11) : Statement (.xori rd rs1 imm) := by
  refine of_scalar rfl (c := true) (j := .xori rd rs1 imm) ?_ rfl rfl
  simp only [decodeScalar, decodeOpImm, Fields.fn3_pack _ _ _ _ _ _ _ _ (show 5 < 8 by decide), Fields.immI_pack _ _ _ _ _ (show 5 < 8 by decide)]
  rfl
theorem slli (rd : BitVec 5) (rs1 : BitVec 5) (sh : BitVec 6) : Statement (.slli rd rs1 sh) := by
  refine of_scalar rfl (c := true) (j := .slli rd rs1 sh) ?_ rfl rfl
  have := sh.isLt
  have e : (BitVec.ofNat 11 (0 + sh.toNat)).toNat = sh.toNat := by rw [BitVec.toNat_ofNat]; omega
  have e2 : (BitVec.ofNat 11 (0 + sh.toNat)).setWidth 6 = sh := by apply BitVec.eq_of_toNat_eq; rw [BitVec.toNat_setWidth, e]; omega
  simp only [decodeScalar, decodeOpImm, Fields.fn3_pack _ _ _ _ _ _ _ _ (show 6 < 8 by decide), Fields.immI_pack _ _ _ _ _ (show 6 < 8 by decide)]
  simp only [e2, e,
    show sh.toNat / 64 = 0 by omega]
  rfl
theorem srli (rd : BitVec 5) (rs1 : BitVec 5) (sh : BitVec 6) : Statement (.srli rd rs1 sh) := by
  refine of_scalar rfl (c := true) (j := .srli rd rs1 sh) ?_ rfl rfl
  have := sh.isLt
  have e : (BitVec.ofNat 11 (0 + sh.toNat)).toNat = sh.toNat := by rw [BitVec.toNat_ofNat]; omega
  have e2 : (BitVec.ofNat 11 (0 + sh.toNat)).setWidth 6 = sh := by apply BitVec.eq_of_toNat_eq; rw [BitVec.toNat_setWidth, e]; omega
  simp only [decodeScalar, decodeOpImm, Fields.fn3_pack _ _ _ _ _ _ _ _ (show 7 < 8 by decide), Fields.immI_pack _ _ _ _ _ (show 7 < 8 by decide)]
  simp only [e2, e,
    show sh.toNat / 64 = 0 by omega]
  rfl
theorem srai (rd : BitVec 5) (rs1 : BitVec 5) (sh : BitVec 6) : Statement (.srai rd rs1 sh) := by
  refine of_scalar rfl (c := true) (j := .srai rd rs1 sh) ?_ rfl rfl
  have := sh.isLt
  have e : (BitVec.ofNat 11 (1024 + sh.toNat)).toNat = 1024 + sh.toNat := by rw [BitVec.toNat_ofNat]; omega
  have e2 : (BitVec.ofNat 11 (1024 + sh.toNat)).setWidth 6 = sh := by apply BitVec.eq_of_toNat_eq; rw [BitVec.toNat_setWidth, e]; omega
  simp only [decodeScalar, decodeOpImm, Fields.fn3_pack _ _ _ _ _ _ _ _ (show 7 < 8 by decide), Fields.immI_pack _ _ _ _ _ (show 7 < 8 by decide)]
  simp only [e2, e,
    show (1024 + sh.toNat) / 64 = 16 by omega]
  rfl
theorem add (rd : BitVec 5) (rs1 : BitVec 5) (rs2 : BitVec 5) : Statement (.add rd rs1 rs2) := of_scalar rfl rfl rfl rfl
theorem sub (rd : BitVec 5) (rs1 : BitVec 5) (rs2 : BitVec 5) : Statement (.sub rd rs1 rs2) := of_scalar rfl rfl rfl rfl
theorem and (rd : BitVec 5) (rs1 : BitVec 5) (rs2 : BitVec 5) : Statement (.and rd rs1 rs2) := of_scalar rfl rfl rfl rfl
theorem or (rd : BitVec 5) (rs1 : BitVec 5) (rs2 : BitVec 5) : Statement (.or rd rs1 rs2) := of_scalar rfl rfl rfl rfl
theorem xor (rd : BitVec 5) (rs1 : BitVec 5) (rs2 : BitVec 5) : Statement (.xor rd rs1 rs2) := of_scalar rfl rfl rfl rfl
theorem sll (rd : BitVec 5) (rs1 : BitVec 5) (rs2 : BitVec 5) : Statement (.sll rd rs1 rs2) := of_scalar rfl rfl rfl rfl
theorem srl (rd : BitVec 5) (rs1 : BitVec 5) (rs2 : BitVec 5) : Statement (.srl rd rs1 rs2) := of_scalar rfl rfl rfl rfl
theorem sra (rd : BitVec 5) (rs1 : BitVec 5) (rs2 : BitVec 5) : Statement (.sra rd rs1 rs2) := of_scalar rfl rfl rfl rfl
theorem slt (rd : BitVec 5) (rs1 : BitVec 5) (rs2 : BitVec 5) : Statement (.slt rd rs1 rs2) := of_scalar rfl rfl rfl rfl
theorem sltu (rd : BitVec 5) (rs1 : BitVec 5) (rs2 : BitVec 5) : Statement (.sltu rd rs1 rs2) := of_scalar rfl rfl rfl rfl
theorem min (rd : BitVec 5) (rs1 : BitVec 5) (rs2 : BitVec 5) : Statement (.min rd rs1 rs2) := of_scalar rfl rfl rfl rfl
theorem max (rd : BitVec 5) (rs1 : BitVec 5) (rs2 : BitVec 5) : Statement (.max rd rs1 rs2) := of_scalar rfl rfl rfl rfl
theorem minu (rd : BitVec 5) (rs1 : BitVec 5) (rs2 : BitVec 5) : Statement (.minu rd rs1 rs2) := of_scalar rfl rfl rfl rfl
theorem maxu (rd : BitVec 5) (rs1 : BitVec 5) (rs2 : BitVec 5) : Statement (.maxu rd rs1 rs2) := of_scalar rfl rfl rfl rfl
theorem mul (rd : BitVec 5) (rs1 : BitVec 5) (rs2 : BitVec 5) : Statement (.mul rd rs1 rs2) := of_scalar rfl rfl rfl rfl
theorem mulh (rd : BitVec 5) (rs1 : BitVec 5) (rs2 : BitVec 5) : Statement (.mulh rd rs1 rs2) := of_scalar rfl rfl rfl rfl
theorem mulhu (rd : BitVec 5) (rs1 : BitVec 5) (rs2 : BitVec 5) : Statement (.mulhu rd rs1 rs2) := of_scalar rfl rfl rfl rfl
theorem div (rd : BitVec 5) (rs1 : BitVec 5) (rs2 : BitVec 5) : Statement (.div rd rs1 rs2) := of_scalar rfl rfl rfl rfl
theorem divu (rd : BitVec 5) (rs1 : BitVec 5) (rs2 : BitVec 5) : Statement (.divu rd rs1 rs2) := of_scalar rfl rfl rfl rfl
theorem rem (rd : BitVec 5) (rs1 : BitVec 5) (rs2 : BitVec 5) : Statement (.rem rd rs1 rs2) := of_scalar rfl rfl rfl rfl
theorem remu (rd : BitVec 5) (rs1 : BitVec 5) (rs2 : BitVec 5) : Statement (.remu rd rs1 rs2) := of_scalar rfl rfl rfl rfl
theorem clz (rd : BitVec 5) (rs1 : BitVec 5) : Statement (.clz rd rs1) := of_scalar rfl rfl rfl rfl
theorem ctz (rd : BitVec 5) (rs1 : BitVec 5) : Statement (.ctz rd rs1) := of_scalar rfl rfl rfl rfl
theorem cpop (rd : BitVec 5) (rs1 : BitVec 5) : Statement (.cpop rd rs1) := of_scalar rfl rfl rfl rfl
theorem lui (rd : BitVec 5) (imm : BitVec 19) : Statement (.lui rd imm) :=
  of_scalar' (fun x => true) (fun x => (.lui x.a x.immU)) rfl rfl rfl (by rw [Fields.immU_pack])
theorem auipc (rd : BitVec 5) (imm : BitVec 19) : Statement (.auipc rd imm) :=
  of_scalar' (fun x => true) (fun x => (.auipc x.a x.immU)) rfl rfl rfl (by rw [Fields.immU_pack])
theorem jal (rd : BitVec 5) (imm : BitVec 19) : Statement (.jal rd imm) :=
  of_scalar' (fun x => true) (fun x => (.jal x.a x.immU)) rfl rfl rfl (by rw [Fields.immU_pack])
theorem jalr (rd : BitVec 5) (rs1 : BitVec 5) (imm : BitVec 11) : Statement (.jalr rd rs1 imm) := by
  refine of_scalar rfl (c := true) (j := .jalr rd rs1 imm) ?_ rfl rfl
  simp only [decodeScalar, decodeJalr, Fields.fn3_pack _ _ _ _ _ _ _ _ (show 0 < 8 by decide), Fields.immI_pack _ _ _ _ _ (show 0 < 8 by decide)]
  rfl
theorem beq (rs1 : BitVec 5) (rs2 : BitVec 5) (imm : BitVec 11) : Statement (.beq rs1 rs2 imm) :=
  of_scalar' (fun x => true) (fun x => (.beq x.b x.c x.immS)) rfl rfl rfl (by simp only [Fields.immS_pack])
theorem bne (rs1 : BitVec 5) (rs2 : BitVec 5) (imm : BitVec 11) : Statement (.bne rs1 rs2 imm) :=
  of_scalar' (fun x => true) (fun x => (.bne x.b x.c x.immS)) rfl rfl rfl (by simp only [Fields.immS_pack])
theorem blt (rs1 : BitVec 5) (rs2 : BitVec 5) (imm : BitVec 11) : Statement (.blt rs1 rs2 imm) :=
  of_scalar' (fun x => true) (fun x => (.blt x.b x.c x.immS)) rfl rfl rfl (by simp only [Fields.immS_pack])
theorem bge (rs1 : BitVec 5) (rs2 : BitVec 5) (imm : BitVec 11) : Statement (.bge rs1 rs2 imm) :=
  of_scalar' (fun x => true) (fun x => (.bge x.b x.c x.immS)) rfl rfl rfl (by simp only [Fields.immS_pack])
theorem bltu (rs1 : BitVec 5) (rs2 : BitVec 5) (imm : BitVec 11) : Statement (.bltu rs1 rs2 imm) :=
  of_scalar' (fun x => true) (fun x => (.bltu x.b x.c x.immS)) rfl rfl rfl (by simp only [Fields.immS_pack])
theorem bgeu (rs1 : BitVec 5) (rs2 : BitVec 5) (imm : BitVec 11) : Statement (.bgeu rs1 rs2 imm) :=
  of_scalar' (fun x => true) (fun x => (.bgeu x.b x.c x.immS)) rfl rfl rfl (by simp only [Fields.immS_pack])
theorem ld (rd : BitVec 5) (rs1 : BitVec 5) (imm : BitVec 11) : Statement (.ld rd rs1 imm) := by
  refine of_scalar rfl (c := true) (j := .ld rd rs1 imm) ?_ rfl rfl
  simp only [decodeScalar, decodeLoad, Fields.fn3_pack _ _ _ _ _ _ _ _ (show 0 < 8 by decide), Fields.immI_pack _ _ _ _ _ (show 0 < 8 by decide)]
  rfl
theorem lw (rd : BitVec 5) (rs1 : BitVec 5) (imm : BitVec 11) : Statement (.lw rd rs1 imm) := by
  refine of_scalar rfl (c := true) (j := .lw rd rs1 imm) ?_ rfl rfl
  simp only [decodeScalar, decodeLoad, Fields.fn3_pack _ _ _ _ _ _ _ _ (show 1 < 8 by decide), Fields.immI_pack _ _ _ _ _ (show 1 < 8 by decide)]
  rfl
theorem lh (rd : BitVec 5) (rs1 : BitVec 5) (imm : BitVec 11) : Statement (.lh rd rs1 imm) := by
  refine of_scalar rfl (c := true) (j := .lh rd rs1 imm) ?_ rfl rfl
  simp only [decodeScalar, decodeLoad, Fields.fn3_pack _ _ _ _ _ _ _ _ (show 2 < 8 by decide), Fields.immI_pack _ _ _ _ _ (show 2 < 8 by decide)]
  rfl
theorem lb (rd : BitVec 5) (rs1 : BitVec 5) (imm : BitVec 11) : Statement (.lb rd rs1 imm) := by
  refine of_scalar rfl (c := true) (j := .lb rd rs1 imm) ?_ rfl rfl
  simp only [decodeScalar, decodeLoad, Fields.fn3_pack _ _ _ _ _ _ _ _ (show 3 < 8 by decide), Fields.immI_pack _ _ _ _ _ (show 3 < 8 by decide)]
  rfl
theorem lwu (rd : BitVec 5) (rs1 : BitVec 5) (imm : BitVec 11) : Statement (.lwu rd rs1 imm) := by
  refine of_scalar rfl (c := true) (j := .lwu rd rs1 imm) ?_ rfl rfl
  simp only [decodeScalar, decodeLoad, Fields.fn3_pack _ _ _ _ _ _ _ _ (show 5 < 8 by decide), Fields.immI_pack _ _ _ _ _ (show 5 < 8 by decide)]
  rfl
theorem lhu (rd : BitVec 5) (rs1 : BitVec 5) (imm : BitVec 11) : Statement (.lhu rd rs1 imm) := by
  refine of_scalar rfl (c := true) (j := .lhu rd rs1 imm) ?_ rfl rfl
  simp only [decodeScalar, decodeLoad, Fields.fn3_pack _ _ _ _ _ _ _ _ (show 6 < 8 by decide), Fields.immI_pack _ _ _ _ _ (show 6 < 8 by decide)]
  rfl
theorem lbu (rd : BitVec 5) (rs1 : BitVec 5) (imm : BitVec 11) : Statement (.lbu rd rs1 imm) := by
  refine of_scalar rfl (c := true) (j := .lbu rd rs1 imm) ?_ rfl rfl
  simp only [decodeScalar, decodeLoad, Fields.fn3_pack _ _ _ _ _ _ _ _ (show 7 < 8 by decide), Fields.immI_pack _ _ _ _ _ (show 7 < 8 by decide)]
  rfl
theorem sd (rs1 : BitVec 5) (rs2 : BitVec 5) (imm : BitVec 11) : Statement (.sd rs1 rs2 imm) :=
  of_scalar' (fun x => true) (fun x => (.sd x.b x.c x.immS)) rfl rfl rfl (by simp only [Fields.immS_pack])
theorem sw (rs1 : BitVec 5) (rs2 : BitVec 5) (imm : BitVec 11) : Statement (.sw rs1 rs2 imm) :=
  of_scalar' (fun x => true) (fun x => (.sw x.b x.c x.immS)) rfl rfl rfl (by simp only [Fields.immS_pack])
theorem sh (rs1 : BitVec 5) (rs2 : BitVec 5) (imm : BitVec 11) : Statement (.sh rs1 rs2 imm) :=
  of_scalar' (fun x => true) (fun x => (.sh x.b x.c x.immS)) rfl rfl rfl (by simp only [Fields.immS_pack])
theorem sb (rs1 : BitVec 5) (rs2 : BitVec 5) (imm : BitVec 11) : Statement (.sb rs1 rs2 imm) :=
  of_scalar' (fun x => true) (fun x => (.sb x.b x.c x.immS)) rfl rfl rfl (by simp only [Fields.immS_pack])
theorem amoswapD (ord : BitVec 2) (scope : BitVec 3) (rs2 : BitVec 5) (rs1 : BitVec 5) (rd : BitVec 5) : Statement (.amoswapD ord scope rs2 rs1 rd) := of_scalar rfl rfl rfl rfl
theorem amoaddD (ord : BitVec 2) (scope : BitVec 3) (rs2 : BitVec 5) (rs1 : BitVec 5) (rd : BitVec 5) : Statement (.amoaddD ord scope rs2 rs1 rd) := of_scalar rfl rfl rfl rfl
theorem amoandD (ord : BitVec 2) (scope : BitVec 3) (rs2 : BitVec 5) (rs1 : BitVec 5) (rd : BitVec 5) : Statement (.amoandD ord scope rs2 rs1 rd) := of_scalar rfl rfl rfl rfl
theorem amoorD (ord : BitVec 2) (scope : BitVec 3) (rs2 : BitVec 5) (rs1 : BitVec 5) (rd : BitVec 5) : Statement (.amoorD ord scope rs2 rs1 rd) := of_scalar rfl rfl rfl rfl
theorem amoxorD (ord : BitVec 2) (scope : BitVec 3) (rs2 : BitVec 5) (rs1 : BitVec 5) (rd : BitVec 5) : Statement (.amoxorD ord scope rs2 rs1 rd) := of_scalar rfl rfl rfl rfl
theorem amominD (ord : BitVec 2) (scope : BitVec 3) (rs2 : BitVec 5) (rs1 : BitVec 5) (rd : BitVec 5) : Statement (.amominD ord scope rs2 rs1 rd) := of_scalar rfl rfl rfl rfl
theorem amomaxD (ord : BitVec 2) (scope : BitVec 3) (rs2 : BitVec 5) (rs1 : BitVec 5) (rd : BitVec 5) : Statement (.amomaxD ord scope rs2 rs1 rd) := of_scalar rfl rfl rfl rfl
theorem amominuD (ord : BitVec 2) (scope : BitVec 3) (rs2 : BitVec 5) (rs1 : BitVec 5) (rd : BitVec 5) : Statement (.amominuD ord scope rs2 rs1 rd) := of_scalar rfl rfl rfl rfl
theorem amomaxuD (ord : BitVec 2) (scope : BitVec 3) (rs2 : BitVec 5) (rs1 : BitVec 5) (rd : BitVec 5) : Statement (.amomaxuD ord scope rs2 rs1 rd) := of_scalar rfl rfl rfl rfl
theorem amocasD (ord : BitVec 2) (scope : BitVec 3) (rs2 : BitVec 5) (rs1 : BitVec 5) (rd : BitVec 5) : Statement (.amocasD ord scope rs2 rs1 rd) := of_scalar rfl rfl rfl rfl
theorem ldaD (scope : BitVec 3) (rs1 : BitVec 5) (rd : BitVec 5) : Statement (.ldaD scope rs1 rd) := of_scalar rfl rfl rfl rfl
theorem stlD (scope : BitVec 3) (rs2 : BitVec 5) (rs1 : BitVec 5) : Statement (.stlD scope rs2 rs1) := of_scalar rfl rfl rfl rfl
theorem amoswapW (ord : BitVec 2) (scope : BitVec 3) (rs2 : BitVec 5) (rs1 : BitVec 5) (rd : BitVec 5) : Statement (.amoswapW ord scope rs2 rs1 rd) := of_scalar rfl rfl rfl rfl
theorem amoaddW (ord : BitVec 2) (scope : BitVec 3) (rs2 : BitVec 5) (rs1 : BitVec 5) (rd : BitVec 5) : Statement (.amoaddW ord scope rs2 rs1 rd) := of_scalar rfl rfl rfl rfl
theorem amoandW (ord : BitVec 2) (scope : BitVec 3) (rs2 : BitVec 5) (rs1 : BitVec 5) (rd : BitVec 5) : Statement (.amoandW ord scope rs2 rs1 rd) := of_scalar rfl rfl rfl rfl
theorem amoorW (ord : BitVec 2) (scope : BitVec 3) (rs2 : BitVec 5) (rs1 : BitVec 5) (rd : BitVec 5) : Statement (.amoorW ord scope rs2 rs1 rd) := of_scalar rfl rfl rfl rfl
theorem amoxorW (ord : BitVec 2) (scope : BitVec 3) (rs2 : BitVec 5) (rs1 : BitVec 5) (rd : BitVec 5) : Statement (.amoxorW ord scope rs2 rs1 rd) := of_scalar rfl rfl rfl rfl
theorem amominW (ord : BitVec 2) (scope : BitVec 3) (rs2 : BitVec 5) (rs1 : BitVec 5) (rd : BitVec 5) : Statement (.amominW ord scope rs2 rs1 rd) := of_scalar rfl rfl rfl rfl
theorem amomaxW (ord : BitVec 2) (scope : BitVec 3) (rs2 : BitVec 5) (rs1 : BitVec 5) (rd : BitVec 5) : Statement (.amomaxW ord scope rs2 rs1 rd) := of_scalar rfl rfl rfl rfl
theorem amominuW (ord : BitVec 2) (scope : BitVec 3) (rs2 : BitVec 5) (rs1 : BitVec 5) (rd : BitVec 5) : Statement (.amominuW ord scope rs2 rs1 rd) := of_scalar rfl rfl rfl rfl
theorem amomaxuW (ord : BitVec 2) (scope : BitVec 3) (rs2 : BitVec 5) (rs1 : BitVec 5) (rd : BitVec 5) : Statement (.amomaxuW ord scope rs2 rs1 rd) := of_scalar rfl rfl rfl rfl
theorem amocasW (ord : BitVec 2) (scope : BitVec 3) (rs2 : BitVec 5) (rs1 : BitVec 5) (rd : BitVec 5) : Statement (.amocasW ord scope rs2 rs1 rd) := of_scalar rfl rfl rfl rfl
theorem ldaW (scope : BitVec 3) (rs1 : BitVec 5) (rd : BitVec 5) : Statement (.ldaW scope rs1 rd) := of_scalar rfl rfl rfl rfl
theorem stlW (scope : BitVec 3) (rs2 : BitVec 5) (rs1 : BitVec 5) : Statement (.stlW scope rs2 rs1) := of_scalar rfl rfl rfl rfl
theorem fence (scope : BitVec 3) (pred : BitVec 2) (succ : BitVec 2) : Statement (.fence scope pred succ) := by
  obtain ⟨h1, h2, h3, h4⟩ := fence_fields 0 scope 0 (pred.setWidth 3) succ 0 0 (by decide)
  refine of_scalar rfl (c := true) (j := .fence scope pred succ) ((decodeScalar_fence _ rfl).trans ?_) rfl rfl
  simp only [decodeFence, h1, h2, h3, h4, fits32, narrow32]
  rfl
theorem fenceX (scope : BitVec 3) (src : BitVec 3) (dst : BitVec 3) : Statement (.fenceX scope src dst) := by
  obtain ⟨h1, h2, h3, h4⟩ := fence_fields 1 scope src dst 0 0 0 (by decide)
  refine of_scalar rfl (c := true) (j := .fenceX scope src dst) ((decodeScalar_fence _ rfl).trans ?_) rfl rfl
  simp only [decodeFence, h1, h2, h3, h4]
  rfl
theorem fenceT (scope : BitVec 3) (dir : BitVec 1) (pred : BitVec 2) (succ : BitVec 2) : Statement (.fenceT scope dir pred succ) := by
  obtain ⟨h1, h2, h3, h4⟩ := fence_fields 2 scope (BitVec.ofNat 3 (4 * dir.toNat)) (pred.setWidth 3) succ 0 0 (by decide)
  refine of_scalar rfl (c := true) (j := .fenceT scope dir pred succ) ((decodeScalar_fence _ rfl).trans ?_) rfl rfl
  simp only [decodeFence, h1, h2, h3, h4, fits32, narrow32, dir_even, dir_back]
  rfl
theorem tclr (file : BitVec 2) (reg : BitVec 5) : Statement (.tclr file reg) := by
  obtain ⟨h1, h2, h3, h4⟩ := fence_fields 3 0 0 0 file 0 reg (by decide)
  refine of_scalar rfl (c := true) (j := .tclr file reg) ((decodeScalar_fence _ rfl).trans ?_) rfl rfl
  simp only [decodeFence, h1, h2, h3, h4]
  rfl
theorem tjoin (fs : BitVec 2) (fd : BitVec 2) (rs1 : BitVec 5) (rd : BitVec 5) : Statement (.tjoin fs fd rs1 rd) := by
  obtain ⟨h1, h2, h3, h4⟩ := fence_fields 4 0 0 (fs.setWidth 3) fd rs1 rd (by decide)
  refine of_scalar rfl (c := true) (j := .tjoin fs fd rs1 rd) ((decodeScalar_fence _ rfl).trans ?_) rfl rfl
  simp only [decodeFence, h1, h2, h3, h4, fits32, narrow32]
  rfl
theorem yield : Statement .yield := of_scalar rfl rfl rfl rfl
theorem wfi : Statement .wfi := of_scalar rfl rfl rfl rfl
theorem ecall : Statement .ecall := of_scalar rfl rfl rfl rfl
theorem ebreak : Statement .ebreak := of_scalar rfl rfl rfl rfl
theorem eret : Statement .eret := of_scalar rfl rfl rfl rfl
theorem tlbinv (rs1 : BitVec 5) : Statement (.tlbinv rs1) := by
  refine of_scalar rfl (c := true) (j := .tlbinv rs1) ?_ rfl rfl
  simp only [decodeScalar, decodeSystem, Fields.fn3_pack _ _ _ _ _ _ _ _ (show 0 < 8 by decide), Fields.immI_pack _ _ _ _ _ (show 0 < 8 by decide)]
  rfl
theorem csrrw (rd : BitVec 5) (rs1 : BitVec 5) (csr : BitVec 11) : Statement (.csrrw rd rs1 csr) := by
  refine of_scalar rfl (c := true) (j := .csrrw rd rs1 csr) ?_ rfl rfl
  simp only [decodeScalar, decodeSystem, Fields.fn3_pack _ _ _ _ _ _ _ _ (show 1 < 8 by decide), Fields.immI_pack _ _ _ _ _ (show 1 < 8 by decide)]
  rfl
theorem csrrwi (rd : BitVec 5) (uimm : BitVec 5) (csr : BitVec 11) : Statement (.csrrwi rd uimm csr) := by
  refine of_scalar rfl (c := true) (j := .csrrwi rd uimm csr) ?_ rfl rfl
  simp only [decodeScalar, decodeSystem, Fields.fn3_pack _ _ _ _ _ _ _ _ (show 2 < 8 by decide), Fields.immI_pack _ _ _ _ _ (show 2 < 8 by decide)]
  rfl
theorem csrrs (rd : BitVec 5) (rs1 : BitVec 5) (csr : BitVec 11) : Statement (.csrrs rd rs1 csr) := by
  refine of_scalar rfl (c := true) (j := .csrrs rd rs1 csr) ?_ rfl rfl
  simp only [decodeScalar, decodeSystem, Fields.fn3_pack _ _ _ _ _ _ _ _ (show 3 < 8 by decide), Fields.immI_pack _ _ _ _ _ (show 3 < 8 by decide)]
  rfl
theorem csrrsi (rd : BitVec 5) (uimm : BitVec 5) (csr : BitVec 11) : Statement (.csrrsi rd uimm csr) := by
  refine of_scalar rfl (c := true) (j := .csrrsi rd uimm csr) ?_ rfl rfl
  simp only [decodeScalar, decodeSystem, Fields.fn3_pack _ _ _ _ _ _ _ _ (show 4 < 8 by decide), Fields.immI_pack _ _ _ _ _ (show 4 < 8 by decide)]
  rfl
theorem csrrc (rd : BitVec 5) (rs1 : BitVec 5) (csr : BitVec 11) : Statement (.csrrc rd rs1 csr) := by
  refine of_scalar rfl (c := true) (j := .csrrc rd rs1 csr) ?_ rfl rfl
  simp only [decodeScalar, decodeSystem, Fields.fn3_pack _ _ _ _ _ _ _ _ (show 5 < 8 by decide), Fields.immI_pack _ _ _ _ _ (show 5 < 8 by decide)]
  rfl
theorem csrrci (rd : BitVec 5) (uimm : BitVec 5) (csr : BitVec 11) : Statement (.csrrci rd uimm csr) := by
  refine of_scalar rfl (c := true) (j := .csrrci rd uimm csr) ?_ rfl rfl
  simp only [decodeScalar, decodeSystem, Fields.fn3_pack _ _ _ _ _ _ _ _ (show 6 < 8 by decide), Fields.immI_pack _ _ _ _ _ (show 6 < 8 by decide)]
  rfl
theorem qput (q : BitVec 4) (rs2 : BitVec 5) : Statement (.qput q rs2) :=
  of_scalar' (fun x => (decide (x.b.toNat < 16) && x.immS == 0)) (fun x => (.qput (x.b.setWidth 4) x.c)) rfl rfl (by simp only [fits54] <;> rfl) (by simp only [narrow54])
theorem qget (rd : BitVec 5) (q : BitVec 4) : Statement (.qget rd q) :=
  of_scalar' (fun x => (decide (x.b.toNat < 16) && x.f == 0 && x.e == 0 && x.c == 0)) (fun x => (.qget x.a (x.b.setWidth 4))) rfl rfl (by simp only [fits54] <;> rfl) (by simp only [narrow54])
theorem qbr (q : BitVec 4) (off : BitVec 11) : Statement (.qbr q off) :=
  of_scalar' (fun x => (decide (x.b.toNat < 16) && x.c == 0)) (fun x => (.qbr (x.b.setWidth 4) x.immS)) rfl rfl (by simp only [fits54, fits53, fits32] <;> rfl) (by simp only [narrow54, Fields.immS_pack])
theorem qstat (rd : BitVec 5) (q : BitVec 4) : Statement (.qstat rd q) :=
  of_scalar' (fun x => (decide (x.b.toNat < 16) && x.f == 0 && x.e == 0 && x.c == 0)) (fun x => (.qstat x.a (x.b.setWidth 4))) rfl rfl (by simp only [fits54] <;> rfl) (by simp only [narrow54])
theorem cpy (rd : BitVec 5) (rs1 : BitVec 5) (rs2 : BitVec 5) (rs3 : BitVec 5) : Statement (.cpy rd rs1 rs2 rs3) :=
  of_scalar' (fun x => true) (fun x => (.cpy x.a x.b x.c x.rs3)) rfl rfl rfl (by simp only [Fields.rs3_pack])
theorem cpy2d (rd : BitVec 5) (rs1 : BitVec 5) (rs2 : BitVec 5) (rs3 : BitVec 5) : Statement (.cpy2d rd rs1 rs2 rs3) :=
  of_scalar' (fun x => true) (fun x => (.cpy2d x.a x.b x.c x.rs3)) rfl rfl rfl (by simp only [Fields.rs3_pack])
theorem gathr (rd : BitVec 5) (rs1 : BitVec 5) (rs2 : BitVec 5) (rs3 : BitVec 5) : Statement (.gathr rd rs1 rs2 rs3) :=
  of_scalar' (fun x => true) (fun x => (.gathr x.a x.b x.c x.rs3)) rfl rfl rfl (by simp only [Fields.rs3_pack])
theorem scatr (rd : BitVec 5) (rs1 : BitVec 5) (rs2 : BitVec 5) (rs3 : BitVec 5) : Statement (.scatr rd rs1 rs2 rs3) :=
  of_scalar' (fun x => true) (fun x => (.scatr x.a x.b x.c x.rs3)) rfl rfl rfl (by simp only [Fields.rs3_pack])
theorem cpwait (rd : BitVec 5) (rs1 : BitVec 5) : Statement (.cpwait rd rs1) := of_scalar rfl rfl rfl rfl
theorem binit (rd : BitVec 5) (rs1 : BitVec 5) (rs2 : BitVec 5) : Statement (.binit rd rs1 rs2) := of_scalar rfl rfl rfl rfl
theorem barr (rd : BitVec 5) (rs1 : BitVec 5) : Statement (.barr rd rs1) := of_scalar rfl rfl rfl rfl
theorem barrx (rd : BitVec 5) (rs1 : BitVec 5) (rs2 : BitVec 5) : Statement (.barrx rd rs1 rs2) := of_scalar rfl rfl rfl rfl
theorem barrm (rd : BitVec 5) (rs1 : BitVec 5) (rs2 : BitVec 5) : Statement (.barrm rd rs1 rs2) := of_scalar rfl rfl rfl rfl
theorem bwait (rd : BitVec 5) (rs1 : BitVec 5) (rs2 : BitVec 5) : Statement (.bwait rd rs1 rs2) := of_scalar rfl rfl rfl rfl
theorem btest (rd : BitVec 5) (rs1 : BitVec 5) (rs2 : BitVec 5) : Statement (.btest rd rs1 rs2) := of_scalar rfl rfl rfl rfl
theorem bshape (rd : BitVec 5) (rs1 : BitVec 5) (rs2 : BitVec 5) : Statement (.bshape rd rs1 rs2) := of_scalar rfl rfl rfl rfl
theorem sqadm (rd : BitVec 5) (rs1 : BitVec 5) (rs2 : BitVec 5) : Statement (.sqadm rd rs1 rs2) := of_scalar rfl rfl rfl rfl
theorem sqret (rd : BitVec 5) (rs1 : BitVec 5) (rs2 : BitVec 5) : Statement (.sqret rd rs1 rs2) := of_scalar rfl rfl rfl rfl
theorem pgalloc (rd : BitVec 5) (rs1 : BitVec 5) : Statement (.pgalloc rd rs1) := of_scalar rfl rfl rfl rfl
theorem pgref (rd : BitVec 5) (rs1 : BitVec 5) (rs2 : BitVec 5) : Statement (.pgref rd rs1 rs2) := of_scalar rfl rfl rfl rfl
theorem pgrel (rd : BitVec 5) (rs1 : BitVec 5) (rs2 : BitVec 5) : Statement (.pgrel rd rs1 rs2) := of_scalar rfl rfl rfl rfl
theorem pgxfer (rd : BitVec 5) (rs1 : BitVec 5) (rs2 : BitVec 5) : Statement (.pgxfer rd rs1 rs2) := of_scalar rfl rfl rfl rfl
theorem ixinit (rd : BitVec 5) (rs1 : BitVec 5) (rs2 : BitVec 5) : Statement (.ixinit rd rs1 rs2) := of_scalar rfl rfl rfl rfl
theorem ixcur (rd : BitVec 5) (rs1 : BitVec 5) (rs2 : BitVec 5) : Statement (.ixcur rd rs1 rs2) := of_scalar rfl rfl rfl rfl
theorem ixatt (rd : BitVec 5) (rs1 : BitVec 5) (rs2 : BitVec 5) : Statement (.ixatt rd rs1 rs2) := of_scalar rfl rfl rfl rfl
theorem ixdet (rd : BitVec 5) (rs1 : BitVec 5) : Statement (.ixdet rd rs1) := of_scalar rfl rfl rfl rfl
theorem ixext (rd : BitVec 5) (rs1 : BitVec 5) (rs2 : BitVec 5) : Statement (.ixext rd rs1 rs2) := of_scalar rfl rfl rfl rfl
theorem ixmatch (rd : BitVec 5) (rs1 : BitVec 5) (rs2 : BitVec 5) : Statement (.ixmatch rd rs1 rs2) := of_scalar rfl rfl rfl rfl
theorem ixstat (rd : BitVec 5) (rs1 : BitVec 5) (rs2 : BitVec 5) : Statement (.ixstat rd rs1 rs2) := of_scalar rfl rfl rfl rfl
theorem pgsub (rd : BitVec 5) (rs1 : BitVec 5) (rs2 : BitVec 5) : Statement (.pgsub rd rs1 rs2) := of_scalar rfl rfl rfl rfl
theorem pgopen (rd : BitVec 5) (rs1 : BitVec 5) : Statement (.pgopen rd rs1) := of_scalar rfl rfl rfl rfl
theorem mbset (rd : BitVec 5) (rs1 : BitVec 5) (rs2 : BitVec 5) : Statement (.mbset rd rs1 rs2) := of_scalar rfl rfl rfl rfl
theorem vsetvl (rd : BitVec 5) (rs1 : BitVec 5) (rs2 : BitVec 5) : Statement (.vsetvl rd rs1 rs2) := of_vector rfl rfl rfl rfl
theorem vsetvli (rd : BitVec 5) (rs1 : BitVec 5) (vt : BitVec 11) : Statement (.vsetvli rd rs1 vt) := by
  have := vt.isLt
  have e1 : (BitVec.ofNat 4 (8 + vt.toNat / 256)).toNat = 8 + vt.toNat / 256 := by rw [BitVec.toNat_ofNat]; omega
  have e2 : (BitVec.ofNat 5 (4 * (vt.toNat % 8))).toNat = 4 * (vt.toNat % 8) := by rw [BitVec.toNat_ofNat]; omega
  refine of_vector rfl (decodeVector_cfg _ rfl (by simp only [e1]; omega)) ?_ ?_
  · simp only [e2]; exact decide_eq_true (by omega)
  · congr 1; apply BitVec.eq_of_toNat_eq; simp only [e1, e2, BitVec.toNat_ofNat]; omega
theorem vadd (ok : BitVec 2) (km : BitVec 3) (vs2 : BitVec 5) (src : BitVec 5) (vd : BitVec 5) : Statement (.vadd ok km vs2 src vd) := of_vector rfl rfl rfl rfl
theorem vsub (ok : BitVec 2) (km : BitVec 3) (vs2 : BitVec 5) (src : BitVec 5) (vd : BitVec 5) : Statement (.vsub ok km vs2 src vd) := of_vector rfl rfl rfl rfl
theorem vrsub (ok : BitVec 2) (km : BitVec 3) (vs2 : BitVec 5) (src : BitVec 5) (vd : BitVec 5) : Statement (.vrsub ok km vs2 src vd) := of_vector rfl rfl rfl rfl
theorem vmin (ok : BitVec 2) (km : BitVec 3) (vs2 : BitVec 5) (src : BitVec 5) (vd : BitVec 5) : Statement (.vmin ok km vs2 src vd) := of_vector rfl rfl rfl rfl
theorem vmax (ok : BitVec 2) (km : BitVec 3) (vs2 : BitVec 5) (src : BitVec 5) (vd : BitVec 5) : Statement (.vmax ok km vs2 src vd) := of_vector rfl rfl rfl rfl
theorem vminu (ok : BitVec 2) (km : BitVec 3) (vs2 : BitVec 5) (src : BitVec 5) (vd : BitVec 5) : Statement (.vminu ok km vs2 src vd) := of_vector rfl rfl rfl rfl
theorem vmaxu (ok : BitVec 2) (km : BitVec 3) (vs2 : BitVec 5) (src : BitVec 5) (vd : BitVec 5) : Statement (.vmaxu ok km vs2 src vd) := of_vector rfl rfl rfl rfl
theorem vand (ok : BitVec 2) (km : BitVec 3) (vs2 : BitVec 5) (src : BitVec 5) (vd : BitVec 5) : Statement (.vand ok km vs2 src vd) := of_vector rfl rfl rfl rfl
theorem vor (ok : BitVec 2) (km : BitVec 3) (vs2 : BitVec 5) (src : BitVec 5) (vd : BitVec 5) : Statement (.vor ok km vs2 src vd) := of_vector rfl rfl rfl rfl
theorem vxor (ok : BitVec 2) (km : BitVec 3) (vs2 : BitVec 5) (src : BitVec 5) (vd : BitVec 5) : Statement (.vxor ok km vs2 src vd) := of_vector rfl rfl rfl rfl
theorem vsll (ok : BitVec 2) (km : BitVec 3) (vs2 : BitVec 5) (src : BitVec 5) (vd : BitVec 5) : Statement (.vsll ok km vs2 src vd) := of_vector rfl rfl rfl rfl
theorem vsrl (ok : BitVec 2) (km : BitVec 3) (vs2 : BitVec 5) (src : BitVec 5) (vd : BitVec 5) : Statement (.vsrl ok km vs2 src vd) := of_vector rfl rfl rfl rfl
theorem vsra (ok : BitVec 2) (km : BitVec 3) (vs2 : BitVec 5) (src : BitVec 5) (vd : BitVec 5) : Statement (.vsra ok km vs2 src vd) := of_vector rfl rfl rfl rfl
theorem vsadd (ok : BitVec 2) (km : BitVec 3) (vs2 : BitVec 5) (src : BitVec 5) (vd : BitVec 5) : Statement (.vsadd ok km vs2 src vd) := of_vector rfl rfl rfl rfl
theorem vssub (ok : BitVec 2) (km : BitVec 3) (vs2 : BitVec 5) (src : BitVec 5) (vd : BitVec 5) : Statement (.vssub ok km vs2 src vd) := of_vector rfl rfl rfl rfl
theorem vmerge (ok : BitVec 2) (km : BitVec 3) (vs2 : BitVec 5) (src : BitVec 5) (vd : BitVec 5) : Statement (.vmerge ok km vs2 src vd) := of_vector rfl rfl rfl rfl
theorem vmul (ok : BitVec 2) (km : BitVec 3) (vs2 : BitVec 5) (src : BitVec 5) (vd : BitVec 5) : Statement (.vmul ok km vs2 src vd) := of_vector rfl rfl rfl rfl
theorem vmulh (ok : BitVec 2) (km : BitVec 3) (vs2 : BitVec 5) (src : BitVec 5) (vd : BitVec 5) : Statement (.vmulh ok km vs2 src vd) := of_vector rfl rfl rfl rfl
theorem vmulhu (ok : BitVec 2) (km : BitVec 3) (vs2 : BitVec 5) (src : BitVec 5) (vd : BitVec 5) : Statement (.vmulhu ok km vs2 src vd) := of_vector rfl rfl rfl rfl
theorem vdiv (ok : BitVec 2) (km : BitVec 3) (vs2 : BitVec 5) (src : BitVec 5) (vd : BitVec 5) : Statement (.vdiv ok km vs2 src vd) := of_vector rfl rfl rfl rfl
theorem vdivu (ok : BitVec 2) (km : BitVec 3) (vs2 : BitVec 5) (src : BitVec 5) (vd : BitVec 5) : Statement (.vdivu ok km vs2 src vd) := of_vector rfl rfl rfl rfl
theorem vrem (ok : BitVec 2) (km : BitVec 3) (vs2 : BitVec 5) (src : BitVec 5) (vd : BitVec 5) : Statement (.vrem ok km vs2 src vd) := of_vector rfl rfl rfl rfl
theorem vremu (ok : BitVec 2) (km : BitVec 3) (vs2 : BitVec 5) (src : BitVec 5) (vd : BitVec 5) : Statement (.vremu ok km vs2 src vd) := of_vector rfl rfl rfl rfl
theorem vmacc (ok : BitVec 2) (km : BitVec 3) (vs2 : BitVec 5) (src : BitVec 5) (vd : BitVec 5) : Statement (.vmacc ok km vs2 src vd) := of_vector rfl rfl rfl rfl
theorem vmv (ok : BitVec 2) (km : BitVec 3) (src : BitVec 5) (vd : BitVec 5) : Statement (.vmv ok km src vd) := of_vector rfl rfl rfl rfl
theorem vid (km : BitVec 3) (vd : BitVec 5) : Statement (.vid km vd) := of_vector rfl rfl rfl rfl
theorem vmseq (ok : BitVec 2) (km : BitVec 3) (vs2 : BitVec 5) (src : BitVec 5) (kd : BitVec 3) : Statement (.vmseq ok km vs2 src kd) :=
  of_vector' (fun x => (decide (x.a.toNat < 8))) (fun x => (.vmseq x.e x.d x.c x.b (x.a.setWidth 3))) rfl rfl (by simp only [fits53] <;> rfl) (by simp only [narrow53])
theorem vmsne (ok : BitVec 2) (km : BitVec 3) (vs2 : BitVec 5) (src : BitVec 5) (kd : BitVec 3) : Statement (.vmsne ok km vs2 src kd) :=
  of_vector' (fun x => (decide (x.a.toNat < 8))) (fun x => (.vmsne x.e x.d x.c x.b (x.a.setWidth 3))) rfl rfl (by simp only [fits53] <;> rfl) (by simp only [narrow53])
theorem vmslt (ok : BitVec 2) (km : BitVec 3) (vs2 : BitVec 5) (src : BitVec 5) (kd : BitVec 3) : Statement (.vmslt ok km vs2 src kd) :=
  of_vector' (fun x => (decide (x.a.toNat < 8))) (fun x => (.vmslt x.e x.d x.c x.b (x.a.setWidth 3))) rfl rfl (by simp only [fits53] <;> rfl) (by simp only [narrow53])
theorem vmsltu (ok : BitVec 2) (km : BitVec 3) (vs2 : BitVec 5) (src : BitVec 5) (kd : BitVec 3) : Statement (.vmsltu ok km vs2 src kd) :=
  of_vector' (fun x => (decide (x.a.toNat < 8))) (fun x => (.vmsltu x.e x.d x.c x.b (x.a.setWidth 3))) rfl rfl (by simp only [fits53] <;> rfl) (by simp only [narrow53])
theorem vmsle (ok : BitVec 2) (km : BitVec 3) (vs2 : BitVec 5) (src : BitVec 5) (kd : BitVec 3) : Statement (.vmsle ok km vs2 src kd) :=
  of_vector' (fun x => (decide (x.a.toNat < 8))) (fun x => (.vmsle x.e x.d x.c x.b (x.a.setWidth 3))) rfl rfl (by simp only [fits53] <;> rfl) (by simp only [narrow53])
theorem vmsleu (ok : BitVec 2) (km : BitVec 3) (vs2 : BitVec 5) (src : BitVec 5) (kd : BitVec 3) : Statement (.vmsleu ok km vs2 src kd) :=
  of_vector' (fun x => (decide (x.a.toNat < 8))) (fun x => (.vmsleu x.e x.d x.c x.b (x.a.setWidth 3))) rfl rfl (by simp only [fits53] <;> rfl) (by simp only [narrow53])
theorem vmsgt (ok : BitVec 2) (km : BitVec 3) (vs2 : BitVec 5) (src : BitVec 5) (kd : BitVec 3) : Statement (.vmsgt ok km vs2 src kd) :=
  of_vector' (fun x => (decide (x.a.toNat < 8))) (fun x => (.vmsgt x.e x.d x.c x.b (x.a.setWidth 3))) rfl rfl (by simp only [fits53] <;> rfl) (by simp only [narrow53])
theorem vmsgtu (ok : BitVec 2) (km : BitVec 3) (vs2 : BitVec 5) (src : BitVec 5) (kd : BitVec 3) : Statement (.vmsgtu ok km vs2 src kd) :=
  of_vector' (fun x => (decide (x.a.toNat < 8))) (fun x => (.vmsgtu x.e x.d x.c x.b (x.a.setWidth 3))) rfl rfl (by simp only [fits53] <;> rfl) (by simp only [narrow53])
theorem vmfeq (ok : BitVec 2) (km : BitVec 3) (vs2 : BitVec 5) (src : BitVec 5) (kd : BitVec 3) : Statement (.vmfeq ok km vs2 src kd) :=
  of_vector' (fun x => (decide (x.a.toNat < 8))) (fun x => (.vmfeq x.e x.d x.c x.b (x.a.setWidth 3))) rfl rfl (by simp only [fits53] <;> rfl) (by simp only [narrow53])
theorem vmfne (ok : BitVec 2) (km : BitVec 3) (vs2 : BitVec 5) (src : BitVec 5) (kd : BitVec 3) : Statement (.vmfne ok km vs2 src kd) :=
  of_vector' (fun x => (decide (x.a.toNat < 8))) (fun x => (.vmfne x.e x.d x.c x.b (x.a.setWidth 3))) rfl rfl (by simp only [fits53] <;> rfl) (by simp only [narrow53])
theorem vmflt (ok : BitVec 2) (km : BitVec 3) (vs2 : BitVec 5) (src : BitVec 5) (kd : BitVec 3) : Statement (.vmflt ok km vs2 src kd) :=
  of_vector' (fun x => (decide (x.a.toNat < 8))) (fun x => (.vmflt x.e x.d x.c x.b (x.a.setWidth 3))) rfl rfl (by simp only [fits53] <;> rfl) (by simp only [narrow53])
theorem vmfle (ok : BitVec 2) (km : BitVec 3) (vs2 : BitVec 5) (src : BitVec 5) (kd : BitVec 3) : Statement (.vmfle ok km vs2 src kd) :=
  of_vector' (fun x => (decide (x.a.toNat < 8))) (fun x => (.vmfle x.e x.d x.c x.b (x.a.setWidth 3))) rfl rfl (by simp only [fits53] <;> rfl) (by simp only [narrow53])
theorem vfadd (ok : BitVec 2) (km : BitVec 3) (vs2 : BitVec 5) (src : BitVec 5) (vd : BitVec 5) : Statement (.vfadd ok km vs2 src vd) := of_vector rfl rfl rfl rfl
theorem vfsub (ok : BitVec 2) (km : BitVec 3) (vs2 : BitVec 5) (src : BitVec 5) (vd : BitVec 5) : Statement (.vfsub ok km vs2 src vd) := of_vector rfl rfl rfl rfl
theorem vfmul (ok : BitVec 2) (km : BitVec 3) (vs2 : BitVec 5) (src : BitVec 5) (vd : BitVec 5) : Statement (.vfmul ok km vs2 src vd) := of_vector rfl rfl rfl rfl
theorem vfdiv (ok : BitVec 2) (km : BitVec 3) (vs2 : BitVec 5) (src : BitVec 5) (vd : BitVec 5) : Statement (.vfdiv ok km vs2 src vd) := of_vector rfl rfl rfl rfl
theorem vfmin (ok : BitVec 2) (km : BitVec 3) (vs2 : BitVec 5) (src : BitVec 5) (vd : BitVec 5) : Statement (.vfmin ok km vs2 src vd) := of_vector rfl rfl rfl rfl
theorem vfmax (ok : BitVec 2) (km : BitVec 3) (vs2 : BitVec 5) (src : BitVec 5) (vd : BitVec 5) : Statement (.vfmax ok km vs2 src vd) := of_vector rfl rfl rfl rfl
theorem vfsgnj (ok : BitVec 2) (km : BitVec 3) (vs2 : BitVec 5) (src : BitVec 5) (vd : BitVec 5) : Statement (.vfsgnj ok km vs2 src vd) := of_vector rfl rfl rfl rfl
theorem vfsgnjn (ok : BitVec 2) (km : BitVec 3) (vs2 : BitVec 5) (src : BitVec 5) (vd : BitVec 5) : Statement (.vfsgnjn ok km vs2 src vd) := of_vector rfl rfl rfl rfl
theorem vfsgnjx (ok : BitVec 2) (km : BitVec 3) (vs2 : BitVec 5) (src : BitVec 5) (vd : BitVec 5) : Statement (.vfsgnjx ok km vs2 src vd) := of_vector rfl rfl rfl rfl
theorem vfmacc (ok : BitVec 2) (km : BitVec 3) (vs2 : BitVec 5) (src : BitVec 5) (vd : BitVec 5) : Statement (.vfmacc ok km vs2 src vd) := of_vector rfl rfl rfl rfl
theorem vfnmacc (ok : BitVec 2) (km : BitVec 3) (vs2 : BitVec 5) (src : BitVec 5) (vd : BitVec 5) : Statement (.vfnmacc ok km vs2 src vd) := of_vector rfl rfl rfl rfl
theorem vfmsac (ok : BitVec 2) (km : BitVec 3) (vs2 : BitVec 5) (src : BitVec 5) (vd : BitVec 5) : Statement (.vfmsac ok km vs2 src vd) := of_vector rfl rfl rfl rfl
theorem vfsqrt (ok : BitVec 2) (km : BitVec 3) (src : BitVec 5) (vd : BitVec 5) : Statement (.vfsqrt ok km src vd) := of_vector rfl rfl rfl rfl
theorem vfrcp (ok : BitVec 2) (km : BitVec 3) (src : BitVec 5) (vd : BitVec 5) : Statement (.vfrcp ok km src vd) := of_vector rfl rfl rfl rfl
theorem vfexp2 (ok : BitVec 2) (km : BitVec 3) (src : BitVec 5) (vd : BitVec 5) : Statement (.vfexp2 ok km src vd) := of_vector rfl rfl rfl rfl
theorem vfclass (ok : BitVec 2) (km : BitVec 3) (src : BitVec 5) (vd : BitVec 5) : Statement (.vfclass ok km src vd) := of_vector rfl rfl rfl rfl
theorem vfcvtFX (ok : BitVec 2) (km : BitVec 3) (src : BitVec 5) (vd : BitVec 5) : Statement (.vfcvtFX ok km src vd) := of_vector rfl rfl rfl rfl
theorem vfcvtXF (ok : BitVec 2) (km : BitVec 3) (src : BitVec 5) (vd : BitVec 5) : Statement (.vfcvtXF ok km src vd) := of_vector rfl rfl rfl rfl
theorem vfwcvt (ok : BitVec 2) (km : BitVec 3) (fmt : BitVec 5) (src : BitVec 5) (vd : BitVec 5) : Statement (.vfwcvt ok km fmt src vd) := of_vector rfl rfl rfl rfl
theorem vfncvt (ok : BitVec 2) (km : BitVec 3) (fmt : BitVec 5) (src : BitVec 5) (vd : BitVec 5) : Statement (.vfncvt ok km fmt src vd) := of_vector rfl rfl rfl rfl
theorem vqnt (ok : BitVec 2) (km : BitVec 3) (vsc : BitVec 5) (src : BitVec 5) (vd : BitVec 5) : Statement (.vqnt ok km vsc src vd) := of_vector rfl rfl rfl rfl
theorem vdeq (ok : BitVec 2) (km : BitVec 3) (vsc : BitVec 5) (src : BitVec 5) (vd : BitVec 5) : Statement (.vdeq ok km vsc src vd) := of_vector rfl rfl rfl rfl
theorem kand (ks2 : BitVec 3) (ks1 : BitVec 3) (kd : BitVec 3) : Statement (.kand ks2 ks1 kd) :=
  of_vector' (fun x => (x.e == 0 && x.d == 0 && decide (x.c.toNat < 8) && decide (x.b.toNat < 8) && decide (x.a.toNat < 8))) (fun x => (.kand (x.c.setWidth 3) (x.b.setWidth 3) (x.a.setWidth 3))) rfl rfl (by simp only [fits53] <;> rfl) (by simp only [narrow53])
theorem kor (ks2 : BitVec 3) (ks1 : BitVec 3) (kd : BitVec 3) : Statement (.kor ks2 ks1 kd) :=
  of_vector' (fun x => (x.e == 0 && x.d == 0 && decide (x.c.toNat < 8) && decide (x.b.toNat < 8) && decide (x.a.toNat < 8))) (fun x => (.kor (x.c.setWidth 3) (x.b.setWidth 3) (x.a.setWidth 3))) rfl rfl (by simp only [fits53] <;> rfl) (by simp only [narrow53])
theorem kxor (ks2 : BitVec 3) (ks1 : BitVec 3) (kd : BitVec 3) : Statement (.kxor ks2 ks1 kd) :=
  of_vector' (fun x => (x.e == 0 && x.d == 0 && decide (x.c.toNat < 8) && decide (x.b.toNat < 8) && decide (x.a.toNat < 8))) (fun x => (.kxor (x.c.setWidth 3) (x.b.setWidth 3) (x.a.setWidth 3))) rfl rfl (by simp only [fits53] <;> rfl) (by simp only [narrow53])
theorem kandn (ks2 : BitVec 3) (ks1 : BitVec 3) (kd : BitVec 3) : Statement (.kandn ks2 ks1 kd) :=
  of_vector' (fun x => (x.e == 0 && x.d == 0 && decide (x.c.toNat < 8) && decide (x.b.toNat < 8) && decide (x.a.toNat < 8))) (fun x => (.kandn (x.c.setWidth 3) (x.b.setWidth 3) (x.a.setWidth 3))) rfl rfl (by simp only [fits53] <;> rfl) (by simp only [narrow53])
theorem knot (ks1 : BitVec 3) (kd : BitVec 3) : Statement (.knot ks1 kd) :=
  of_vector' (fun x => (x.e == 0 && x.d == 0 && x.c == 0 && decide (x.b.toNat < 8) && decide (x.a.toNat < 8))) (fun x => (.knot (x.b.setWidth 3) (x.a.setWidth 3))) rfl rfl (by simp only [fits53] <;> rfl) (by simp only [narrow53])
theorem kfromv (km : BitVec 3) (vs1 : BitVec 5) (kd : BitVec 3) : Statement (.kfromv km vs1 kd) :=
  of_vector' (fun x => (x.e == 0 && x.c == 0 && decide (x.a.toNat < 8))) (fun x => (.kfromv x.d x.b (x.a.setWidth 3))) rfl rfl (by simp only [fits53] <;> rfl) (by simp only [narrow53])
theorem vfromk (km : BitVec 3) (ks1 : BitVec 3) (vd : BitVec 5) : Statement (.vfromk km ks1 vd) :=
  of_vector' (fun x => (x.e == 0 && x.c == 0 && decide (x.b.toNat < 8))) (fun x => (.vfromk x.d (x.b.setWidth 3) x.a)) rfl rfl (by simp only [fits53] <;> rfl) (by simp only [narrow53])
theorem kpop (ks1 : BitVec 3) (rd : BitVec 5) : Statement (.kpop ks1 rd) :=
  of_vector' (fun x => (x.e == 0 && x.d == 0 && x.c == 0 && decide (x.b.toNat < 8))) (fun x => (.kpop (x.b.setWidth 3) x.a)) rfl rfl (by simp only [fits53] <;> rfl) (by simp only [narrow53])
theorem kfirst (ks1 : BitVec 3) (rd : BitVec 5) : Statement (.kfirst ks1 rd) :=
  of_vector' (fun x => (x.e == 0 && x.d == 0 && x.c == 0 && decide (x.b.toNat < 8))) (fun x => (.kfirst (x.b.setWidth 3) x.a)) rfl rfl (by simp only [fits53] <;> rfl) (by simp only [narrow53])
theorem vslideup (ok : BitVec 2) (km : BitVec 3) (vs2 : BitVec 5) (src : BitVec 5) (vd : BitVec 5) : Statement (.vslideup ok km vs2 src vd) := of_vector rfl rfl rfl rfl
theorem vslidedown (ok : BitVec 2) (km : BitVec 3) (vs2 : BitVec 5) (src : BitVec 5) (vd : BitVec 5) : Statement (.vslidedown ok km vs2 src vd) := of_vector rfl rfl rfl rfl
theorem vslide1up (ok : BitVec 2) (km : BitVec 3) (vs2 : BitVec 5) (src : BitVec 5) (vd : BitVec 5) : Statement (.vslide1up ok km vs2 src vd) := of_vector rfl rfl rfl rfl
theorem vslide1down (ok : BitVec 2) (km : BitVec 3) (vs2 : BitVec 5) (src : BitVec 5) (vd : BitVec 5) : Statement (.vslide1down ok km vs2 src vd) := of_vector rfl rfl rfl rfl
theorem vrgather (ok : BitVec 2) (km : BitVec 3) (vs2 : BitVec 5) (src : BitVec 5) (vd : BitVec 5) : Statement (.vrgather ok km vs2 src vd) := of_vector rfl rfl rfl rfl
theorem vcompress (km : BitVec 3) (vs1 : BitVec 5) (vd : BitVec 5) : Statement (.vcompress km vs1 vd) := of_vector rfl rfl rfl rfl
theorem vexpand (km : BitVec 3) (vs1 : BitVec 5) (vd : BitVec 5) : Statement (.vexpand km vs1 vd) := of_vector rfl rfl rfl rfl
theorem viota (km : BitVec 3) (ks1 : BitVec 3) (vd : BitVec 5) : Statement (.viota km ks1 vd) :=
  of_vector' (fun x => (x.e == 0 && x.c == 0 && decide (x.b.toNat < 8))) (fun x => (.viota x.d (x.b.setWidth 3) x.a)) rfl rfl (by simp only [fits53] <;> rfl) (by simp only [narrow53])
theorem vmvxs (vs2 : BitVec 5) (rd : BitVec 5) : Statement (.vmvxs vs2 rd) := of_vector rfl rfl rfl rfl
theorem vmvsx (rs1 : BitVec 5) (vd : BitVec 5) : Statement (.vmvsx rs1 vd) := of_vector rfl rfl rfl rfl
theorem vredsum (ok : BitVec 2) (km : BitVec 3) (vs2 : BitVec 5) (src : BitVec 5) (vd : BitVec 5) : Statement (.vredsum ok km vs2 src vd) := of_vector rfl rfl rfl rfl
theorem vredmax (ok : BitVec 2) (km : BitVec 3) (vs2 : BitVec 5) (src : BitVec 5) (vd : BitVec 5) : Statement (.vredmax ok km vs2 src vd) := of_vector rfl rfl rfl rfl
theorem vredmin (ok : BitVec 2) (km : BitVec 3) (vs2 : BitVec 5) (src : BitVec 5) (vd : BitVec 5) : Statement (.vredmin ok km vs2 src vd) := of_vector rfl rfl rfl rfl
theorem vredmaxu (ok : BitVec 2) (km : BitVec 3) (vs2 : BitVec 5) (src : BitVec 5) (vd : BitVec 5) : Statement (.vredmaxu ok km vs2 src vd) := of_vector rfl rfl rfl rfl
theorem vredminu (ok : BitVec 2) (km : BitVec 3) (vs2 : BitVec 5) (src : BitVec 5) (vd : BitVec 5) : Statement (.vredminu ok km vs2 src vd) := of_vector rfl rfl rfl rfl
theorem vfredsum (ok : BitVec 2) (km : BitVec 3) (vs2 : BitVec 5) (src : BitVec 5) (vd : BitVec 5) : Statement (.vfredsum ok km vs2 src vd) := of_vector rfl rfl rfl rfl
theorem vfredmax (ok : BitVec 2) (km : BitVec 3) (vs2 : BitVec 5) (src : BitVec 5) (vd : BitVec 5) : Statement (.vfredmax ok km vs2 src vd) := of_vector rfl rfl rfl rfl
theorem vfredmin (ok : BitVec 2) (km : BitVec 3) (vs2 : BitVec 5) (src : BitVec 5) (vd : BitVec 5) : Statement (.vfredmin ok km vs2 src vd) := of_vector rfl rfl rfl rfl
theorem vsegsum (km : BitVec 3) (vs2 : BitVec 5) (ks1 : BitVec 3) (vd : BitVec 5) : Statement (.vsegsum km vs2 ks1 vd) :=
  of_vector' (fun x => (x.e == 0 && decide (x.b.toNat < 8))) (fun x => (.vsegsum x.d x.c (x.b.setWidth 3) x.a)) rfl rfl (by simp only [fits53] <;> rfl) (by simp only [narrow53])
theorem vsegmax (km : BitVec 3) (vs2 : BitVec 5) (ks1 : BitVec 3) (vd : BitVec 5) : Statement (.vsegmax km vs2 ks1 vd) :=
  of_vector' (fun x => (x.e == 0 && decide (x.b.toNat < 8))) (fun x => (.vsegmax x.d x.c (x.b.setWidth 3) x.a)) rfl rfl (by simp only [fits53] <;> rfl) (by simp only [narrow53])
theorem vle (ok : BitVec 2) (km : BitVec 3) (rs1 : BitVec 5) (vd : BitVec 5) : Statement (.vle ok km rs1 vd) := of_vector rfl rfl rfl rfl
theorem vlse (ok : BitVec 2) (km : BitVec 3) (rs2 : BitVec 5) (rs1 : BitVec 5) (vd : BitVec 5) : Statement (.vlse ok km rs2 rs1 vd) := of_vector rfl rfl rfl rfl
theorem vlxe (ok : BitVec 2) (km : BitVec 3) (vs2 : BitVec 5) (rs1 : BitVec 5) (vd : BitVec 5) : Statement (.vlxe ok km vs2 rs1 vd) := of_vector rfl rfl rfl rfl
theorem vlxb (ok : BitVec 2) (km : BitVec 3) (vs2 : BitVec 5) (rs1 : BitVec 5) (vd : BitVec 5) : Statement (.vlxb ok km vs2 rs1 vd) := of_vector rfl rfl rfl rfl
theorem vleff (ok : BitVec 2) (km : BitVec 3) (rs1 : BitVec 5) (vd : BitVec 5) : Statement (.vleff ok km rs1 vd) := of_vector rfl rfl rfl rfl
theorem vlcb (km : BitVec 3) (rs2 : BitVec 5) (rs1 : BitVec 5) (vd : BitVec 5) : Statement (.vlcb km rs2 rs1 vd) := of_vector rfl rfl rfl rfl
theorem vse (ok : BitVec 2) (km : BitVec 3) (rs1 : BitVec 5) (vd : BitVec 5) : Statement (.vse ok km rs1 vd) := of_vector rfl rfl rfl rfl
theorem vsse (ok : BitVec 2) (km : BitVec 3) (rs2 : BitVec 5) (rs1 : BitVec 5) (vd : BitVec 5) : Statement (.vsse ok km rs2 rs1 vd) := of_vector rfl rfl rfl rfl
theorem vsxe (ok : BitVec 2) (km : BitVec 3) (vs2 : BitVec 5) (rs1 : BitVec 5) (vd : BitVec 5) : Statement (.vsxe ok km vs2 rs1 vd) := of_vector rfl rfl rfl rfl
theorem vscadd (ok : BitVec 2) (km : BitVec 3) (vs2 : BitVec 5) (rs1 : BitVec 5) (vd : BitVec 5) : Statement (.vscadd ok km vs2 rs1 vd) := of_vector rfl rfl rfl rfl
theorem vscb (rs2 : BitVec 5) (rs1 : BitVec 5) (vd : BitVec 5) : Statement (.vscb rs2 rs1 vd) := of_vector rfl rfl rfl rfl
theorem vcapp (km : BitVec 3) (rd : BitVec 5) (rs1 : BitVec 5) (vd : BitVec 5) : Statement (.vcapp km rd rs1 vd) := of_vector rfl rfl rfl rfl
theorem vhacc (ok : BitVec 2) (km : BitVec 3) (vs2 : BitVec 5) (rs1 : BitVec 5) (vd : BitVec 5) : Statement (.vhacc ok km vs2 rs1 vd) := of_vector rfl rfl rfl rfl
theorem qputv (km : BitVec 3) (vs1 : BitVec 5) (q : BitVec 4) : Statement (.qputv km vs1 q) :=
  of_vector' (fun x => (x.e == 0 && x.c == 0 && decide (x.a.toNat < 16))) (fun x => (.qputv x.d x.b (x.a.setWidth 4))) rfl rfl (by simp only [fits54] <;> rfl) (by simp only [narrow54])
theorem qgetv (km : BitVec 3) (q : BitVec 4) (vd : BitVec 5) : Statement (.qgetv km q vd) :=
  of_vector' (fun x => (x.e == 0 && x.c == 0 && decide (x.b.toNat < 16))) (fun x => (.qgetv x.d (x.b.setWidth 4) x.a)) rfl rfl (by simp only [fits54] <;> rfl) (by simp only [narrow54])
theorem vascore (vs2 : BitVec 5) (q : BitVec 4) : Statement (.vascore vs2 q) :=
  of_vector' (fun x => (x.e == 3 && x.d == 0 && decide (x.b.toNat < 16) && x.a == 0)) (fun x => (.vascore x.c (x.b.setWidth 4))) rfl rfl (by simp only [fits54] <;> rfl) (by simp only [narrow54])
theorem vaexp : Statement .vaexp := of_vector rfl rfl rfl rfl
theorem vaacc (q : BitVec 4) : Statement (.vaacc q) :=
  of_vector' (fun x => (x.e == 3 && x.d == 0 && x.c == 0 && decide (x.b.toNat < 16) && x.a == 0)) (fun x => (.vaacc (x.b.setWidth 4))) rfl rfl (by simp only [fits54] <;> rfl) (by simp only [narrow54])
theorem vafin (rs1 : BitVec 5) (vd : BitVec 5) : Statement (.vafin rs1 vd) := of_vector rfl rfl rfl rfl
theorem ixprop (rd : BitVec 5) (rs1 : BitVec 5) (vd : BitVec 5) : Statement (.ixprop rd rs1 vd) := of_vector rfl rfl rfl rfl
theorem ixacc (vs2 : BitVec 5) (vs1 : BitVec 5) (rd : BitVec 5) : Statement (.ixacc vs2 vs1 rd) := of_vector rfl rfl rfl rfl
theorem ixextv (km : BitVec 3) (vs2 : BitVec 5) (rs1 : BitVec 5) (rd : BitVec 5) : Statement (.ixextv km vs2 rs1 rd) := of_vector rfl rfl rfl rfl
theorem vstop (km : BitVec 3) (vs2 : BitVec 5) (rs1 : BitVec 5) (kd : BitVec 3) : Statement (.vstop km vs2 rs1 kd) :=
  of_vector' (fun x => (x.e == 1 && decide (x.a.toNat < 8))) (fun x => (.vstop x.d x.c x.b (x.a.setWidth 3))) rfl rfl (by simp only [fits53] <;> rfl) (by simp only [narrow53])
theorem mcfgAcq : Statement .mcfgAcq := of_tile rfl rfl rfl rfl
theorem mcfgRel : Statement .mcfgRel := of_tile rfl rfl rfl rfl
theorem mcfgSet (rs1 : BitVec 5) : Statement (.mcfgSet rs1) := of_tile rfl rfl rfl rfl
theorem mlds (q : BitVec 4) (fmt : BitVec 3) : Statement (.mlds q fmt) :=
  of_tile' (fun x y => (x.f == 0 && x.c == 0 && decide (x.b.toNat < 16) && x.a == 0 && x.e == 0 && x.d == 0 && y.tile == 0 && y.rows == 0 && y.epi == 0 && y.vb == 0 && y.rest == 0)) (fun x y => (.mlds (x.b.setWidth 4) y.fmt)) rfl rfl (by simp only [fits54] <;> rfl) (by simp only [narrow54])
theorem mswap : Statement .mswap := of_tile rfl rfl rfl rfl
theorem mstrm (va : BitVec 5) (vsc : BitVec 5) (tile : BitVec 2) (rows : BitVec 4) (fmt : BitVec 3) : Statement (.mstrm va vsc tile rows fmt) := of_tile rfl rfl rfl rfl
theorem mdrain (vd : BitVec 5) (tile : BitVec 2) (rows : BitVec 4) (fmt : BitVec 3) (epi : BitVec 2) (vb : BitVec 5) : Statement (.mdrain vd tile rows fmt epi vb) :=
  of_tile' (fun x y => (x.f == 0 && x.c == 0 && x.b == 0 && x.e == 0 && x.d == 0 && decide (y.epi.toNat < 4) && y.rest == 0)) (fun x y => (.mdrain x.a y.tile y.rows y.fmt (y.epi.setWidth 2) y.vb)) rfl rfl (by simp only [fits32] <;> rfl) (by simp only [narrow32])
theorem mzero (tile : BitVec 2) : Statement (.mzero tile) := of_tile rfl rfl rfl rfl
theorem mwait : Statement .mwait := of_tile rfl rfl rfl rfl
theorem mstrmExecute (core : Nat) : Statement (.mstrmExecute core) := of_none rfl
theorem mdrainExecute (core : Nat) : Statement (.mdrainExecute core) := of_none rfl
theorem mzeroExecute (core : Nat) : Statement (.mzeroExecute core) := of_none rfl
theorem mswapExecute (core : Nat) : Statement (.mswapExecute core) := of_none rfl
theorem mcfgSetExecute (core : Nat) : Statement (.mcfgSetExecute core) := of_none rfl
theorem leaseGrant (core : Nat) : Statement (.leaseGrant core) := of_none rfl
theorem hartStallEnd (hart : Nat) : Statement (.hartStallEnd hart) := of_none rfl
theorem tagRetire (hart : Nat) (tag : Nat) : Statement (.tagRetire hart tag) := of_none rfl
theorem viewAdvance (wid : Nat) (view : Option View) : Statement (.viewAdvance wid view) := of_none rfl
theorem tlbEviction (place : TlbPlace) (idx : Nat) : Statement (.tlbEviction place idx) := of_none rfl
theorem timerInterrupt (hart : Nat) : Statement (.timerInterrupt hart) := of_none rfl
theorem mailboxInterrupt (hart : Nat) : Statement (.mailboxInterrupt hart) := of_none rfl
theorem preemptionTrap (hart : Nat) : Statement (.preemptionTrap hart) := of_none rfl
theorem endOfBody (hart : Nat) : Statement (.endOfBody hart) := of_none rfl
theorem qcfgWrite (hart : Nat) (v : BitVec 64) : Statement (.qcfgWrite hart v) := of_none rfl
theorem sstatusLeave (hart : Nat) : Statement (.sstatusLeave hart) := of_none rfl
theorem viologWrite (hart : Nat) (v : BitVec 64) : Statement (.viologWrite hart v) := of_none rfl
theorem registerWrite (place : RegPlace) (v : BitVec 64) : Statement (.registerWrite place v) := of_none rfl
theorem copyUnit (core : Nat) : Statement (.copyUnit core) := of_none rfl
theorem copyComplete (core : Nat) (hart : Nat) (ticket : Nat) : Statement (.copyComplete core hart ticket) := of_none rfl
theorem trainAck (core : Nat) (hart : Nat) (ticket : Nat) (dev : Nat) (ok : Bool) : Statement (.trainAck core hart ticket dev ok) := of_none rfl
theorem barrierNotice (notice : Notice) : Statement (.barrierNotice notice) := of_none rfl
theorem poolValidate (pa : Nat) : Statement (.poolValidate pa) := of_none rfl
theorem sluiceFetch (die : Nat) : Statement (.sluiceFetch die) := of_none rfl
theorem sluiceDelivery (die : Nat) (sub : Nat) : Statement (.sluiceDelivery die sub) := of_none rfl
theorem stageReclaim (die : Nat) : Statement (.stageReclaim die) := of_none rfl
theorem sluiceRefetch (die : Nat) : Statement (.sluiceRefetch die) := of_none rfl
theorem lateJoinerService (die : Nat) : Statement (.lateJoinerService die) := of_none rfl
theorem partialMerge (die : Nat) (gseq : Nat) (mq : Nat) : Statement (.partialMerge die gseq mq) := of_none rfl
theorem queueNotify (die : Nat) (queue : Nat) (stream : Nat) (acc : NotifyAccess) : Statement (.queueNotify die queue stream acc) := of_none rfl
theorem queueServiceStep (die : Nat) (queue : Nat) : Statement (.queueServiceStep die queue) := of_none rfl
theorem queueMap (die : Nat) (queue : Nat) : Statement (.queueMap die queue) := of_none rfl
theorem queueUnmap (die : Nat) (queue : Nat) : Statement (.queueUnmap die queue) := of_none rfl
theorem launchReady (lid : Nat) : Statement (.launchReady lid) := of_none rfl
theorem placementDispatch (lid : Nat) (die : Nat) : Statement (.placementDispatch lid die) := of_none rfl
theorem temporalRedispatch (crew : Nat) : Statement (.temporalRedispatch crew) := of_none rfl
theorem crewEnd (crew : Nat) : Statement (.crewEnd crew) := of_none rfl
theorem launchAbandon (crew : Nat) : Statement (.launchAbandon crew) := of_none rfl
theorem sliceExpiry (die : Nat) (item : WaitItem) : Statement (.sliceExpiry die item) := of_none rfl
theorem preemptionRequest (die : Nat) (item : WaitItem) : Statement (.preemptionRequest die item) := of_none rfl
theorem switchOut (crew : Nat) : Statement (.switchOut crew) := of_none rfl
theorem crewResume (pid : Nat) : Statement (.crewResume pid) := of_none rfl
theorem contextLive (ctx : Nat) : Statement (.contextLive ctx) := of_none rfl
theorem contextQuiesce (ctx : Nat) : Statement (.contextQuiesce ctx) := of_none rfl
theorem contextTeardown (ctx : Nat) : Statement (.contextTeardown ctx) := of_none rfl
theorem teardownComplete (ctx : Nat) : Statement (.teardownComplete ctx) := of_none rfl
theorem contextRelease (ctx : Nat) : Statement (.contextRelease ctx) := of_none rfl
theorem patrolScrub (place : ScrubPlace) (found : ReadFault) : Statement (.patrolScrub place found) := of_none rfl
theorem channelRetire (ch : Nat) : Statement (.channelRetire ch) := of_none rfl
theorem rebuildRow (group : Nat) : Statement (.rebuildRow group) := of_none rfl
theorem coreSpare (core : Nat) (readable : Bool) : Statement (.coreSpare core readable) := of_none rfl
theorem rowRemap (place : RowPlace) (lines : Nat) (lost : List Nat) : Statement (.rowRemap place lines lost) := of_none rfl
theorem checkpointWrite : Statement .checkpointWrite := of_none rfl
theorem moduleReset (fail : Option Nat) : Statement (.moduleReset fail) := of_none rfl
theorem linkTrainingDone (port : Nat) (lanes : BitVec 4) (devnum : Nat) : Statement (.linkTrainingDone port lanes devnum) := of_none rfl
theorem laneFailure (port : Nat) (lane : Nat) : Statement (.laneFailure port lane) := of_none rfl
theorem lossOfSignal (port : Nat) : Statement (.lossOfSignal port) := of_none rfl
theorem flitReceive (port : Nat) (flit : Flit) : Statement (.flitReceive port flit) := of_none rfl
theorem flitReplay (port : Nat) : Statement (.flitReplay port) := of_none rfl
theorem requestTimeout (rid : Nat) : Statement (.requestTimeout rid) := of_none rfl
theorem atsInvalidation (pasid : Nat) (iova : Nat) (len : Nat) : Statement (.atsInvalidation pasid iova len) := of_none rfl
theorem invalidationCompletion : Statement .invalidationCompletion := of_none rfl
theorem hostBar2Access (acc : HostAccess) : Statement (.hostBar2Access acc) := of_none rfl
theorem tdispRequest (world : Nat) (msg : TdispMsg) : Statement (.tdispRequest world msg) := of_none rfl
theorem ideKm (stream : Nat) (key : IdeKey) : Statement (.ideKm stream key) := of_none rfl
theorem getMeasurements (world : Nat) (nonce : List (BitVec 8)) : Statement (.getMeasurements world nonce) := of_none rfl
theorem telemetryRead (counter : Nat) (stream : Nat) (acc : TelemetryAccess) : Statement (.telemetryRead counter stream acc) := of_none rfl
theorem mailboxDoorbell (req : List (BitVec 8)) : Statement (.mailboxDoorbell req) := of_none rfl
theorem qbind (die : Nat) (queue : Nat) (ctx : Nat) (va : Nat) : Statement (.qbind die queue ctx va) := of_none rfl
theorem qunbind (die : Nat) (queue : Nat) : Statement (.qunbind die queue) := of_none rfl
theorem partset (mask : BitVec 8) : Statement (.partset mask) := of_none rfl
theorem clkset (part : Nat) (mhz : Nat) : Statement (.clkset part mhz) := of_none rfl
theorem pwrlim (watts : Nat) : Statement (.pwrlim watts) := of_none rfl
theorem slice (log2 : Nat) : Statement (.slice log2) := of_none rfl
theorem linkEnable (port : Nat) : Statement (.linkEnable port) := of_none rfl
theorem linkDisable (port : Nat) : Statement (.linkDisable port) := of_none rfl
theorem linkRetire (port : Nat) : Statement (.linkRetire port) := of_none rfl
theorem chretire (ch : Nat) : Statement (.chretire ch) := of_none rfl
theorem revoke (core : Nat) : Statement (.revoke core) := of_none rfl
theorem ckpt : Statement .ckpt := of_none rfl
theorem apmap (page : Nat) (ctx : Nat) (rights : BitVec 2) (base : Nat) (len : Nat) : Statement (.apmap page ctx rights base len) := of_none rfl
theorem apmapUnmap (page : Nat) : Statement (.apmapUnmap page) := of_none rfl
theorem logread (first : Nat) (count : Nat) : Statement (.logread first count) := of_none rfl
theorem timer (hart : Nat) (value : BitVec 64) : Statement (.timer hart value) := of_none rfl
theorem wopen (world : Nat) : Statement (.wopen world) := of_none rfl
theorem wadmit (world : Nat) (ctx : Nat) : Statement (.wadmit world ctx) := of_none rfl
theorem lgtag (core : Nat) (world : Nat) (mask : BitVec 16) : Statement (.lgtag core world mask) := of_none rfl
theorem ftag (world : Nat) (frame : Nat) : Statement (.ftag world frame) := of_none rfl
theorem tlset (world : Nat) (chunk : Nat) (bits : List (BitVec 8)) : Statement (.tlset world chunk bits) := of_none rfl
theorem werase (world : Nat) : Statement (.werase world) := of_none rfl
theorem attest (world : Nat) (nonce : List (BitVec 8)) : Statement (.attest world nonce) := of_none rfl
theorem wexport (world : Nat) (report : List (BitVec 8)) (modulus : List (BitVec 8)) (chain : List (BitVec 8)) : Statement (.wexport world report modulus chain) := of_none rfl
theorem wimport (world : Nat) (blob : List (BitVec 8)) : Statement (.wimport world blob) := of_none rfl
theorem mrext (world : Nat) (digest : List (BitVec 8)) : Statement (.mrext world digest) := of_none rfl
theorem cert : Statement .cert := of_none rfl
theorem powerSample (milliwatts : Nat) (temps : List Nat) : Statement (.powerSample milliwatts temps) := of_none rfl
theorem throttleStep (part : Nat) : Statement (.throttleStep part) := of_none rfl
theorem reservedEncoding : Statement .reservedEncoding := of_none rfl
theorem fetchFault (cause : Nat) (addr : BitVec 64) : Statement (.fetchFault cause addr) := of_none rfl
theorem hostCompletion (rid : Nat) (ans : HostAnswer) : Statement (.hostCompletion rid ans) := of_none rfl

end Sys2Proof.Laws.RoundTrip
end

