-- ==== Sys2Proof/Laws/Rsa.lean ====
section
/-! SUPPORT. The key exchange of worlds: a private operation undoes the public one, and a blob sealed for the device's own key opens to what
was sealed. -/

namespace Sys2Proof.Machine

/-! ### RSA -/

theorem powMod_eq (m k b e acc : Nat) (h : e < 2 ^ k) : powMod m k b e acc = acc * b ^ e % m := by
  induction k generalizing b e acc with
  | zero =>
    have : e = 0 := by omega
    subst this
    simp [powMod]
  | succ k ih =>
    have he : e / 2 < 2 ^ k := by omega
    rw [powMod, ih _ _ _ he]
    have hb : ∀ a : Nat, a * (b * b % m) ^ (e / 2) % m = a * b ^ (2 * (e / 2)) % m := by
      intro a
      rw [Nat.mul_mod, Nat.pow_mod, Nat.mod_mod, ← Nat.pow_mod, ← Nat.mul_mod, pow_mul, pow_two]
    rw [hb]
    split
    · rename_i ho
      rw [Nat.mul_mod, Nat.mod_mod, ← Nat.mul_mod, mul_assoc, ← pow_succ', show 2 * (e / 2) + 1 = e by omega]
    · rw [show 2 * (e / 2) = e by omega]

theorem pow_prime {p x k : Nat} (hp : p.Prime) : x ^ (k * (p - 1) + 1) ≡ x [MOD p] := by
  by_cases h : p ∣ x
  · exact (Nat.modEq_zero_iff_dvd.mpr (dvd_pow h (by omega))).trans (Nat.modEq_zero_iff_dvd.mpr h).symm
  · have c : x.Coprime p := ((hp.coprime_iff_not_dvd).mpr h).symm
    have e : x ^ (p - 1) ≡ 1 [MOD p] := by rw [← Nat.totient_prime hp]; exact Nat.ModEq.pow_totient c
    have := (e.pow k).mul_right x
    rwa [one_pow, one_mul, ← pow_mul, mul_comm (p - 1), ← pow_succ] at this

/-- The device's key pair is one: its primes are primes, different, and 65,537 has an inverse; its modulus has 3,072 bits. -/
structure RsaKeyOk : Prop where
  p : Config.rsaP.Prime
  q : Config.rsaQ.Prime
  ne : Config.rsaP ≠ Config.rsaQ
  inv : Nat.Coprime 65537 ((Config.rsaP - 1) * (Config.rsaQ - 1))
  low : 2 ^ 3064 ≤ Config.rsaModulus
  high : Config.rsaModulus < 2 ^ 3072

theorem RsaKeyOk.phi_pos (k : RsaKeyOk) : 0 < (Config.rsaP - 1) * (Config.rsaQ - 1) :=
  Nat.mul_pos (by have := k.p.two_le; omega) (by have := k.q.two_le; omega)

theorem RsaKeyOk.private_lt (k : RsaKeyOk) : Config.rsaPrivate < 2 ^ 3072 := by
  have h := k.phi_pos
  have lt : Config.rsaPrivate < (Config.rsaP - 1) * (Config.rsaQ - 1) := by
    unfold Config.rsaPrivate
    have := Int.emod_lt_of_pos (Nat.gcdA 65537 ((Config.rsaP - 1) * (Config.rsaQ - 1))) (show (0 : Int) < ((Config.rsaP - 1) * (Config.rsaQ - 1) : Nat) by exact_mod_cast h)
    omega
  have le : (Config.rsaP - 1) * (Config.rsaQ - 1) ≤ Config.rsaModulus := Nat.mul_le_mul (Nat.sub_le _ _) (Nat.sub_le _ _)
  exact lt.trans (lt_of_le_of_lt le k.high)

theorem RsaKeyOk.inverse (k : RsaKeyOk) : ∃ j, 65537 * Config.rsaPrivate = j * ((Config.rsaP - 1) * (Config.rsaQ - 1)) + 1 := by
  have h := k.phi_pos
  have two : 2 ≤ (Config.rsaP - 1) * (Config.rsaQ - 1) := by
    have hp := k.p.two_le
    have hq := k.q.two_le
    have ne := k.ne
    rcases Nat.lt_or_ge 2 Config.rsaP with h3 | h3
    · exact (show 2 ≤ Config.rsaP - 1 by omega).trans (Nat.le_mul_of_pos_right _ (by omega))
    · have : 2 ≤ Config.rsaQ - 1 := by omega
      exact this.trans (Nat.le_mul_of_pos_left _ (by omega))
  unfold Config.rsaPrivate
  generalize hn : (Config.rsaP - 1) * (Config.rsaQ - 1) = n at *
  have c : Nat.gcd 65537 n = 1 := by rw [← hn]; exact k.inv
  have b := Nat.gcd_eq_gcd_ab 65537 n
  rw [c] at b
  have pos : (0 : Int) ≤ Nat.gcdA 65537 n % (n : Int) := Int.emod_nonneg _ (by omega)
  generalize hd : (Nat.gcdA 65537 n % (n : Int)).toNat = d
  have hd' : (d : Int) = Nat.gcdA 65537 n % (n : Int) := by rw [← hd]; exact Int.toNat_of_nonneg pos
  have m : (65537 * (d : Int)) ≡ 1 [ZMOD (n : Int)] := by
    rw [hd']
    have : (1 : Int) = 65537 * Nat.gcdA 65537 n + n * Nat.gcdB 65537 n := by exact_mod_cast b
    calc (65537 * (Nat.gcdA 65537 n % (n : Int))) ≡ 65537 * Nat.gcdA 65537 n [ZMOD (n : Int)] := (Int.mod_modEq _ _).mul_left _
      _ ≡ 1 [ZMOD (n : Int)] := by
        rw [this]
        exact (Int.modEq_iff_dvd.mpr ⟨Nat.gcdB 65537 n, by ring⟩)
  obtain ⟨j, hj⟩ := Int.modEq_iff_dvd.mp m.symm
  refine ⟨j.toNat, ?_⟩
  have h1 : 65537 * (d : Int) = n * j + 1 := by linarith
  have hj0 : 0 ≤ j := by
    by_contra hneg
    have : (n : Int) * j ≤ -n := by nlinarith
    have : (2 : Int) ≤ n := by exact_mod_cast two
    omega
  have : ((j.toNat : Nat) : Int) = j := Int.toNat_of_nonneg hj0
  have : ((65537 * d : Nat) : Int) = ((j.toNat * n + 1 : Nat) : Int) := by
    push_cast
    rw [this, h1]
    ring
  exact_mod_cast this

/-- The private operation undoes the public one. -/
theorem rsaOwn_public (k : RsaKeyOk) {x : Nat} (h : x < Config.rsaModulus) : rsaOwn (rsaPublic Config.rsaModulus x) = x := by
  unfold rsaOwn rsaPublic
  rw [powMod_eq _ _ _ _ _ k.private_lt, powMod_eq _ _ _ _ _ (by decide), one_mul, one_mul, ← Nat.pow_mod, ← pow_mul]
  obtain ⟨j, hj⟩ := k.inverse
  rw [hj]
  have c : Nat.Coprime Config.rsaP Config.rsaQ := (Nat.coprime_primes k.p k.q).mpr k.ne
  have key : x ^ (j * ((Config.rsaP - 1) * (Config.rsaQ - 1)) + 1) ≡ x [MOD Config.rsaP * Config.rsaQ] := by
    refine (Nat.modEq_and_modEq_iff_modEq_mul c).mp ⟨?_, ?_⟩
    · rw [mul_comm (Config.rsaP - 1), ← mul_assoc]; exact pow_prime k.p
    · rw [← mul_assoc]; exact pow_prime k.q
  exact Eq.trans key (Nat.mod_eq_of_lt h)

/-! ### SHA-256 and MGF1 give as many bytes as they should -/

theorem shaRound_length (h : List (BitVec 32)) (a b : BitVec 32) : (shaRound h a b).length = h.length := by
  unfold shaRound
  split <;> rfl
theorem shaBlock_length (h : List (BitVec 32)) (b : List Byte) : (shaBlock h b).length = h.length := by
  unfold shaBlock
  dsimp only
  generalize List.zip _ _ = l
  have : ∀ g : List (BitVec 32), (l.foldl (fun h kw => shaRound h (sha32 kw.1) kw.2) g).length = g.length := by
    induction l with
    | nil => exact fun _ => rfl
    | cons e r ih => exact fun g => (ih _).trans (shaRound_length _ _ _)
  rw [List.length_zipWith, this, min_self]
theorem shaBlocks_length (n : Nat) (h : List (BitVec 32)) (b : List Byte) : (shaBlocks n h b).length = h.length := by
  induction n generalizing h b with
  | zero => rfl
  | succ n ih => exact (ih _ _).trans (shaBlock_length _ _)
@[simp] theorem sha256_length (m : List Byte) : (sha256 m).length = 32 := by
  unfold sha256
  dsimp only
  have : ∀ l : List (BitVec 32), (l.flatMap fun w => beBytesOf 4 w.toNat).length = 4 * l.length := by
    intro l
    induction l with
    | nil => rfl
    | cons e r ih => rw [List.flatMap_cons, List.length_append, ih, beBytesOf, List.length_reverse, leBytesOf_length, List.length_cons]; omega
  rw [this, shaBlocks_length]
  rfl
@[simp] theorem mgf1_length (seed : List Byte) (n : Nat) : (mgf1 seed n).length = n := by
  unfold mgf1
  have : ∀ l : List Nat, (l.flatMap fun i => sha256 (seed ++ beBytesOf 4 i)).length = 32 * l.length := by
    intro l
    induction l with
    | nil => rfl
    | cons e r ih => rw [List.flatMap_cons, List.length_append, ih, sha256_length, List.length_cons]; omega
  rw [List.length_take, this, List.length_range]
  omega
@[simp] theorem xorBytes_length (a b : List Byte) : (xorBytes a b).length = min a.length b.length := by simp [xorBytes]
/-- A mask applied twice is taken off. -/
theorem xorBytes_twice (a b : List Byte) (h : a.length ≤ b.length) : xorBytes (xorBytes a b) b = a := by
  induction a generalizing b with
  | nil => rfl
  | cons x r ih =>
    cases b with
    | nil => simp at h
    | cons y t =>
      simp only [xorBytes, List.zipWith_cons_cons] at ih ⊢
      rw [ih t (by simpa using h), BitVec.xor_assoc, BitVec.xor_self, BitVec.xor_zero]

/-! ### OAEP -/

theorem beValue_append (a b : List Byte) : beValue (a ++ b) = beValue a * 256 ^ b.length + beValue b := by
  have g : ∀ (l : List Byte) (n : Nat), l.foldl (fun a b => 256 * a + b.toNat) n = n * 256 ^ l.length + l.foldl (fun a b => 256 * a + b.toNat) 0 := by
    intro l
    induction l with
    | nil => intro n; simp
    | cons e r ih =>
      intro n
      rw [List.foldl_cons, List.foldl_cons, ih, ih (256 * 0 + e.toNat), List.length_cons, pow_succ]
      ring
  unfold beValue
  rw [List.foldl_append, g]
theorem beValue_reverse (l : List Byte) : beValue l.reverse = leValue l := by
  induction l with
  | nil => rfl
  | cons e r ih =>
    rw [List.reverse_cons, beValue_append, ih]
    simp [beValue, leValue]
    ring
theorem leBytesOf_leValue (l : List Byte) : leBytesOf l.length (leValue l) = l := by
  induction l with
  | nil => rfl
  | cons e r ih =>
    have he : e.toNat < 256 := e.isLt
    simp only [List.length_cons, leValue, leBytesOf]
    rw [show (e.toNat + 256 * leValue r) / 256 = leValue r by omega, ih]
    congr 1
    apply BitVec.eq_of_toNat_eq
    simp only [BitVec.toNat_ofNat]
    omega
theorem beBytesOf_beValue (l : List Byte) : beBytesOf l.length (beValue l) = l := by
  have := leBytesOf_leValue l.reverse
  rw [List.length_reverse, ← beValue_reverse, List.reverse_reverse] at this
  rw [beBytesOf, this, List.reverse_reverse]
theorem beValue_lt (l : List Byte) : beValue l < 256 ^ l.length := by
  have h : ∀ m : List Byte, leValue m < 256 ^ m.length := by
    intro m
    induction m with
    | nil => simp [leValue]
    | cons e r ih =>
      have := e.isLt
      simp only [leValue, List.length_cons, pow_succ]
      omega
  have := h l.reverse
  rwa [List.length_reverse, ← beValue_reverse, List.reverse_reverse] at this

/-- What stands before the message in a data block: the hash of the empty label, zeros and 1. -/
theorem oaepHead_length : (sha256 [] ++ List.replicate 254 0 ++ [1] : List Byte).length = 287 := by
  rw [List.length_append, List.length_append, sha256_length, List.length_replicate]; rfl
theorem oaepEncode_length (msg seed : List Byte) (h : msg.length = 64) (hs : seed.length = 32) : (oaepEncode msg seed).length = 384 := by
  unfold oaepEncode
  dsimp only
  have l : (sha256 [] ++ List.replicate 254 0 ++ [1] ++ msg : List Byte).length = 351 := by rw [List.length_append, oaepHead_length, h]
  rw [List.length_append, List.length_append, xorBytes_length, xorBytes_length, mgf1_length, mgf1_length, l, hs]
  rfl
/-- A block of the right form is decoded to its message. -/
theorem oaepDecode_parts (ms mdb seed msg : List Byte) (ls : ms.length = 32) (lm : mdb.length = 351) (d3 : xorBytes ms (mgf1 mdb 32) = seed)
    (d4 : xorBytes mdb (mgf1 seed 351) = sha256 [] ++ List.replicate 254 0 ++ [1] ++ msg) : oaepDecode ([0] ++ ms ++ mdb) = some msg := by
  have d1 : ([0] ++ ms ++ mdb : List Byte).drop 33 = mdb := by
    rw [show 33 = ([0] ++ ms : List Byte).length by rw [List.length_append, ls]; rfl, List.drop_left]
  have d2 : (([0] ++ ms ++ mdb : List Byte).drop 1).take 32 = ms := by
    rw [List.append_assoc, List.drop_left' (show ([0] : List Byte).length = 1 by rfl), List.take_left' ls]
  have t1 : (sha256 [] ++ List.replicate 254 0 ++ [1] ++ msg : List Byte).take 287 = sha256 [] ++ List.replicate 254 0 ++ [1] :=
    List.take_left' oaepHead_length
  have t2 : (sha256 [] ++ List.replicate 254 0 ++ [1] ++ msg : List Byte).drop 287 = msg := List.drop_left' oaepHead_length
  have len : ([0] ++ ms ++ mdb : List Byte).length = 384 := by rw [List.length_append, List.length_append, ls, lm]; rfl
  have hd : ([0] ++ ms ++ mdb : List Byte).headD 0 = 0 := rfl
  unfold oaepDecode
  simp only [d1, d2, d3, d4, t1, t2, len, hd, decide_true, Bool.and_self, if_true]
theorem oaepDecode_encode (msg seed : List Byte) (h : msg.length = 64) (hs : seed.length = 32) : oaepDecode (oaepEncode msg seed) = some msg := by
  have l : (sha256 [] ++ List.replicate 254 0 ++ [1] ++ msg : List Byte).length = 351 := by rw [List.length_append, oaepHead_length, h]
  refine oaepDecode_parts _ _ seed msg ?_ ?_ (xorBytes_twice _ _ ?_) (xorBytes_twice _ _ ?_)
  · rw [xorBytes_length, mgf1_length, hs]; rfl
  · rw [xorBytes_length, mgf1_length, l]; rfl
  · rw [mgf1_length, hs]
  · rw [mgf1_length, l]

/-- Keys sealed for the device's own key are the keys that open from it (R458). -/
theorem oaepOpen_seal (k : RsaKeyOk) (msg seed : List Byte) (h : msg.length = 64) (hs : seed.length = 32) :
    oaepOpen (oaepSeal Config.rsaModulus msg seed) = some msg := by
  have len := oaepEncode_length msg seed h hs
  have small : beValue (oaepEncode msg seed) < Config.rsaModulus := by
    refine lt_of_lt_of_le ?_ k.low
    have e : beValue (oaepEncode msg seed) = beValue ((oaepEncode msg seed).drop 1) := by
      unfold oaepEncode
      dsimp only
      rw [List.append_assoc, beValue_append, show beValue [0] = 0 by rfl, zero_mul, zero_add]
      rfl
    rw [e]
    have := beValue_lt ((oaepEncode msg seed).drop 1)
    rw [List.length_drop, len] at this
    calc _ < 256 ^ (384 - 1) := this
      _ = 2 ^ 3064 := by rw [show (256 : Nat) = 2 ^ 8 by rfl, ← pow_mul]
  have lt : oaepSeal Config.rsaModulus msg seed < Config.rsaModulus := by
    unfold oaepSeal rsaPublic
    rw [powMod_eq _ _ _ _ _ (by decide)]
    exact Nat.mod_lt _ (lt_of_le_of_lt (Nat.zero_le _) small)
  unfold oaepOpen
  rw [if_neg (by omega)]
  unfold oaepSeal
  rw [rsaOwn_public k small]
  have := beBytesOf_beValue (oaepEncode msg seed)
  rw [len] at this
  rw [this]
  exact oaepDecode_encode msg seed h hs

end Sys2Proof.Machine
end

