-- ==== Sys2Proof/Laws/VReg.lean ====
section
/-! SUPPORT. Fields of a register and elements of a vector register: what a write leaves, bit by bit. -/

namespace Sys2Proof.Machine

/-- A number with a field replaced, bit by bit. -/
theorem testBit_putBits (v lo w f b : Nat) :
    (putBits v lo w f).testBit b = if lo ≤ b ∧ b < lo + w then f.testBit (b - lo) else v.testBit b := by
  have e : putBits v lo w f = 2 ^ lo * (2 ^ w * (v / 2 ^ (lo + w)) + f % 2 ^ w) + v % 2 ^ lo := by
    unfold putBits; rw [Nat.pow_add]; ring
  rw [e, Nat.testBit_two_pow_mul_add _ (Nat.mod_lt _ (by positivity))]
  split
  · rw [if_neg (by omega), Nat.testBit_mod_two_pow]; simp_all
  · rw [Nat.testBit_two_pow_mul_add _ (Nat.mod_lt _ (by positivity))]
    split
    · rw [if_pos (by omega), Nat.testBit_mod_two_pow]; simp_all
    · rw [if_neg (by omega), Nat.testBit_div_two_pow]; congr 1; omega
/-- A register with a field replaced, bit by bit. -/
theorem getLsbD_setField {n : Nat} (r : BitVec n) (lo w f b : Nat) (hb : b < n) :
    (setField r lo w f).getLsbD b = if lo ≤ b ∧ b < lo + w then f.testBit (b - lo) else r.getLsbD b := by
  rw [setField, BitVec.getLsbD_ofNat, testBit_putBits]
  simp only [hb, decide_true, Bool.true_and]
  rfl
/-- A field read is its bits. -/
theorem testBit_getField {n : Nat} (r : BitVec n) (lo w b : Nat) : (getField r lo w).testBit b = (decide (b < w) && r.getLsbD (lo + b)) := by
  rw [getField, Nat.testBit_mod_two_pow, Nat.testBit_div_two_pow, Nat.add_comm]; rfl
theorem getField_setField_same {n : Nat} (r : BitVec n) (lo w f : Nat) (h : lo + w ≤ n) : getField (setField r lo w f) lo w = f % 2 ^ w := by
  apply Nat.eq_of_testBit_eq; intro b
  rw [testBit_getField, Nat.testBit_mod_two_pow]
  by_cases hb : b < w
  · rw [getLsbD_setField r lo w f (lo + b) (by omega), if_pos (by omega)]; simp
  · simp [hb]
theorem getField_setField_apart {n : Nat} (r : BitVec n) (lo w f lo' w' : Nat) (h : lo' + w' ≤ n) (ha : lo' + w' ≤ lo ∨ lo + w ≤ lo') :
    getField (setField r lo w f) lo' w' = getField r lo' w' := by
  apply Nat.eq_of_testBit_eq; intro b
  rw [testBit_getField, testBit_getField]
  by_cases hb : b < w'
  · rw [getLsbD_setField r lo w f (lo' + b) (by omega), if_neg (by omega)]
  · simp [hb]

/-- The register that an element is written to, and the others. -/
theorem setElem_vr_same (h : Hart) (r : BitVec 5) (w i v : Nat) : (h.setElem r w i v).vr r = setField (h.vr r) (w * i) w v := by
  simp [Hart.setElem, Hart.vr]
theorem setElem_vr_ne (h : Hart) (r q : BitVec 5) (w i v : Nat) (n : q ≠ r) : (h.setElem r w i v).vr q = h.vr q := by
  have hn : r.toNat ≠ q.toNat := fun e => n (BitVec.eq_of_toNat_eq e.symm)
  simp only [Hart.setElem, Hart.vr]
  exact Vector.getElem_set_ne r.isLt q.isLt hn
/-- An element written reads back; another element of its width, or any of another register, is as before. -/
theorem setElem_elem_same (h : Hart) (r : BitVec 5) (w i v : Nat) (hi : w * i + w ≤ 16384) : (h.setElem r w i v).elem r w i = v % 2 ^ w := by
  rw [Hart.elem, setElem_vr_same]; exact getField_setField_same _ _ _ _ hi
theorem setElem_elem_index (h : Hart) (r : BitVec 5) (w i j v : Nat) (hj : w * j + w ≤ 16384) (n : i ≠ j) :
    (h.setElem r w i v).elem r w j = h.elem r w j := by
  rw [Hart.elem, setElem_vr_same]
  refine getField_setField_apart _ _ _ _ _ _ hj ?_
  rcases Nat.lt_or_gt_of_ne n with l | l
  · right; calc w * i + w = w * (i + 1) := by ring
      _ ≤ w * j := Nat.mul_le_mul_left w l
  · left; calc w * j + w = w * (j + 1) := by ring
      _ ≤ w * i := Nat.mul_le_mul_left w l
theorem setElem_elem_ne (h : Hart) (r q : BitVec 5) (w w' i j v : Nat) (n : q ≠ r) : (h.setElem r w i v).elem q w' j = h.elem q w' j := by
  rw [Hart.elem, setElem_vr_ne h r q w i v n]; rfl
/-- A mask bit written reads back; the other bits and registers are as before. -/
theorem setK_kr (h : Hart) (r i b : Nat) (v : Bool) (hb : b < 4096) :
    ((h.setK r i v).kr r).getLsbD b = if b = i then v else (h.kr r).getLsbD b := by
  have e : (h.setK r i v).kr r = setField (h.kr r) i 1 (if v then 1 else 0) := by simp [Hart.setK, Hart.kr]
  rw [e, getLsbD_setField _ _ _ _ _ hb]
  by_cases hi : b = i
  · subst hi; rw [if_pos (by omega), if_pos rfl]; cases v <;> simp
  · rw [if_neg (by omega), if_neg hi]
theorem setK_kr_ne (h : Hart) (r q i : Nat) (v : Bool) (n : r % 8 ≠ q % 8) : (h.setK r i v).kr q = h.kr q := by
  simp only [Hart.setK, Hart.kr, Fin.getElem_fin, Fin.val_ofNat]
  exact Vector.getElem_set_ne _ _ n

end Sys2Proof.Machine
end

