-- ==== Sys2Proof/Tests/Base.lean ====
section
/-! SUPPORT. Small states for the tests: reset with one hart executing, a page mapped, a unit's memory placed. -/

namespace Sys2Proof.Tests
set_option Elab.async false
open Sys2Proof Sys2Proof.Machine Sys2Proof.Claims

/-- Reset with hart `n` executing, changed by `f`. -/
def run (n : Fin 512) (f : Hart → Hart) : State := { State.reset with cur := n }.mapMe f
/-- The first core translates the first gigabyte of context 0 to the first of HBM, with every right of user mode but execution. -/
def mapped (s : State) : State := s.mapCore 0 fun c => { c with tlb := [⟨0, 0, 0x4000_0000, 0x2F⟩] }
/-- The access hart of crew 0 with that page. -/
def acc : State := mapped (run 0 id)
/-- The execute hart of crew 0 with that page, vstate clean, and four words of 32 bits in one lane group. -/
def exe : State := mapped (run 1 fun h => { h with vl := 4, lanes := [0], vtype := 2 })
/-- The same with float elements: single precision, and in blocks of 16. -/
def flt : State := mapped (run 1 fun h => { h with vl := 4, lanes := [0], vtype := 6 })
def blk : State := mapped (run 1 fun h => { h with vl := 16, lanes := [0], vtype := 38 })
/-- The first core translates a second gigabyte to the pool memory of die 0 as well. -/
def pooled (s : State) : State :=
  s.mapCore 0 fun c => { c with tlb := [⟨0, 0, 0x4000_0000, 0x2F⟩, ⟨0, 0x4000_0000, 0x4000_0000, 0x200_0000_002F⟩] }
/-- `n` bytes of memory at `pa`. -/
def put (pa n v : Nat) (s : State) : State := { s with mem := SMap.setRange 0 s.mem pa (leBytesOf n v) }
/-- The same hart in supervisor mode. -/
def privileged (s : State) : State := s.mapMe fun h => { h with sup := true }
/-- Chute 1 of crew 0 with these entries. -/
def holding (s : State) (es : List ChEntry) : State := s.mapCrew 0 fun c => { c with chutes := c.chutes.set 1 { Chute.empty false with entries := es } }

theorem ok_of {ε α : Type} {r : State × Except ε α} (h : (match r.2 with | .ok _ => true | .error _ => false) = true) :
    ∃ u b, r = (u, .ok b) := by
  obtain ⟨u, e⟩ := r
  cases e with
  | ok b => exact ⟨u, b, rfl⟩
  | error e => cases h

theorem some_of {α : Type} {r : State × Option α} (h : r.2.isSome = true) : ∃ v x, r = (v, some x) := by
  obtain ⟨v, o⟩ := r
  cases o with
  | none => cases h
  | some x => exact ⟨v, x, rfl⟩
/-- A reading that succeeds, with a check of what it leaves. -/
def passes {ε α : Type} (r : State × Except ε α) (p : State → α → Bool) : Bool :=
  match r with
  | (u, .ok b) => p u b
  | (_, .error _) => false
theorem then_of {ε α : Type} {r : State × Except ε α} {p : State → α → Bool} (h : passes r p = true) : ∃ u b, r = (u, .ok b) ∧ p u b = true := by
  obtain ⟨u, e⟩ := r
  cases e with
  | ok b => exact ⟨u, b, rfl, h⟩
  | error e => cases h
theorem okM_of {ε α : Type} {r : EStateM.Result ε State α} (h : (match r with | .ok _ _ => true | .error _ _ => false) = true) :
    ∃ a u, r = .ok a u := by
  cases r with
  | ok a u => exact ⟨a, u, rfl⟩
  | error e u => cases h
theorem none_of {α : Type} {r : State × Option α} (h : r.2.isNone = true) : ∃ v, r = (v, none) := by
  obtain ⟨v, o⟩ := r
  cases o with
  | none => exact ⟨v, rfl⟩
  | some x => cases h

/-- An address that the TLB of the core holds. -/
theorem placed_of {s : State} {va pa : Nat} {acc : Acc} (h : s.locate (s.reqFor s.cur) va acc = (s, .ok (.local pa)))
    (t : (tlbFind (s.coreAt (s.reqFor s.cur).core).tlb (s.reqFor s.cur).ctx va).isSome = true) : placed s va acc pa := ⟨h, .inr t⟩
/-- Memory of world 0 takes every write. -/
theorem steady_of {s : State} {pa n : Nat} (h : (linesOf pa n).all (fun l => s.tagOf (l * 64) == 0) = true) : steady s pa n :=
  fun l hl => .inl (by simpa using List.all_eq_true.mp h l hl)

/-- An active element lies below the length. -/
theorem below {h : Hart} {km : BitVec 3} {n : Nat} {P : Nat → Prop} (p : ∀ j, j < n → P j) : ∀ j, active h km n j = true → P j := by
  intro j hj
  simp only [active, Bool.and_eq_true, decide_eq_true_eq] at hj
  exact p j hj.1.2

theorem acc_memOk : acc.memOk := ⟨by decide +kernel, fun m h => by cases h⟩
theorem exe_memOk : exe.memOk := ⟨by decide +kernel, fun m h => by cases h⟩

end Sys2Proof.Tests
end

