-- ==== Sys2Proof/Tests/Slice0.lean ====
section
/-! SUPPORT. The smoke test of WellFormed (a term that each check refuses), and the decoding of words written out from the encoding
tables of the spec (R83 to R102), for every instruction that has an encoding, and of words that the tables reserve. -/

namespace Sys2Proof.Tests
set_option Elab.async false
open Sys2Proof

/-! ### Terms that WellFormed refuses -/

theorem test_ill_formed_1 : (
    [.cLi 0 0, .cAddi 0 0, .cMv 0 0, .cAdd 0 0, .cJr 0, .amoswapD 0 5 0 0 0, .amoaddD 0 5 0 0 0, .amoandD 0 5 0 0 0, .amoorD 0 5 0 0 0, .amoxorD 0 5 0
     0 0, .amominD 0 5 0 0 0, .amomaxD 0 5 0 0 0, .amominuD 0 5 0 0 0, .amomaxuD 0 5 0 0 0, .amocasD 0 5 0 0 0, .ldaD 5 0 0, .stlD 5 0 0, .amoswapW 0
     5 0 0 0, .amoaddW 0 5 0 0 0, .amoandW 0 5 0 0 0, .amoorW 0 5 0 0 0, .amoxorW 0 5 0 0 0, .amominW 0 5 0 0 0, .amomaxW 0 5 0 0 0, .amominuW 0 5 0 0
     0, .amomaxuW 0 5 0 0 0, .amocasW 0 5 0 0 0, .ldaW 5 0 0, .stlW 5 0 0, .fence 5 0 0, .fenceX 5 0 0, .fenceX 0 5 0, .fenceX 0 0 5, .fenceT 5 0 0 0,
     .tclr 2 8, .tjoin 2 0 8 0, .tjoin 0 2 0 8, .vadd 3 0 0 16 0, .vsub 3 0 0 16 0, .vrsub 3 0 0 16 0] : List Instr).all (fun i => !wellFormed i) = true := rfl
theorem test_ill_formed_2 : (
    [.vmin 3 0 0 16 0, .vmax 3 0 0 16 0, .vminu 3 0 0 16 0, .vmaxu 3 0 0 16 0, .vand 3 0 0 16 0, .vor 3 0 0 16 0, .vxor 3 0 0 16 0, .vsll 3 0 0 16 0,
     .vsrl 3 0 0 16 0, .vsra 3 0 0 16 0, .vsadd 3 0 0 16 0, .vssub 3 0 0 16 0, .vmerge 3 1 0 16 0, .vmerge 0 0 0 0 0, .vmul 2 0 0 0 0, .vmul 3 0 0 16
     0, .vmulh 2 0 0 0 0, .vmulh 3 0 0 16 0, .vmulhu 2 0 0 0 0, .vmulhu 3 0 0 16 0, .vdiv 2 0 0 0 0, .vdiv 3 0 0 16 0, .vdivu 2 0 0 0 0, .vdivu 3 0 0
     16 0, .vrem 2 0 0 0 0, .vrem 3 0 0 16 0, .vremu 2 0 0 0 0, .vremu 3 0 0 16 0, .vmacc 2 0 0 0 0, .vmacc 3 0 0 16 0, .vmv 3 0 16 0, .vmseq 3 0 0 16
     0, .vmsne 3 0 0 16 0, .vmslt 3 0 0 16 0, .vmsltu 3 0 0 16 0, .vmsle 3 0 0 16 0, .vmsleu 3 0 0 16 0, .vmsgt 3 0 0 16 0, .vmsgtu 3 0 0 16 0, .vmfeq
     2 0 0 0 0] : List Instr).all (fun i => !wellFormed i) = true := rfl
theorem test_ill_formed_3 : (
    [.vmfeq 3 0 0 16 0, .vmfne 2 0 0 0 0, .vmfne 3 0 0 16 0, .vmflt 2 0 0 0 0, .vmflt 3 0 0 16 0, .vmfle 2 0 0 0 0, .vmfle 3 0 0 16 0, .vfadd 2 0 0 0
     0, .vfadd 3 0 0 16 0, .vfsub 2 0 0 0 0, .vfsub 3 0 0 16 0, .vfmul 2 0 0 0 0, .vfmul 3 0 0 16 0, .vfdiv 2 0 0 0 0, .vfdiv 3 0 0 16 0, .vfmin 2 0 0
     0 0, .vfmin 3 0 0 16 0, .vfmax 2 0 0 0 0, .vfmax 3 0 0 16 0, .vfsgnj 2 0 0 0 0, .vfsgnj 3 0 0 16 0, .vfsgnjn 2 0 0 0 0, .vfsgnjn 3 0 0 16 0,
     .vfsgnjx 2 0 0 0 0, .vfsgnjx 3 0 0 16 0, .vfmacc 2 0 0 0 0, .vfmacc 3 0 0 16 0, .vfnmacc 2 0 0 0 0, .vfnmacc 3 0 0 16 0, .vfmsac 2 0 0 0 0,
     .vfmsac 3 0 0 16 0, .vfsqrt 2 0 0 0, .vfsqrt 3 0 16 0, .vfrcp 2 0 0 0, .vfrcp 3 0 16 0, .vfexp2 2 0 0 0, .vfexp2 3 0 16 0, .vfclass 2 0 0 0,
     .vfclass 3 0 16 0, .vfcvtFX 1 0 0 0] : List Instr).all (fun i => !wellFormed i) = true := rfl
theorem test_ill_formed_4 : (
    [.vfcvtFX 3 0 16 0, .vfcvtXF 1 0 0 0, .vfcvtXF 3 0 16 0, .vfwcvt 0 0 12 1 2, .vfncvt 0 0 12 1 2, .vfwcvt 1 0 0 0 0, .vfwcvt 3 0 0 16 0, .vfncvt 1 0 0 0 0, .vfncvt 3 0 0 16 0, .vqnt 1 0 0
     0 0, .vqnt 3 0 0 16 0, .vdeq 1 0 0 0 0, .vdeq 3 0 0 16 0, .vslideup 3 0 0 16 0, .vslidedown 3 0 0 16 0, .vslide1up 3 0 0 16 0, .vslide1down 3 0 0
     16 0, .vrgather 3 0 0 0 0, .vcompress 0 0 0, .vexpand 0 0 0, .vredsum 2 0 0 0 0, .vredmax 2 0 0 0 0, .vredmin 2 0 0 0 0, .vredmaxu 2 0 0 0 0,
     .vredminu 2 0 0 0 0, .vfredsum 2 0 0 0 0, .vfredmax 2 0 0 0 0, .vfredmin 2 0 0 0 0, .vle 2 0 0 0, .vle 3 0 0 0, .vlse 2 0 0 0 0, .vlse 3 0 0 0 0,
     .vlxe 3 0 0 0 0, .vlxe 2 0 16 0 0, .vlxb 3 0 0 0 0, .vlxb 2 0 16 0 0, .vleff 2 0 0 0, .vleff 3 0 0 0, .vse 3 0 0 0, .vse 2 0 0 16, .vsse 3 0 0 0
     0, .vsse 2 0 0 0 16] : List Instr).all (fun i => !wellFormed i) = true := rfl
theorem test_ill_formed_5 : (
    [.vsxe 3 0 0 0 0, .vsxe 2 0 16 0 0, .vscadd 3 0 0 0 0, .vscadd 2 0 16 0 0, .vhacc 1 0 0 0 0, .vhacc 2 0 16 0 0, .mlds 0 5, .mstrm 0 0 0 0 5,
     .mstrm 0 0 0 9 0, .mdrain 0 0 0 7 0 0, .mdrain 0 0 9 0 0 0, .mdrain 0 0 0 0 0 1, .mdrain 0 0 0 0 3 31, .mstrmExecute 64, .mdrainExecute 64,
     .mzeroExecute 64, .mswapExecute 64, .mcfgSetExecute 64, .leaseGrant 64, .hartStallEnd 512, .tagRetire 512 0, .timerInterrupt 512,
     .mailboxInterrupt 512, .preemptionTrap 512, .endOfBody 512, .qcfgWrite 512 0, .sstatusLeave 512, .viologWrite 512 0, .registerWrite (.csr 512 0) 0,
     .registerWrite (.timer 512) 0, .registerWrite (.ideStatus 16) 0, .registerWrite (.window 255 0 0 true true 0) 0,
     .registerWrite (.window 0 0 0 true true 65536) 0,
     .copyUnit 64, .copyComplete 64 0 0, .copyComplete 0 512 0, .trainAck 64 0 0 0 true, .trainAck 0 512 0 0 true, .sluiceFetch 8, .sluiceDelivery 8
     0, .stageReclaim 8, .sluiceRefetch 8, .lateJoinerService 8, .partialMerge 8 0 0] : List Instr).all (fun i => !wellFormed i) = true := rfl
theorem test_ill_formed_6 : (
    [.patrolScrub (.vreg 512 0 0) .clean, .patrolScrub (.vreg 0 0 256) .clean, .patrolScrub (.plane 64 true) .clean, .patrolScrub (.tileRow 64 0 0) .clean,
     .patrolScrub (.tileRow 0 4 0) .clean, .patrolScrub (.tileRow 0 0 64) .clean, .rowRemap (.registers 64 0) 0 [],
     .partialMerge 0 0 256, .queueNotify 8 0 0 ⟨false, false, true⟩, .queueNotify 0 64 0 ⟨false, false, true⟩, .queueNotify 0 0 16 ⟨false, false, true⟩, .queueServiceStep 8 0, .queueServiceStep 0 64, .queueMap 8 0, .queueMap 0 64,
     .queueUnmap 8 0, .queueUnmap 0 64, .placementDispatch 0 8, .temporalRedispatch 256, .crewEnd 256, .launchAbandon 256, .sliceExpiry 8 (.launch 0),
     .preemptionRequest 8 (.launch 0), .switchOut 256, .contextLive 65536, .contextQuiesce 65536, .contextTeardown 65536, .teardownComplete 65536,
     .contextRelease 65536, .channelRetire 256, .rebuildRow 16, .coreSpare 64 true, .linkTrainingDone 32 0 0, .laneFailure 32 0, .lossOfSignal 32,
     .flitReceive 32 ⟨true, 0, 0, 0, 0, none, none, true, .ackOnly⟩, .flitReplay 32, .tdispRequest 16 .lock, .ideKm 16 ⟨0, []⟩, .getMeasurements 16 [],
     .telemetryRead 0 16 ⟨true, true⟩, .qbind 8 0 0 0, .qbind 0 64 0 0, .qbind 0 0 65536 0, .qunbind 8 0, .qunbind 0 64, .clkset 2 0, .linkEnable 32] : List Instr).all (fun i => !wellFormed i) = true := rfl
theorem test_ill_formed_7 : (
    [.linkDisable 32, .linkRetire 32, .chretire 256, .revoke 64, .apmap 4096 0 0 0 0, .apmap 0 65536 0 0 0, .apmapUnmap 4096, .timer 512 0, .wopen 16,
     .wadmit 16 0, .wadmit 0 65536, .lgtag 64 0 0, .lgtag 0 16 0, .ftag 16 0, .tlset 16 0 [], .werase 16, .attest 16 [], .wexport 16 [] [] [],
     .wimport 16 [], .mrext 16 [], .throttleStep 2] : List Instr).all (fun i => !wellFormed i) = true := rfl

/-! ### Reserved words (R84, R86, R90, R97, R98, R100 to R102) -/

/-- The all-zero parcel, ops 12 and 15, C.NOP with a bit set, C.ADDI and C.JR of x0. -/
theorem test_reserved_16 : ([0x0000, 0x0030, 0x003C, 0x802C, 0x0004, 0x0024].map (decodeTableWord 16)).all Option.isNone = true := rfl
/-- Scalar major 0x13, vector major 0x0F, STORE fn3 4, SYSTEM fn3 7, PRIV with imm11 6, and ECALL with rd set. -/
theorem test_reserved_32 :
    ([0x0000004D, 0x0000003E, 0x02000021, 0x001C0031, 0x00C00031, 0x00400131].map (decodeTableWord 32)).all Option.isNone = true := rfl
/-- Matrix major 7, and MCFG with fn 3. -/
theorem test_reserved_64 : ([0x1F, 0x30000003].map (decodeTableWord 64)).all Option.isNone = true := rfl

/-! ### Words and what they decode to -/

/-- Words written out from the tables of R100. -/
theorem test_decode_compressed :
    [decodeTableWord 16 0xAD40, decodeTableWord 16 0xAD44, decodeTableWord 16 0x6D48, decodeTableWord 16 0x6D4C,
      decodeTableWord 16 0x3D50, decodeTableWord 16 0x3CD4, decodeTableWord 16 0xB4D8, decodeTableWord 16 0xA79C,
      decodeTableWord 16 0xA7A0, decodeTableWord 16 0x1A4, decodeTableWord 16 0x4D68, decodeTableWord 16 0x2C] =
    [some (.cLi 21 21), some (.cAddi 21 21), some (.cMv 21 13), some (.cAdd 21 13), some (.cLd 5 6 3), some (.cSd 3 6 3), some
      (.cJ 723), some (.cBeqz 6 83), some (.cBnez 6 83), some (.cJr 6), some (.cQget 21 9), some .cNop] := rfl

/-- Words written out from the tables of R84 to R87. -/
theorem test_decode_opimm :
    [decodeTableWord 32 0x56A0D501, decodeTableWord 32 0x56A4D501, decodeTableWord 32 0x56A8D501, decodeTableWord 32
      0x56ACD501, decodeTableWord 32 0x56B0D501, decodeTableWord 32 0x56B4D501, decodeTableWord 32 0x4B8D501, decodeTableWord
      32 0x4BCD501, decodeTableWord 32 0x84BCD501] =
    [some (.addi 21 6 693), some (.slti 21 6 693), some (.sltiu 21 6 693), some (.andi 21 6 693), some (.ori 21 6 693), some
      (.xori 21 6 693), some (.slli 21 6 37), some (.srli 21 6 37), some (.srai 21 6 37)] := rfl

/-- Words written out from the tables of R84, R86. -/
theorem test_decode_op :
    [decodeTableWord 32 0x4CD505, decodeTableWord 32 0xCCD505, decodeTableWord 32 0x14CD505, decodeTableWord 32 0x1CCD505,
      decodeTableWord 32 0x24CD505, decodeTableWord 32 0x2CCD505, decodeTableWord 32 0x34CD505, decodeTableWord 32 0x3CCD505,
      decodeTableWord 32 0x44CD505, decodeTableWord 32 0x4CCD505, decodeTableWord 32 0x54CD505, decodeTableWord 32 0x5CCD505,
      decodeTableWord 32 0x64CD505, decodeTableWord 32 0x6CCD505, decodeTableWord 32 0x74CD505, decodeTableWord 32 0x7CCD505,
      decodeTableWord 32 0x84CD505, decodeTableWord 32 0x8CCD505, decodeTableWord 32 0x94CD505, decodeTableWord 32 0x9CCD505,
      decodeTableWord 32 0xA4CD505, decodeTableWord 32 0xA80D505, decodeTableWord 32 0xB00D505, decodeTableWord 32 0xB80D505]
      =
    [some (.add 21 6 19), some (.sub 21 6 19), some (.and 21 6 19), some (.or 21 6 19), some (.xor 21 6 19), some (.sll 21 6
      19), some (.srl 21 6 19), some (.sra 21 6 19), some (.slt 21 6 19), some (.sltu 21 6 19), some (.min 21 6 19), some
      (.max 21 6 19), some (.minu 21 6 19), some (.maxu 21 6 19), some (.mul 21 6 19), some (.mulh 21 6 19), some (.mulhu 21 6
      19), some (.div 21 6 19), some (.divu 21 6 19), some (.rem 21 6 19), some (.remu 21 6 19), some (.clz 21 6), some (.ctz
      21 6), some (.cpop 21 6)] := rfl

/-- Words written out from the tables of R84 to R86. -/
theorem test_decode_jump :
    [decodeTableWord 32 0x56B509, decodeTableWord 32 0x56B50D, decodeTableWord 32 0x56B511, decodeTableWord 32 0x56A0D515] =
    [some (.lui 21 693), some (.auipc 21 693), some (.jal 21 693), some (.jalr 21 6 693)] := rfl

/-- Words written out from the tables of R84 to R86. -/
theorem test_decode_branch :
    [decodeTableWord 32 0x544CD519, decodeTableWord 32 0x54CCD519, decodeTableWord 32 0x554CD519, decodeTableWord 32
      0x55CCD519, decodeTableWord 32 0x564CD519, decodeTableWord 32 0x56CCD519] =
    [some (.beq 6 19 693), some (.bne 6 19 693), some (.blt 6 19 693), some (.bge 6 19 693), some (.bltu 6 19 693), some
      (.bgeu 6 19 693)] := rfl

/-- Words written out from the tables of R84 to R86. -/
theorem test_decode_memory :
    [decodeTableWord 32 0x56A0D51D, decodeTableWord 32 0x56A4D51D, decodeTableWord 32 0x56A8D51D, decodeTableWord 32
      0x56ACD51D, decodeTableWord 32 0x56B4D51D, decodeTableWord 32 0x56B8D51D, decodeTableWord 32 0x56BCD51D, decodeTableWord
      32 0x544CD521, decodeTableWord 32 0x54CCD521, decodeTableWord 32 0x554CD521, decodeTableWord 32 0x55CCD521] =
    [some (.ld 21 6 693), some (.lw 21 6 693), some (.lh 21 6 693), some (.lb 21 6 693), some (.lwu 21 6 693), some (.lhu 21 6
      693), some (.lbu 21 6 693), some (.sd 6 19 693), some (.sw 6 19 693), some (.sh 6 19 693), some (.sb 6 19 693)] := rfl

/-- Words written out from the tables of R88. -/
theorem test_decode_amo_d :
    [decodeTableWord 32 0x9CCD525, decodeTableWord 32 0x19CCD525, decodeTableWord 32 0x29CCD525, decodeTableWord 32
      0x39CCD525, decodeTableWord 32 0x49CCD525, decodeTableWord 32 0x59CCD525, decodeTableWord 32 0x69CCD525, decodeTableWord
      32 0x79CCD525, decodeTableWord 32 0x89CCD525, decodeTableWord 32 0x99CCD525, decodeTableWord 32 0xA580D525,
      decodeTableWord 32 0xB9CCC025] =
    [some (.amoswapD 2 3 19 6 21), some (.amoaddD 2 3 19 6 21), some (.amoandD 2 3 19 6 21), some (.amoorD 2 3 19 6 21), some
      (.amoxorD 2 3 19 6 21), some (.amominD 2 3 19 6 21), some (.amomaxD 2 3 19 6 21), some (.amominuD 2 3 19 6 21), some
      (.amomaxuD 2 3 19 6 21), some (.amocasD 2 3 19 6 21), some (.ldaD 3 6 21), some (.stlD 3 19 6)] := rfl

/-- Words written out from the tables of R88. -/
theorem test_decode_amo_w :
    [decodeTableWord 32 0x9CCD529, decodeTableWord 32 0x19CCD529, decodeTableWord 32 0x29CCD529, decodeTableWord 32
      0x39CCD529, decodeTableWord 32 0x49CCD529, decodeTableWord 32 0x59CCD529, decodeTableWord 32 0x69CCD529, decodeTableWord
      32 0x79CCD529, decodeTableWord 32 0x89CCD529, decodeTableWord 32 0x99CCD529, decodeTableWord 32 0xA580D529,
      decodeTableWord 32 0xB9CCC029] =
    [some (.amoswapW 2 3 19 6 21), some (.amoaddW 2 3 19 6 21), some (.amoandW 2 3 19 6 21), some (.amoorW 2 3 19 6 21), some
      (.amoxorW 2 3 19 6 21), some (.amominW 2 3 19 6 21), some (.amomaxW 2 3 19 6 21), some (.amominuW 2 3 19 6 21), some
      (.amomaxuW 2 3 19 6 21), some (.amocasW 2 3 19 6 21), some (.ldaW 3 6 21), some (.stlW 3 19 6)] := rfl

/-- Words written out from the tables of R89. -/
theorem test_decode_fence :
    [decodeTableWord 32 0x60C0002D, decodeTableWord 32 0x6A04002D, decodeTableWord 32 0x70C8002D, decodeTableWord 32 0x2C162D,
      decodeTableWord 32 0x110D52D] =
    [some (.fence 3 1 2), some (.fenceX 3 2 4), some (.fenceT 3 1 1 2), some (.tclr 1 22), some (.tjoin 2 0 6 21)] := rfl

/-- Words written out from the tables of R90. -/
theorem test_decode_system :
    [decodeTableWord 32 0x31, decodeTableWord 32 0x200031, decodeTableWord 32 0x400031, decodeTableWord 32 0x600031,
      decodeTableWord 32 0x800031, decodeTableWord 32 0xA0C031, decodeTableWord 32 0x2144D531, decodeTableWord 32 0x214AF531,
      decodeTableWord 32 0x214CD531, decodeTableWord 32 0x2152F531, decodeTableWord 32 0x2154D531, decodeTableWord 32
      0x215AF531] =
    [some .yield, some .wfi, some .ecall, some .ebreak, some .eret, some (.tlbinv 6), some (.csrrw 21 6 266), some (.csrrwi 21
      23 266), some (.csrrs 21 6 266), some (.csrrsi 21 23 266), some (.csrrc 21 6 266), some (.csrrci 21 23 266)] := rfl

/-- Words written out from the tables of R91. -/
theorem test_decode_chute :
    [decodeTableWord 32 0x4D2035, decodeTableWord 32 0x813535, decodeTableWord 32 0x59013335, decodeTableWord 32 0x1813535] =
    [some (.qput 9 19), some (.qget 21 9), some (.qbr 9 723), some (.qstat 21 9)] := rfl

/-- Words written out from the tables of R84, R86. -/
theorem test_decode_copy :
    [decodeTableWord 32 0xD4CD539, decodeTableWord 32 0x1D4CD539, decodeTableWord 32 0x2D4CD539, decodeTableWord 32
      0x3D4CD539, decodeTableWord 32 0x4000D539] =
    [some (.cpy 21 6 19 26), some (.cpy2d 21 6 19 26), some (.gathr 21 6 19 26), some (.scatr 21 6 19 26), some (.cpwait 21
      6)] := rfl

/-- Words written out from the tables of R84, R86. -/
theorem test_decode_barrier :
    [decodeTableWord 32 0x4CD53D, decodeTableWord 32 0x80D53D, decodeTableWord 32 0x14CD53D, decodeTableWord 32 0x1CCD53D,
      decodeTableWord 32 0x24CD53D, decodeTableWord 32 0x2CCD53D] =
    [some (.binit 21 6 19), some (.barr 21 6), some (.barrx 21 6 19), some (.barrm 21 6 19), some (.bwait 21 6 19), some
      (.btest 21 6 19)] := rfl

/-- Words written out from the tables of R84, R86. -/
theorem test_decode_seq :
    [decodeTableWord 32 0x4CD541, decodeTableWord 32 0xCCD541, decodeTableWord 32 0x14CD541, decodeTableWord 32 0x180D541,
      decodeTableWord 32 0x24CD541, decodeTableWord 32 0x2CCD541, decodeTableWord 32 0x34CD541] =
    [some (.bshape 21 6 19), some (.sqadm 21 6 19), some (.sqret 21 6 19), some (.pgalloc 21 6), some (.pgref 21 6 19), some
      (.pgrel 21 6 19), some (.pgxfer 21 6 19)] := rfl

/-- Words written out from the tables of R84, R86. -/
theorem test_decode_index :
    [decodeTableWord 32 0x4CD545, decodeTableWord 32 0xCCD545, decodeTableWord 32 0x14CD545, decodeTableWord 32 0x180D545,
      decodeTableWord 32 0x24CD545, decodeTableWord 32 0x2CCD545, decodeTableWord 32 0x34CD545] =
    [some (.ixinit 21 6 19), some (.ixcur 21 6 19), some (.ixatt 21 6 19), some (.ixdet 21 6), some (.ixext 21 6 19), some
      (.ixmatch 21 6 19), some (.ixstat 21 6 19)] := rfl

/-- Words written out from the tables of R84, R86. -/
theorem test_decode_sluice :
    [decodeTableWord 32 0x4CD549, decodeTableWord 32 0x80D549, decodeTableWord 32 0x14CD549] =
    [some (.pgsub 21 6 19), some (.pgopen 21 6), some (.mbset 21 6 19)] := rfl

/-- Words written out from the tables of R96. -/
theorem test_decode_vcfg :
    [decodeTableWord 32 0x4CD502, decodeTableWord 32 0xD2B0D502] =
    [some (.vsetvl 21 6 19), some (.vsetvli 21 6 1323)] := rfl

/-- Words written out from the tables of R92, R97. -/
theorem test_decode_valu :
    [decodeTableWord 32 0x150F306, decodeTableWord 32 0x1150F306, decodeTableWord 32 0x2150F306, decodeTableWord 32
      0x3150F306, decodeTableWord 32 0x4150F306, decodeTableWord 32 0x5150F306, decodeTableWord 32 0x6150F306, decodeTableWord
      32 0x7150F306, decodeTableWord 32 0x8150F306, decodeTableWord 32 0x9150F306, decodeTableWord 32 0xA150F306,
      decodeTableWord 32 0xB150F306, decodeTableWord 32 0xC150F306, decodeTableWord 32 0xD150F306, decodeTableWord 32
      0xE150F306, decodeTableWord 32 0xF150F306] =
    [some (.vadd 0 2 20 7 19), some (.vsub 0 2 20 7 19), some (.vrsub 0 2 20 7 19), some (.vmin 0 2 20 7 19), some (.vmax 0 2
      20 7 19), some (.vminu 0 2 20 7 19), some (.vmaxu 0 2 20 7 19), some (.vand 0 2 20 7 19), some (.vor 0 2 20 7 19), some
      (.vxor 0 2 20 7 19), some (.vsll 0 2 20 7 19), some (.vsrl 0 2 20 7 19), some (.vsra 0 2 20 7 19), some (.vsadd 0 2 20 7
      19), some (.vssub 0 2 20 7 19), some (.vmerge 0 2 20 7 19)] := rfl

/-- Words written out from the tables of R92, R97. -/
theorem test_decode_vmuldiv :
    [decodeTableWord 32 0x150F30A, decodeTableWord 32 0x1150F30A, decodeTableWord 32 0x2150F30A, decodeTableWord 32
      0x3150F30A, decodeTableWord 32 0x4150F30A, decodeTableWord 32 0x5150F30A, decodeTableWord 32 0x6150F30A, decodeTableWord
      32 0x7150F30A, decodeTableWord 32 0x8100F30A, decodeTableWord 32 0x9100130A] =
    [some (.vmul 0 2 20 7 19), some (.vmulh 0 2 20 7 19), some (.vmulhu 0 2 20 7 19), some (.vdiv 0 2 20 7 19), some (.vdivu 0
      2 20 7 19), some (.vrem 0 2 20 7 19), some (.vremu 0 2 20 7 19), some (.vmacc 0 2 20 7 19), some (.vmv 0 2 7 19), some
      (.vid 2 19)] := rfl

/-- Words written out from the tables of R92, R95, R97. -/
theorem test_decode_vcmp :
    [decodeTableWord 32 0x150E50E, decodeTableWord 32 0x1150E50E, decodeTableWord 32 0x2150E50E, decodeTableWord 32
      0x3150E50E, decodeTableWord 32 0x4150E50E, decodeTableWord 32 0x5150E50E, decodeTableWord 32 0x6150E50E, decodeTableWord
      32 0x7150E50E, decodeTableWord 32 0x8150E50E, decodeTableWord 32 0x9150E50E, decodeTableWord 32 0xA150E50E,
      decodeTableWord 32 0xB150E50E] =
    [some (.vmseq 0 2 20 7 5), some (.vmsne 0 2 20 7 5), some (.vmslt 0 2 20 7 5), some (.vmsltu 0 2 20 7 5), some (.vmsle 0 2
      20 7 5), some (.vmsleu 0 2 20 7 5), some (.vmsgt 0 2 20 7 5), some (.vmsgtu 0 2 20 7 5), some (.vmfeq 0 2 20 7 5), some
      (.vmfne 0 2 20 7 5), some (.vmflt 0 2 20 7 5), some (.vmfle 0 2 20 7 5)] := rfl

/-- Words written out from the tables of R92, R97. -/
theorem test_decode_vfp :
    [decodeTableWord 32 0x150F312, decodeTableWord 32 0x1150F312, decodeTableWord 32 0x2150F312, decodeTableWord 32
      0x3150F312, decodeTableWord 32 0x4150F312, decodeTableWord 32 0x5150F312, decodeTableWord 32 0x6150F312, decodeTableWord
      32 0x7150F312, decodeTableWord 32 0x8150F312, decodeTableWord 32 0x9150F312, decodeTableWord 32 0xA150F312,
      decodeTableWord 32 0xB150F312, decodeTableWord 32 0xC100F312, decodeTableWord 32 0xD100F312, decodeTableWord 32
      0xE100F312, decodeTableWord 32 0xF100F312] =
    [some (.vfadd 0 2 20 7 19), some (.vfsub 0 2 20 7 19), some (.vfmul 0 2 20 7 19), some (.vfdiv 0 2 20 7 19), some (.vfmin
      0 2 20 7 19), some (.vfmax 0 2 20 7 19), some (.vfsgnj 0 2 20 7 19), some (.vfsgnjn 0 2 20 7 19), some (.vfsgnjx 0 2 20
      7 19), some (.vfmacc 0 2 20 7 19), some (.vfnmacc 0 2 20 7 19), some (.vfmsac 0 2 20 7 19), some (.vfsqrt 0 2 7 19),
      some (.vfrcp 0 2 7 19), some (.vfexp2 0 2 7 19), some (.vfclass 0 2 7 19)] := rfl

/-- Words written out from the tables of R95, R97. -/
theorem test_decode_vcvt :
    [decodeTableWord 32 0x100F316, decodeTableWord 32 0x1100F316, decodeTableWord 32 0x212CF316, decodeTableWord 32
      0x312CF316, decodeTableWord 32 0x416CF316, decodeTableWord 32 0x516CF316] =
    [some (.vfcvtFX 0 2 7 19), some (.vfcvtXF 0 2 7 19), some (.vfwcvt 0 2 11 7 19), some (.vfncvt 0 2 11 7 19), some (.vqnt 0
      2 27 7 19), some (.vdeq 0 2 27 7 19)] := rfl

/-- Words written out from the tables of R95, R97. -/
theorem test_decode_vmask :
    [decodeTableWord 32 0x18651A, decodeTableWord 32 0x1018651A, decodeTableWord 32 0x2018651A, decodeTableWord 32 0x3018651A,
      decodeTableWord 32 0x4000651A, decodeTableWord 32 0x5103251A, decodeTableWord 32 0x6100731A, decodeTableWord 32
      0x7000751A, decodeTableWord 32 0x8000751A] =
    [some (.kand 6 3 5), some (.kor 6 3 5), some (.kxor 6 3 5), some (.kandn 6 3 5), some (.knot 3 5), some (.kfromv 2 25 5),
      some (.vfromk 2 3 19), some (.kpop 3 21), some (.kfirst 3 21)] := rfl

/-- Words written out from the tables of R92, R95, R97. -/
theorem test_decode_vperm :
    [decodeTableWord 32 0x150F31E, decodeTableWord 32 0x1150F31E, decodeTableWord 32 0x2150F31E, decodeTableWord 32
      0x3150F31E, decodeTableWord 32 0x4150F31E, decodeTableWord 32 0x5103331E, decodeTableWord 32 0x6103331E, decodeTableWord
      32 0x7100731E, decodeTableWord 32 0x8050151E, decodeTableWord 32 0x9400D31E] =
    [some (.vslideup 0 2 20 7 19), some (.vslidedown 0 2 20 7 19), some (.vslide1up 0 2 20 7 19), some (.vslide1down 0 2 20 7
      19), some (.vrgather 0 2 20 7 19), some (.vcompress 2 25 19), some (.vexpand 2 25 19), some (.viota 2 3 19), some
      (.vmvxs 20 21), some (.vmvsx 6 19)] := rfl

/-- Words written out from the tables of R92, R95, R97. -/
theorem test_decode_vred :
    [decodeTableWord 32 0x150F322, decodeTableWord 32 0x1150F322, decodeTableWord 32 0x2150F322, decodeTableWord 32
      0x3150F322, decodeTableWord 32 0x4150F322, decodeTableWord 32 0x5150F322, decodeTableWord 32 0x6150F322, decodeTableWord
      32 0x7150F322, decodeTableWord 32 0x81507322, decodeTableWord 32 0x91507322] =
    [some (.vredsum 0 2 20 7 19), some (.vredmax 0 2 20 7 19), some (.vredmin 0 2 20 7 19), some (.vredmaxu 0 2 20 7 19), some
      (.vredminu 0 2 20 7 19), some (.vfredsum 0 2 20 7 19), some (.vfredmax 0 2 20 7 19), some (.vfredmin 0 2 20 7 19), some
      (.vsegsum 2 20 3 19), some (.vsegmax 2 20 3 19)] := rfl

/-- Words written out from the tables of R94, R97. -/
theorem test_decode_vload :
    [decodeTableWord 32 0x100D326, decodeTableWord 32 0x114CD326, decodeTableWord 32 0x2150D326, decodeTableWord 32
      0x3150D326, decodeTableWord 32 0x4100D326, decodeTableWord 32 0x514CD326] =
    [some (.vle 0 2 6 19), some (.vlse 0 2 19 6 19), some (.vlxe 0 2 20 6 19), some (.vlxb 0 2 20 6 19), some (.vleff 0 2 6
      19), some (.vlcb 2 19 6 19)] := rfl

/-- Words written out from the tables of R94, R97. -/
theorem test_decode_vstore :
    [decodeTableWord 32 0x100D32A, decodeTableWord 32 0x114CD32A, decodeTableWord 32 0x2150D32A, decodeTableWord 32
      0x3150D32A, decodeTableWord 32 0x404CD32A, decodeTableWord 32 0x5154D32A, decodeTableWord 32 0x6150D32A] =
    [some (.vse 0 2 6 19), some (.vsse 0 2 19 6 19), some (.vsxe 0 2 20 6 19), some (.vscadd 0 2 20 6 19), some (.vscb 19 6
      19), some (.vcapp 2 21 6 19), some (.vhacc 0 2 20 6 19)] := rfl

/-- Words written out from the tables of R95, R97. -/
theorem test_decode_vchute :
    [decodeTableWord 32 0x103292E, decodeTableWord 32 0x1101332E] =
    [some (.qputv 2 25 9), some (.qgetv 2 9 19)] := rfl

/-- Words written out from the tables of R97, the entries of VATTN. -/
theorem test_decode_vattn :
    [decodeTableWord 32 0xC512032, decodeTableWord 32 0x10000032, decodeTableWord 32 0x2C012032, decodeTableWord 32
      0x3400D332] =
    [some (.vascore 20 9), some .vaexp, some (.vaacc 9), some (.vafin 6 19)] := rfl

/-- Words written out from the tables of R97, R323. -/
theorem test_decode_vindex :
    [decodeTableWord 32 0x454D336, decodeTableWord 32 0x10533536, decodeTableWord 32 0x2550D536] =
    [some (.ixprop 21 6 19), some (.ixacc 20 25 21), some (.ixextv 2 20 6 21)] := rfl

/-- Words written out from the tables of R97, the entry of VSTOP. -/
theorem test_decode_vseq :
    [decodeTableWord 32 0x550C53A] =
    [some (.vstop 2 20 6 5)] := rfl

/-- Words written out from the tables of R98, R99. -/
theorem test_decode_tile :
    [decodeTableWord 64 0x3, decodeTableWord 64 0x10000003, decodeTableWord 64 0x2000C003, decodeTableWord 64 0xC000012007,
      decodeTableWord 64 0xB, decodeTableWord 64 0xD6006C160F, decodeTableWord 64 0x1C079600001313, decodeTableWord 64
      0x200000017, decodeTableWord 64 0x1B] =
    [some .mcfgAcq, some .mcfgRel, some (.mcfgSet 6), some (.mlds 9 3), some .mswap, some (.mstrm 22 27 2 5 3), some (.mdrain
      19 2 5 6 3 28), some (.mzero 2), some .mwait] := rfl

/-! ### One step from a placed word -/

/-- ADDI x5, x0, 7 runs as the first instruction after reset (R84, R104): x5 holds 7, and the pc and instret move on. -/
theorem test_first_step :
    (match Machine.step (Machine.State.reset.withFetchWord 32 0x00E00501) with
     | .next t => (t.hartAt 0).xr 5 == 7 && (t.hartAt 0).pc == 4 && (t.hartAt 0).instret == 1
     | _ => false) = true := by decide +kernel
end Sys2Proof.Tests
end

