-- ==== Sys2Proof/Tests/WCopyMatrix.lean ====
section
/-! SUPPORT. Witnesses: states and operands that meet the hypotheses of the statements about copies and the matrix array, clause by
clause. -/

namespace Sys2Proof.Tests
set_option Elab.async false
open Sys2Proof Sys2Proof.Machine Sys2Proof.Claims

/-- A CPY of two bytes from 0x1000 to 0x2000, as issued; the same moved; a SCATR with one train sent to device 5. -/
def cpy2 : CopyCmd :=
  { seq := 0, ticket := 1, fn := 0, a1 := 0x2000, a2 := 0x1000, p0 := 2, p1 := 0, rq := acc.reqFor 0, pc := 0, q := none, cq := none, attach := none,
    done := 0, stopAt := 2, bytes := 0, part := [], elem := none, code := 0, formed := false, trains := [] }
def cpyDone : CopyCmd := { cpy2 with done := 2, bytes := 2 }
def scat : CopyCmd := { cpy2 with fn := 3, formed := true, trains := [⟨5, 0, [(0, 0x1000)], .sent⟩] }
def copying (l : List CopyCmd) : State := acc.mapMe fun h => { h with copies := l }

/-- CopyCommands: fewer than 32 outstanding, and 32; a ticket outstanding and not; none outstanding. -/
theorem test_hyps_copy_issue :
    ((2 : BitVec 5).getLsbD 0 = false ∧ (2 : BitVec 5) ≠ 0) ∧ acc.cur.val % 2 = 0 ∧ acc.me.copies.length < 32 ∧ acc.me.cpbar.getLsbD 0 = false ∧
    acc.me.cpbar.getLsbD 1 = false ∧ 32 ≤ (copying (List.replicate 32 cpy2)).me.copies.length ∧ (5 : BitVec 5) ≠ 0 ∧
    (∀ c ∈ (copying [cpy2]).me.copies, c.ticket ≠ ((copying [cpy2]).me.xr 5).toNat % 2 ^ 16) ∧
    (∃ c ∈ (copying [cpy2]).me.copies, c.ticket = (1 : Nat)) ∧ (((copying [cpy2]).mapMe fun h => h.setX 5 1 noTaint).me.xr 5).toNat % 2 ^ 16 = 1 ∧
    acc.me.copies = [] ∧ (copying [cpy2]).me.copies ≠ [] := by decide +kernel

theorem placed_two {s : State} {rq : Req} {va pa : Nat} {acc : Acc} (h0 : s.locate rq ((va + 0) % 2 ^ 64) acc = (s, .ok (.local (pa + 0))))
    (h1 : s.locate rq ((va + 1) % 2 ^ 64) acc = (s, .ok (.local (pa + 1))))
    (a0 : (tlbFind (s.coreAt rq.core).tlb rq.ctx ((va + 0) % 2 ^ 64)).isSome = true)
    (a1 : (tlbFind (s.coreAt rq.core).tlb rq.ctx ((va + 1) % 2 ^ 64)).isSome = true) : placedFor s rq va acc pa 2 := by
  intro i hi
  interval_cases i
  · exact ⟨h0, .inr a0⟩
  · exact ⟨h1, .inr a1⟩

/-- CopyCommands: the unit of that CPY; its completion; the acknowledgement of that train. -/
theorem test_hyps_copy_engine :
    (let s := copying [cpy2]
     s.memOk ∧ (crewOrder 0 (s.coreAt 0).copyPtr).findSome? (fun m => (s.copyPick (2 * m) [] (s.hartAt (2 * m)).copies).map fun d => (m, d)) = some (0, cpy2) ∧
      min (64 - (cpy2.a1 + cpy2.done) % 2 ^ 64 % 64) (cpy2.stopAt - cpy2.done) = 2 ∧ cpy2.bytes = cpy2.done ∧ cpy2.elem = none ∧ (∀ d ∈ (s.hartAt 0).copies, d.seq = cpy2.seq → d = cpy2) ∧
      placedFor s cpy2.rq 0x1000 .read 0x1000 2 ∧ s.readRefused cpy2.rq.world 0x1000 2 = false ∧ soundLines s 0x1000 2 ∧
      placedFor s cpy2.rq 0x2000 .write 0x2000 2 ∧
      (∀ j m, j + m ≤ 2 → 0 < m → plainPlace s cpy2.rq.world (0x2000 + j) m ∧ steady s (0x2000 + j) m)) ∧
    (let s := copying [cpyDone]
     copyOf s 0 1 = some cpyDone ∧ s.copyOver 0 cpyDone = true ∧ cpyDone.attach = none) ∧
    (let s := copying [scat]
     copyOf s 0 1 = some scat ∧ scat.trains.findIdx? (fun t => t.dev = 5 && t.st = .sent) = some 0 ∧ scat.trains[0]? = some ⟨5, 0, [(0, 0x1000)], .sent⟩ ∧
      (∀ d ∈ (s.hartAt 0).copies, d.seq = scat.seq → d = scat)) := by
  refine ⟨⟨⟨by decide +kernel, fun m h => by cases h⟩, by decide +kernel, by decide, rfl, rfl, by decide +kernel, placed_two rfl rfl (by decide +kernel) (by decide +kernel), by decide +kernel,
    by unfold soundLines; decide +kernel, placed_two rfl rfl (by decide +kernel) (by decide +kernel), ?_⟩, by decide +kernel, by decide +kernel⟩
  intro j m h1 h2
  have hj : j < 2 := by omega
  have hm : m < 3 := by omega
  interval_cases j <;> interval_cases m
  all_goals first | omega | exact ⟨by unfold plainPlace; decide +kernel, by unfold steady; decide +kernel⟩

/-- The execute hart with the lease of its core, sixteen lane groups and E4M3 elements, and entries posted. -/
def leased (q : List MxEntry) : State :=
  (mapped (run 1 fun h => { h with vl := 256, lanes := List.range 16, vtype := 7 })).mapCrew 0 fun c => { c with lease := .held, mqueue := q }

/-- MatrixCommands: with the lease, without it, at the head of the queue; one row streamed and drained, their number from rows and from vl. -/
theorem test_hyps_matrix :
    exe.cur.val % 2 = 1 ∧ exe.me.vstate ≠ 0 ∧ (exe.crewAt (crewOf exe.cur)).lease = .none ∧ (exe.crewAt (crewOf exe.cur)).leaseWait = false ∧
    ((leased []).crewAt (crewOf (leased []).cur)).lease ≠ .none ∧
    (let s := exe.mapCore 0 fun c => { c with leaseQueue := [0] }
     s.leaseHolder 0 = none ∧ (s.coreAt 0).leaseQueue = 0 :: [] ∧ 0 / 4 = 0 ∧ (s.crewAt 0).lease = .none) ∧
    tileReady (leased []) ∧
    (let s := leased []
     (tileRows 1 s.me.vln (mxK (0 : BitVec 3).toNat) * mxK (0 : BitVec 3).toNat * mxWidth (0 : BitVec 3).toNat ≤ 1024 * s.me.lanes.length) ∧
      vtFmt s.me.vt = some (0 : BitVec 3).toNat ∧
      (tileRows 0 s.me.vln (mxK (0 : BitVec 3).toNat) * mxK (0 : BitVec 3).toNat * mxWidth (0 : BitVec 3).toNat ≤ 1024 * s.me.lanes.length) ∧
      ((0 : BitVec 3).toNat = 4 ↔ activeFmt s = 4) ∧
      (tileRows 1 s.me.vln 192 * 192 * mxWidth (0 : BitVec 3).toNat ≤ 1024 * s.me.lanes.length) ∧ 6 ≤ s.me.lanes.length) := by
  unfold tileReady; decide +kernel

/-- MatrixExecute: each kind of entry at the head, and MLDS of the last two units of a plane from a chute that holds them. -/
theorem test_hyps_array :
    (∀ e ∈ [.set 1, .swap, .zero 1, .strm 2 0 1 1 0 0 0, .drain 3 4 1 1 0 3 0], nextEntry (leased [e]) 0 0 e []) ∧ (MxEntry.zero 1 ≠ .swap) ∧
    192 * 1 * mxWidth 0 ≤ 16384 ∧ 1 < 4 ∧ 1 ≤ 64 ∧
    (let s := ((leased []).mapMe fun h => { h with vstart := 3166 }).mapCrew 0 fun c =>
        { c with chutes := c.chutes.set 1 { Chute.empty true with entries := List.replicate 4 ⟨5, false, .copy 0 0⟩ } }
      let u := atIssue s
      tileReady s ∧ (myChute u 1).copyFed = true ∧ (myChute u 1).head = 0 ∧ u.me.vst < 3168 ∧
        2 * (3168 - u.me.vst) ≤ ((myChute u 1).entries.map ChEntry.bits).length ∧ (0 : BitVec 3).toNat ≠ 3) := by
  unfold nextEntry tileReady; decide +kernel

end Sys2Proof.Tests
end

