-- ==== Sys2Proof/Tests/WEngine.lean ====
section
/-! SUPPORT. Witnesses: states and operands that meet the hypotheses of the statements about barriers, pages, sequences and index
objects, clause by clause. -/

namespace Sys2Proof.Tests
set_option Elab.async false
open Sys2Proof Sys2Proof.Machine Sys2Proof.Claims

/-- The execute hart with x5 at the start of the pool memory, x6 as given, and a 64-byte record there. -/
def recd (x6 v : Nat) : State :=
  put 0x200_0000_0000 64 v ((pooled exe).mapMe fun h => (h.setX 5 0x4000_0000 noTaint).setX 6 (BitVec.ofNat 64 x6) noTaint)

/-- Barrier records: none; configured for three of crew 0; the same with one arrived; torn down; state 3; of context 5; of crew 1;
complete but for a pending copy; in phase 1; in phase 5. -/
def bFree : Nat := 0
def bSet : Nat := 1 + 3 * 2 ^ 32
def bOne : Nat := bSet + 2 ^ 128
def bGone : Nat := 2
def bThree : Nat := 3
def bForeign : Nat := bSet + 5 * 2 ^ 16
def bElse : Nat := bSet + 2 ^ 7
def bPending : Nat := bSet + 3 * 2 ^ 128 + 2 ^ 160
def bPhase1 : Nat := bSet + 2 ^ 64
def bPhase5 : Nat := bSet + 5 * 2 ^ 64

/-- What the barrier statements assume of a record's place. -/
theorem barrier_place : ∀ v ∈ [bFree, bSet, bOne, bGone, bThree, bForeign, bElse, bPending, bPhase1, bPhase5],
    let s := recd 3 v
    let w := waited s [5, 6]
    s.memOk ∧ object w (s.me.xr 5).toNat .write 0x200_0000_0000 ∧ object w (s.me.xr 5).toNat .read 0x200_0000_0000 ∧
      w.homeNat 0x200_0000_0000 64 = v := by
  intro v hv
  simp only [List.mem_cons, List.not_mem_nil, or_false] at hv
  rcases hv with rfl | rfl | rfl | rfl | rfl | rfl | rfl | rfl | rfl | rfl
  all_goals exact ⟨⟨by decide +kernel, fun m h => by cases h⟩, ⟨by decide +kernel, placed_of rfl (by decide +kernel), by decide +kernel, by decide +kernel, fun _ => steady_of (by decide +kernel)⟩,
    ⟨by decide +kernel, placed_of rfl (by decide +kernel), by decide +kernel, by decide +kernel, fun _ => steady_of (by decide +kernel)⟩, by decide +kernel⟩

/-- BarrierConfigure: its clauses at these records, with counts 3 and 0, and a word too wide. -/
theorem test_hyps_binit :
    (3 < 2 ^ 19 ∧ bits 3 18 16 ≤ 4 ∧ 3 % 2 ^ 16 ≠ 0 ∧ 0 % 2 ^ 16 = 0 ∧ 2 ^ 19 ≤ 2 ^ 19) ∧ brState bFree = 0 ∧ brState bGone = 2 ∧
    brState bSet = 1 ∧ brCtx bSet = myCtx (waited (recd 3 bSet) [5, 6]) ∧ brArrived bSet = 0 ∧ brEarly bSet = 0 ∧ brPend bSet = 0 ∧
    brState bOne = 1 ∧ brArrived bOne ≠ 0 ∧ brState bThree = 3 ∧ brCtx bForeign ≠ myCtx (waited (recd 3 bForeign) [5, 6]) := by decide +kernel

/-- BarrierCommands: arrivals of one and three units that fit, early ones, one that does not, and the records that refuse; BWAIT and BTEST
for phase 0 at a record in phase 0, 1 and 5. -/
theorem test_hyps_barrier :
    brState bGone = 2 ∧ brState bFree = 0 ∧ brCtx bForeign ≠ myCtx (waited (recd 3 bForeign) [5, 6]) ∧ ¬ inBarrier bElse 1 ∧ inBarrier bSet 1 ∧
    barrierSound bSet ∧ arrivalFits bSet 1 ∧ arrivalFits bSet 3 ∧ ¬ arrivalFits bSet 4 ∧ inBarrier bPending 1 ∧ barrierSound bPending ∧
    arrivalFits bPending 1 ∧ ¬ arrivalFits bPending 4 ∧ brCtx bPending = 0 ∧ brState bPending = 1 ∧ 1 ≤ 3 ∧ 3 ≤ 65535 ∧ 3 < 2 ^ 40 ∧
    (brPhase bSet + 2 ^ 32 - 0) % 2 ^ 32 = 0 ∧ (brPhase bPhase1 + 2 ^ 32 - 0) % 2 ^ 32 = 1 ∧ brCtx bPhase1 = 0 ∧ brState bPhase1 = 1 ∧
    brLast bPhase1 = 0 ∧ 2 ≤ (brPhase bPhase5 + 2 ^ 32 - 0) % 2 ^ 32 ∧ (brPhase bPhase5 + 2 ^ 32 - 0) % 2 ^ 32 < 2 ^ 31 := by
  unfold inBarrier barrierSound arrivalFits; decide +kernel

/-- A record of system scope, where the arriving hart's posted writes are all acknowledged, and where one is not. -/
theorem test_hyps_posted :
    let s := recd 3 (bSet + 4 * 2 ^ 4)
    let p := { s with requests := [⟨0, 1, 0, 5, 0, 0, false, 0, 0, [], .posted 0 0⟩] }
    scopeNum (brScope bSet) ≠ 4 ∧ scopeNum (brScope ((waited s [5, 6]).homeNat 0x200_0000_0000 64)) = 4 ∧ s.postedOut s.cur = false ∧
    scopeNum (brScope ((waited p [5, 6]).homeNat 0x200_0000_0000 64)) = 4 ∧ p.postedOut p.cur = true := by decide +kernel

/-- A descriptor with one free page, page 0. -/
def oneFree : Nat := 2 ^ 144 * 2 ^ 144
/-- A pool of four pages in service at the start of the pool memory, its records at 0x1_0000, with page 0 the head of a list of one. -/
def poolRec : PoolRec := ⟨0x200_0000_0000, 0, 4, 0, [0x1_0000]⟩
def pool (d r : Nat) : State := { put 0x1_0000 8 r (recd 0 d) with pools := [poolRec] }

/-- PageCommands: a pool with a free page and one with none; a page owned, shared twice, at most, handed over, free, and of the other
partition. -/
theorem test_hyps_pages :
    (∀ d ∈ [oneFree, 0], let s := pool d 0
      let w := waited s [5]
      s.memOk ∧ poolIs w (s.me.xr 5).toNat poolRec ∧ w.homeNat poolRec.pa 64 = d ∧ poolApart poolRec 0 ∧ poolSteady w poolRec 0) ∧
    pdFreeCnt (oneFree) ≠ 0 ∧ pdFreeHead (oneFree) < poolRec.npages ∧ pdFreeCnt 0 = 0 ∧ poolRec.ctx = 0 ∧
    (∀ r ∈ [0x9_0001, 0xA_0002, 0xA_0003, 0xA_FFFF, 0xB_0001, 0, 0x1_0001, 0x1_0000_0009_0001], let s := pool 0 r
      let w := waited s [5, 6]
      s.memOk ∧ poolIs w (s.me.xr 5).toNat poolRec ∧ (s.me.xr 6).toNat < poolRec.npages ∧ w.pageRec poolRec 0 = r ∧ myPart w = 1 ∧ poolSteady w poolRec 0 ∧
        (s.me.remote.find? fun x => x.dev == 256) = none) ∧
    (let s := (pool 0 0xB_0001).mapMe (fun h => { h with remote := [⟨0, 0, 256, .ackOnly, some (true, leBytesOf 8 5), false⟩] });
      (s.me.remote.find? fun x => x.dev == 256) = some ⟨0, 0, 256, .ackOnly, some (true, leBytesOf 8 5), false⟩) ∧
    prState 0x9_0001 = 1 ∧ prPart 0x9_0001 = 1 ∧ prInfl 0x9_0001 = 0 ∧ prState 0xA_0003 = 2 ∧ 2 < prRefs 0xA_0003 ∧ prRefs 0xA_0002 ≤ 2 ∧
    prState 0xA_FFFF = 2 ∧ prRefs 0xA_FFFF = 65535 ∧ prState 0xB_0001 = 3 ∧ prPart 0xB_0001 = 1 ∧ prState 0 = 0 ∧ prPart 0x1_0001 ≠ 1 ∧
    prInfl 0x1_0000_0009_0001 ≠ 0 := by
  refine ⟨?_, by decide +kernel, by decide +kernel, by decide +kernel, rfl, ?_, by decide +kernel, by decide +kernel⟩
  · intro d hd
    simp only [List.mem_cons, List.not_mem_nil, or_false] at hd
    rcases hd with rfl | rfl
    all_goals exact ⟨⟨by decide +kernel, fun m h => by cases h⟩, ⟨by decide +kernel, ⟨0x200_0000_0000, placed_of rfl (by decide +kernel), by decide +kernel, by decide +kernel⟩, by decide +kernel⟩,
      by decide +kernel, by unfold poolApart apart; decide +kernel, steady_of (by decide +kernel), steady_of (by decide +kernel)⟩
  · intro r hr
    simp only [List.mem_cons, List.not_mem_nil, or_false] at hr
    rcases hr with rfl | rfl | rfl | rfl | rfl | rfl | rfl | rfl
    all_goals exact ⟨⟨by decide +kernel, fun m h => by cases h⟩, ⟨by decide +kernel, ⟨0x200_0000_0000, placed_of rfl (by decide +kernel), by decide +kernel, by decide +kernel⟩, by decide +kernel⟩,
      by decide +kernel, by decide +kernel, by decide +kernel, ⟨steady_of (by decide +kernel), steady_of (by decide +kernel)⟩, by decide +kernel⟩

/-- A serving descriptor at 0x1000 with one record at 0x2008, an admission ring with one entry, a step list at 0x3400, and a pool; the
record in the state given, with one page of no block. -/
def serving (st : Nat) : State :=
  let s := (pool (oneFree) 0).mapMe fun h => h.setX 7 0x1000 noTaint
  put 0x3400 4 5 (put 0x3300 4 0xFFFF_FFFF (put 0x3000 12 (0x3400 + 2 ^ 64) (put 0x2008 24 (st + 0x3300 * 2 ^ 64 + 2 ^ 128)
    (put 0x1000 64 (0x4000_0000 + 0x2000 * 2 ^ 64 + 0x3000 * 2 ^ 192 + 0x3100 * 2 ^ 256 + 2 ^ 352 + 0x3200 * 2 ^ 384) s))))

/-- SequencerCommands: BSHAPE of this descriptor and of one of zeros. -/
theorem test_hyps_bshape :
    let s := serving 0
    let w := tagged (waited s [7, 6])
    (s.me.xr 7).toNat % 64 = 0 ∧
    (∃ u bs, w.readVa (s.me.xr 7).toNat 64 .read false true = (u, .ok bs)) ∧ (s.me.xr 6).toNat = 0 ∧
    (let u := (w.readVa (s.me.xr 7).toNat 64 .read false true).1
     (∃ u' bs', u.readVa ((0x3000 + 8) % 2 ^ 64) 4 .read false true = (u', .ok bs')) ∧
       ∃ u' bs', u.readVa ((0x3000 + 0) % 2 ^ 64) 8 .read false true = (u', .ok bs')) :=
  ⟨by decide +kernel, ok_of (by decide +kernel), by decide +kernel, ok_of (by decide +kernel), ok_of (by decide +kernel)⟩

theorem errM_of {α : Type} {r : EStateM.Result QStop State α} (e : QStop)
    (h : (match r with | .ok _ _ => false | .error x _ => decide (x = e)) = true) : ∃ u, r = .error e u := by
  cases r with
  | ok a u => cases h
  | error x u => exact ⟨u, by rw [of_decide_eq_true h]⟩
/-- The cases of SQRET: a page released with one left, a page that its home holds, and the end of the sequence. -/
theorem more_of {va : Nat} {w : State} (h : (match Q.retireAll va 0 w, Q.retireStart false va 0 w with
      | .ok () _, .ok (d, m) u1 => (match Q.retirePage false d 0 m u1 with | .ok () _ => decide (m ≠ 0) | _ => false)
      | _, _ => false) = true) :
    ∃ u d m u1 u2, Q.retireAll va 0 w = .ok () u ∧ Q.retireStart false va 0 w = .ok (d, m) u1 ∧ m ≠ 0 ∧ Q.retirePage false d 0 m u1 = .ok () u2 := by
  split at h <;> [skip; cases h]
  rename_i u d m u1 h1 h2
  split at h <;> [skip; cases h]
  rename_i u2 h3
  exact ⟨u, d, m, u1, u2, h1, h2, of_decide_eq_true h, h3⟩
theorem held_of {va : Nat} {w : State} (x : PageWait) (h : (match Q.retireAll va 0 w, Q.retireStart false va 0 w with
      | .ok () _, .ok (d, m) u1 => (match Q.retirePage false d 0 m u1 with | .error (.held z) _ => decide (m ≠ 0 ∧ z = x) | _ => false)
      | _, _ => false) = true) :
    ∃ u d m u1 u2, Q.retireAll va 0 w = .ok () u ∧ Q.retireStart false va 0 w = .ok (d, m) u1 ∧ m ≠ 0 ∧
      Q.retirePage false d 0 m u1 = .error (.held x) u2 := by
  split at h <;> [skip; cases h]
  rename_i u d m u1 h1 h2
  split at h <;> [skip; cases h]
  rename_i z u2 h3
  obtain ⟨h4, rfl⟩ := of_decide_eq_true h
  exact ⟨u, d, m, u1, u2, h1, h2, h4, h3⟩
theorem end_of {va : Nat} {w : State} (h : (match Q.retireAll va 0 w, Q.retireStart false va 0 w with
      | .ok () _, .ok (d, 0) u1 => (match Q.retireEnd false d 0 (releasedAll u1 4) with | .ok _ _ => !u1.postedOut u1.cur | .error _ _ => false)
      | _, _ => false) = true) :
    ∃ u d u1 u3 n, Q.retireAll va 0 w = .ok () u ∧ Q.retireStart false va 0 w = .ok (d, 0) u1 ∧ noPosted u1 4 ∧
      Q.retireEnd false d 0 (releasedAll u1 4) = .ok n u3 := by
  split at h <;> [skip; cases h]
  rename_i u d u1 h1 h2
  split at h <;> [skip; cases h]
  rename_i n u3 h4
  exact ⟨u, d, u1, u3, n, h1, h2, fun _ => by simpa using h, h4⟩

/-- The same sequence with two pages left, and with page 0 of the pool, handed over to the own partition, as its only one. -/
def twoPages : State := put 0x3300 8 (2 ^ 64 - 1) (put 0x2018 4 2 (serving 1))
def heldPage : State := put 0x3300 4 0 (put 0x1_0000 8 0xB_0001 (serving 1))
def noPages : State := put 0x2018 4 0 (serving 1)
/-- The state in which SQRET starts. -/
def retiring (s : State) : State := releasedAll (waited s [7, 6]) 3

/-- SequencerCommands: SQADM admits a sequence, with its record taken answers 6, and without a translation 2. -/
theorem test_hyps_admit :
    (∃ n u, Q.admitSeq ((serving 0).me.xr 7).toNat (((serving 0).me.xr 6).toNat % 2 ^ 32) (waited (serving 0) [7, 6]) = .ok n u) ∧
    (∃ u, Q.admitSeq ((serving 1).me.xr 7).toNat (((serving 1).me.xr 6).toNat % 2 ^ 32) (waited (serving 1) [7, 6]) = .error (.code 6 0) u) ∧
    ∃ u, Q.admitSeq 0x1_0000_0000 0 (waited (serving 1) [7, 6]) = .error (.fault 2 0x1_0000_0000) u := by
  refine ⟨okM_of (by decide +kernel), errM_of _ (by decide +kernel), errM_of _ (by decide +kernel)⟩

/-- SequencerCommands: SQRET at a free record answers 8, and without a translation 2; with a page of two, with one that is held, and at the end. -/
theorem test_hyps_retire_codes :
    (∃ u, Q.retireAll ((serving 0).me.xr 7).toNat 0 (retiring (serving 0)) = .error (.code 8 0) u) ∧
    ∃ u, Q.retireAll 0x1_0000_0000 0 (retiring (serving 0)) = .error (.fault 2 0x1_0000_0000) u :=
  ⟨errM_of _ (by decide +kernel), errM_of _ (by decide +kernel)⟩
theorem test_hyps_retire_more :
    ∃ u d m u1 u2, Q.retireAll 0x1000 0 (retiring twoPages) = .ok () u ∧ Q.retireStart false 0x1000 0 (retiring twoPages) = .ok (d, m) u1 ∧ m ≠ 0 ∧
      Q.retirePage false d 0 m u1 = .ok () u2 := more_of (by decide +kernel)
theorem test_hyps_retire_held :
    ∃ u d m u1 u2, Q.retireAll 0x1000 0 (retiring heldPage) = .ok () u ∧ Q.retireStart false 0x1000 0 (retiring heldPage) = .ok (d, m) u1 ∧ m ≠ 0 ∧
      Q.retirePage false d 0 m u1 = .error (.held ⟨1, 0x200_0000_0000, 5, 0, 1⟩) u2 := held_of _ (by decide +kernel)
theorem test_hyps_retire_end :
    ∃ u d u1 u3 n, Q.retireAll 0x1000 0 (retiring noPages) = .ok () u ∧ Q.retireStart false 0x1000 0 (retiring noPages) = .ok (d, 0) u1 ∧
      noPosted u1 4 ∧ Q.retireEnd false d 0 (releasedAll u1 4) = .ok n u3 := end_of (by decide +kernel)

/-- Bytes of the executing hart's world that nothing unperformed covers, in the TLB of its core, and that they take a write. -/
def readsAt (s : State) (va pa n : Nat) : Bool :=
  decide (va % 2 ^ 64 % 0x1_0000 + n ≤ 0x1_0000) && (tlbFind (s.coreAt (s.reqFor s.cur).core).tlb (s.reqFor s.cur).ctx (va % 2 ^ 64)).isSome &&
  !s.readRefused (myWorld s) pa n && (linesOf pa n).all (fun l => !s.poisoned (l * 64) && !s.macBad (l * 64)) && s.writes.isEmpty
def writesAt (s : State) (pa n : Nat) : Bool :=
  !s.writeRefused (myWorld s) pa n && !inCtxTab pa && s.queues.isEmpty && !inPool pa && (linesOf pa n).all fun l => s.tagOf (l * 64) == 0
theorem seqRead_at {s : State} {va pa n : Nat} (h : readsAt s va pa n = true)
    (l : s.locate (s.reqFor s.cur) (va % 2 ^ 64) .read = (s, .ok (.local pa))) : seqRead s va pa n := by
  simp only [readsAt, Bool.and_eq_true] at h
  obtain ⟨⟨⟨⟨h1, h2⟩, h3⟩, h4⟩, h5⟩ := h
  refine ⟨⟨of_decide_eq_true h1, ⟨l, .inr h2⟩, by simpa using h3, fun k hk => by simpa using List.all_eq_true.mp h4 k hk⟩, fun x hx => ?_⟩
  rw [List.isEmpty_iff.mp h5] at hx; cases hx
theorem seqWord_at {s : State} {va pa n : Nat} (h : readsAt s va pa n = true) (g : writesAt s pa n = true)
    (l : s.locate (s.reqFor s.cur) (va % 2 ^ 64) .read = (s, .ok (.local pa)))
    (k : s.locate (s.reqFor s.cur) (va % 2 ^ 64) .write = (s, .ok (.local pa))) : seqWord s va pa n := by
  have r := seqRead_at h l
  simp only [writesAt, Bool.and_eq_true, Bool.not_eq_true'] at g
  obtain ⟨⟨⟨⟨g1, g2⟩, g3⟩, g4⟩, g5⟩ := g
  refine ⟨r, r.1.1, ⟨k, r.1.2.1.2⟩, ⟨r.1.2.2.1, g1, g2, fun j hj => (r.1.2.2.2 j hj).2, fun q hq => ?_, fun hp => ?_⟩, steady_of g5⟩
  · rw [List.isEmpty_iff.mp g3] at hq; cases hq
  · rw [g4] at hp; exact absurd hp.1 (by decide)

/-- SequencerCommands: SQADM of the one entry of that ring, for record 0. -/
theorem test_hyps_admission :
    let s := serving 0
    let w := waited s [7, 6]
    let d := w.homeNat 0x1000 64
    let e := w.homeNat 0x3100 32
    s.memOk ∧ (s.me.xr 7).toNat = 0x1000 ∧ (s.me.xr 6).toNat = 0 ∧ seqRead w 0x1000 0x1000 64 ∧ bits d 159 152 = 0 ∧
    seqWord w (0x1000 + 40) (0x1000 + 40) 4 ∧ seqRead w (0x1000 + 44) (0x1000 + 44) 4 ∧ bits d 351 320 ≠ bits d 383 352 ∧
    bits d 127 64 = 0x2000 ∧ bits d 143 128 = 0 ∧ bits d 63 0 = 0x4000_0000 ∧ bits d 319 256 + 32 * (bits d 351 320 % 2 ^ bits d 147 144) = 0x3100 ∧
    poolIs w 0x4000_0000 poolRec ∧ 0 ≤ pdFreeCnt (w.homeNat poolRec.pa 64) ∧ (∀ k, k ≤ 0 → seqRead w (0x2000 + 8 * 1 + 64 * k) 0x2008 8) ∧
    bits (w.homeNat 0x2008 64) 2 0 = 0 ∧ (∀ o ∈ [0, 8, 16, 24], seqRead w (0x3100 + o) (0x3100 + o) 8) ∧ bits e 155 152 ≤ 8 ∧ bits e 159 156 = 0 ∧
    (∀ x ∈ [(0, 8), (8, 8), (16, 4), (24, 8), (32, 8), (44, 4)], seqWord w (0x2008 + x.1) (0x2008 + x.1) x.2) ∧
    seqWord w 0x2000 0x2000 4 ∧ seqWord w (0x2000 + 4 * 1) 0x2004 4 ∧
    [(0x1000, 64), (0x2008, 64), (0x2000, 4), (0x2004, 4)].Pairwise (fun x y => apart x.1 x.2 y.1 y.2) := by
  refine ⟨⟨by decide +kernel, fun m h => by cases h⟩, by decide +kernel, by decide +kernel, seqRead_at (by decide +kernel) rfl, by decide +kernel,
    seqWord_at (by decide +kernel) (by decide +kernel) rfl rfl, seqRead_at (by decide +kernel) rfl, by decide +kernel, by decide +kernel, by decide +kernel,
    by decide +kernel, by decide +kernel,
    ⟨by decide +kernel, ⟨0x200_0000_0000, placed_of rfl (by decide +kernel), by decide +kernel, by decide +kernel⟩, by decide +kernel⟩,
    Nat.zero_le _, fun k hk => ?_, by decide +kernel, ?_, by decide +kernel, by decide +kernel, ?_,
    seqWord_at (by decide +kernel) (by decide +kernel) rfl rfl, seqWord_at (by decide +kernel) (by decide +kernel) rfl rfl, by unfold apart; decide⟩
  · obtain rfl : k = 0 := by omega
    exact seqRead_at (by decide +kernel) rfl
  · intro o ho
    simp only [List.mem_cons, List.not_mem_nil, or_false] at ho
    rcases ho with rfl | rfl | rfl | rfl
    all_goals exact seqRead_at (by decide +kernel) rfl
  · intro x hx
    simp only [List.mem_cons, List.not_mem_nil, or_false] at hx
    rcases hx with rfl | rfl | rfl | rfl | rfl | rfl
    all_goals exact seqWord_at (by decide +kernel) (by decide +kernel) rfl rfl
/-- The clauses of SQADM that answer 5, 9 and 6: an empty ring, a pool with no page for a reserve of one, the only record taken. -/
theorem test_hyps_admission_codes :
    (let d := (waited (put 0x102C 4 0 (serving 0)) [7, 6]).homeNat 0x1000 64; bits d 351 320 = bits d 383 352) ∧
    pdFreeCnt ((waited (put 0x200_0000_0000 64 0 (serving 0)) [7, 6]).homeNat poolRec.pa 64) < 1 ∧
    bits ((waited (serving 1) [7, 6]).homeNat 0x2008 8) 2 0 ≠ 0 := by decide +kernel

/-- What the clauses of SQRET assume, for a sequence that its hart is not retiring yet. -/
def retires (s : State) : Prop :=
  let w := retiring s
  let d := w.homeNat 0x1000 64
  let r := w.homeNat 0x2008 64
  let tables := [(0x1000, 64), (0x2008, 64), (0x3200, 32), (0x2000, 4)]
  let id := w.homeNat 0x3300 4
  s.memOk ∧ (s.me.xr 7).toNat = 0x1000 ∧ (s.me.xr 6).toNat = 0 ∧ seqRead w 0x1000 0x1000 64 ∧ bits d 159 152 = 0 ∧ bits d 143 128 = 0 ∧
  bits d 127 64 = 0x2000 ∧ seqRead w 0x2008 0x2008 64 ∧ (bits r 2 0 = 1 ∨ bits r 2 0 = 2) ∧ bits r 11 8 ≤ 8 ∧
  (∀ f ∈ [(7, 4), (15, 12), (54, 28), (191, 160), (511, 384)], bits r f.1 f.2 = 0) ∧
  (bits d 479 448 + 2 ^ 32 - bits d 511 480) % 2 ^ 32 < 2 ^ bits d 151 148 ∧ bits d 447 384 + 32 * (bits d 479 448 % 2 ^ bits d 151 148) = 0x3200 ∧
  seqWord w (0x1000 + 56) (0x1000 + 56) 4 ∧ seqRead w (0x1000 + 60) (0x1000 + 60) 4 ∧ seqRead w (0x2008 + 8) (0x2008 + 8) 8 ∧
  (∀ x ∈ [(0, 8), (16, 4), (40, 4), (44, 4)], seqWord w (0x2008 + x.1) (0x2008 + x.1) x.2) ∧ seqRead w 0x2000 0x2000 4 ∧
  (∀ o ∈ [0, 8, 16, 24], seqWord w (0x3200 + o) (0x3200 + o) 8) ∧ bits d 63 0 = 0x4000_0000 ∧ poolIs w 0x4000_0000 poolRec ∧
  (w.me.remote.find? fun x => x.dev == 256) = none ∧ bits r 127 64 = 0x3300 ∧ bits r 159 128 ≤ 1 ∧ seqWord w 0x3300 0x3300 4 ∧
  tables.Pairwise (fun x y => apart x.1 x.2 y.1 y.2) ∧ (∀ x ∈ tables, apart 0x3300 4 x.1 x.2) ∧
  (id < poolRec.npages → poolSteady w poolRec id ∧ poolApart poolRec id ∧
    ∀ x ∈ [(poolRec.recPa id, 8), (poolRec.pa, 64)], (∀ y ∈ tables, apart x.1 x.2 y.1 y.2) ∧ apart x.1 x.2 0x3300 4)
/-- SequencerCommands: SQRET with no page left, with a page that no block holds, and with page 0, owned by the own partition. -/
def ownedPage : State := put 0x3300 4 0 (put 0x1_0000 8 0x9_0001 (serving 1))
theorem test_hyps_retirement :
    (∀ s ∈ [noPages, serving 1, ownedPage], retires s) ∧ noPosted noPages 4 ∧ bits ((retiring noPages).homeNat 0x2008 64) 159 128 = 0 ∧
    bits ((retiring (serving 1)).homeNat 0x2008 64) 159 128 = 1 ∧ (retiring (serving 1)).homeNat 0x3300 4 = 0xFFFF_FFFF ∧
    (let w := retiring ownedPage
     bits (w.homeNat 0x2008 64) 159 128 = 1 ∧ w.homeNat 0x3300 4 = 0 ∧ prState (w.pageRec poolRec 0) = 1 ∧ prPart (w.pageRec poolRec 0) = myPart w) := by
  refine ⟨?_, fun _ => by decide +kernel, by decide +kernel, by decide +kernel, by decide +kernel, by decide +kernel⟩
  intro s hs
  simp only [List.mem_cons, List.not_mem_nil, or_false] at hs
  rcases hs with rfl | rfl | rfl
  all_goals
    refine ⟨⟨by decide +kernel, fun m h => by cases h⟩, by decide +kernel, by decide +kernel, seqRead_at (by decide +kernel) rfl, by decide +kernel,
      by decide +kernel, by decide +kernel, seqRead_at (by decide +kernel) rfl, by decide +kernel, by decide +kernel, by decide +kernel, by decide +kernel,
      by decide +kernel, seqWord_at (by decide +kernel) (by decide +kernel) rfl rfl, seqRead_at (by decide +kernel) rfl,
      seqRead_at (by decide +kernel) rfl, ?_, seqRead_at (by decide +kernel) rfl, ?_, by decide +kernel,
      ⟨by decide +kernel, ⟨0x200_0000_0000, placed_of rfl (by decide +kernel), by decide +kernel, by decide +kernel⟩, by decide +kernel⟩, by decide +kernel,
      by decide +kernel, by decide +kernel, seqWord_at (by decide +kernel) (by decide +kernel) rfl rfl, by unfold apart; decide, by unfold apart; decide,
      fun h => ?_⟩
    · intro x hx
      simp only [List.mem_cons, List.not_mem_nil, or_false] at hx
      rcases hx with rfl | rfl | rfl | rfl
      all_goals exact seqWord_at (by decide +kernel) (by decide +kernel) rfl rfl
    · intro o ho
      simp only [List.mem_cons, List.not_mem_nil, or_false] at ho
      rcases ho with rfl | rfl | rfl | rfl
      all_goals exact seqWord_at (by decide +kernel) (by decide +kernel) rfl rfl
  all_goals
    first
    | exact absurd h (by decide +kernel)
    | exact ⟨⟨steady_of (by decide +kernel), steady_of (by decide +kernel)⟩, by unfold poolApart apart; decide +kernel, by unfold apart; decide +kernel⟩

/-- SequencerCommands: VSTOP of four elements at a step of one sequence, whose record number is not one of the descriptor. -/
theorem test_hyps_vstop :
    let s := serving 1
    let w := (loadIssue s 0 [2] [7]).mapMe fun x => x.markDirty { dstK := [3] }
    let h := w.me
    vecReady s (fun h => h.sew = 2) ∧
      ∃ v, memLoop (fun i x => match x.stopElem (h.xr 7).toNat i (h.elem 2 32 i) (h.elemBad 2 32 i) with
        | (x, .error e) => (x, .error e)
        | (x, .ok none) => (x, .ok ())
        | (x, .ok (some b)) => (x.mapMe fun h => h.setK 3 i b, .ok ())) ((List.range h.vln).filter (active h 0 h.vln)) w = (v, none) :=
  ⟨by unfold vecReady; decide +kernel, none_of (by decide +kernel)⟩
/-- The reads of its one element: the count, the list, a record number past the table. -/
theorem test_hyps_stop_far :
    let s := serving 1
    ∃ u1 bs u2 cs u3 ls u4 qs, s.readVa (0x1000 % 2 ^ 64) 64 .read true true = (u1, .ok bs) ∧
      (bits (leValue bs) 255 192 + 16 * (bits (leValue bs) 191 160 % 2)) % 2 ^ 64 = 0x3000 ∧
      u1.readVa ((0x3000 + 8) % 2 ^ 64) 4 .read true true = (u2, .ok cs) ∧ leValue cs ≤ 1 ∧ 0 < leValue cs ∧
      u2.readVa 0x3000 8 .read true true = (u3, .ok ls) ∧ (leValue ls + 4 * 0) % 2 ^ 64 = 0x3400 ∧
      u3.readVa 0x3400 4 .read true true = (u4, .ok qs) ∧ bits (leValue bs) 143 128 + 1 ≤ leValue qs := by
  refine ⟨_, _, _, _, _, _, _, _, rfl, ?_, rfl, ?_, ?_, rfl, ?_, rfl, ?_⟩
  all_goals decide +kernel
/-- The step's sequence is the first record, with one stop token, 9; `st` is its state. -/
def stopping (st : Nat) : State := put 0x3500 4 9 (put 0x2020 8 0x3500 (put 0x3400 4 0 (serving (st + 2 ^ 8))))
/-- The reads of its element in the order in which it makes them, with what they give. -/
def stopCas (x : Nat) (u8 : State) : Bool := passes (u8.amoVa .cas 0x2008 8 (x - bits x 2 0 + 2) x) fun _ _ => true
def stopToken (x : Nat) (u7 : State) (ss : List Byte) : Bool :=
  decide (leValue ss = 0x3500) && passes (u7.readVa ((0x3500 + 4 * 0) % 2 ^ 64) 4 .read true true) fun u8 ts => decide (leValue ts = 9) && stopCas x u8
def stopWord (u6 : State) (x : Nat) : Bool :=
  decide (bits x 2 0 = 1 ∧ [9].length = min 8 (bits x 11 8)) &&
    passes (u6.readVa ((0x2008 + 24) % 2 ^ 64) 8 .read true true) (stopToken x)
def stopSeq (u4 : State) (qs : List Byte) : Bool :=
  decide (leValue qs = 0) && passes (u4.readVa 0x2008 8 .read true true) (fun _ _ => true) && passes (u4.amoVa .lda 0x2008 8 0 0) stopWord
def stopCount (u2 : State) (cs : List Byte) : Bool :=
  decide (0 < leValue cs) && passes (u2.readVa 0x3000 8 .read true true) fun u3 ls =>
    decide (leValue ls = 0x3400) && passes (u3.readVa 0x3400 4 .read true true) stopSeq
def stopDesc (u1 : State) (bs : List Byte) : Bool :=
  decide ((bits (leValue bs) 255 192 + 16 * (bits (leValue bs) 191 160 % 2)) % 2 ^ 64 = 0x3000 ∧ 0 < bits (leValue bs) 143 128 + 1 ∧
      (bits (leValue bs) 127 64 + 8 * (bits (leValue bs) 143 128 + 1) + 64 * 0) % 2 ^ 64 = 0x2008) &&
    passes (u1.readVa ((0x3000 + 8) % 2 ^ 64) 4 .read true true) stopCount

/-- Its reads up to the record's word: one that is not live, and a live one, with its stop list, and the CAS that finishes it. -/
theorem test_hyps_stop_record :
    (∃ u6 x, (stopping 0).amoVa .lda 0x2008 8 0 0 = (u6, .ok x) ∧ bits x 2 0 ≠ 1) ∧
    (∃ u1 bs u2 cs u3 ls u4 qs u5 rs u6 x u7 ss u8 u9 y, (stopping 1).readVa (0x1000 % 2 ^ 64) 64 .read true true = (u1, .ok bs) ∧
      ((bits (leValue bs) 255 192 + 16 * (bits (leValue bs) 191 160 % 2)) % 2 ^ 64 = 0x3000 ∧ 0 < bits (leValue bs) 143 128 + 1 ∧
        (bits (leValue bs) 127 64 + 8 * (bits (leValue bs) 143 128 + 1) + 64 * 0) % 2 ^ 64 = 0x2008) ∧
      u1.readVa ((0x3000 + 8) % 2 ^ 64) 4 .read true true = (u2, .ok cs) ∧ 0 < leValue cs ∧
      u2.readVa 0x3000 8 .read true true = (u3, .ok ls) ∧ leValue ls = 0x3400 ∧ u3.readVa 0x3400 4 .read true true = (u4, .ok qs) ∧ leValue qs = 0 ∧
      u4.readVa 0x2008 8 .read true true = (u5, .ok rs) ∧ u4.amoVa .lda 0x2008 8 0 0 = (u6, .ok x) ∧
      (bits x 2 0 = 1 ∧ [9].length = min 8 (bits x 11 8)) ∧ u6.readVa ((0x2008 + 24) % 2 ^ 64) 8 .read true true = (u7, .ok ss) ∧
      leValue ss = 0x3500 ∧ tokensRead 0x3500 [9] 0 u7 u8 ∧ 7 ∉ [9] ∧ 9 ∈ [9] ∧ u8.amoVa .cas 0x2008 8 (x - bits x 2 0 + 2) x = (u9, .ok y)) := by
  refine ⟨then_of (p := fun _ x => decide (bits x 2 0 ≠ 1)) (by decide +kernel) |>.imp fun u h => h.imp fun x h => ⟨h.1, of_decide_eq_true h.2⟩, ?_⟩
  obtain ⟨u1, bs, e1, h⟩ := then_of (show passes ((stopping 1).readVa (0x1000 % 2 ^ 64) 64 .read true true) stopDesc = true by decide +kernel)
  obtain ⟨d1, h⟩ := (Bool.and_eq_true _ _).mp h
  obtain ⟨u2, cs, e2, h⟩ := then_of h
  obtain ⟨d2, h⟩ := (Bool.and_eq_true _ _).mp h
  obtain ⟨u3, ls, e3, h⟩ := then_of h
  obtain ⟨d3, h⟩ := (Bool.and_eq_true _ _).mp h
  obtain ⟨u4, qs, e4, h⟩ := then_of h
  obtain ⟨h, h6⟩ := (Bool.and_eq_true _ _).mp h
  obtain ⟨d4, h5⟩ := (Bool.and_eq_true _ _).mp h
  obtain ⟨u5, rs, e5, -⟩ := then_of h5
  obtain ⟨u6, x, e6, h⟩ := then_of h6
  obtain ⟨d6, h⟩ := (Bool.and_eq_true _ _).mp h
  obtain ⟨u7, ss, e7, h⟩ := then_of h
  obtain ⟨d7, h⟩ := (Bool.and_eq_true _ _).mp h
  obtain ⟨u8, ts, e8, h⟩ := then_of h
  obtain ⟨d8, h⟩ := (Bool.and_eq_true _ _).mp h
  obtain ⟨u9, y, e9, -⟩ := then_of h
  exact ⟨u1, bs, u2, cs, u3, ls, u4, qs, u5, rs, u6, x, u7, ss, u8, u9, y, e1, of_decide_eq_true d1, e2, of_decide_eq_true d2, e3,
    of_decide_eq_true d3, e4, of_decide_eq_true d4, e5, e6, of_decide_eq_true d6, e7, of_decide_eq_true d7,
    ⟨u8, ts, by decide, e8, of_decide_eq_true d8, rfl⟩, by decide, by decide, e9⟩

end Sys2Proof.Tests
end

