-- ==== Sys2Proof/Tests/WHart.lean ====
section
/-! SUPPORT. Witnesses: states and operands that meet the hypotheses of the statements about the steps of harts with no encoding, queues,
launches and crews, clause by clause. -/

namespace Sys2Proof.Tests
set_option Elab.async false
open Sys2Proof Sys2Proof.Machine Sys2Proof.Claims

theorem opt_of {α : Type} {r : State × Option α} {p : State → Bool} (h : (r.2.isSome && p r.1) = true) : ∃ v x, r = (v, some x) ∧ p v = true := by
  obtain ⟨v, o⟩ := r
  cases o with
  | none => cases h
  | some x => exact ⟨v, x, rfl, by simpa using h⟩
theorem all_of {r : State × Bool} {p : State → Bool} (h : (r.2 && p r.1) = true) : ∃ v, r = (v, true) ∧ p v = true := by
  obtain ⟨v, o⟩ := r
  cases o with
  | false => cases h
  | true => exact ⟨v, rfl, by simpa using h⟩

/-- A reading that succeeds and leaves the state as it was, with a check of what it answers. -/
theorem same_of {ε α : Type} {r : State × Except ε α} {s : State} {p : α → Bool} (e : r.1 = s) (h : passes r (fun _ b => p b) = true) :
    ∃ b, r = (s, .ok b) ∧ p b = true := by
  obtain ⟨u, b, rfl, h⟩ := then_of h
  exact ⟨b, by rw [← e], h⟩
theorem same_eq {ε α : Type} [DecidableEq α] {r : State × Except ε α} {s : State} {a : α} (e : r.1 = s) (h : passes r (fun _ b => decide (b = a)) = true) :
    r = (s, .ok a) := by
  obtain ⟨b, hb, h⟩ := same_of e h
  simp only [decide_eq_true_eq] at h
  rw [hb, h]

/-! ### Harts -/

/-- Crew 0 runs launch 0, and its access hart takes interrupts; the timer has come, the doorbell stands, and so does a request to leave. -/
def due : State :=
  { (acc.mapMe fun h => { h with sstatus := 0x3_0001, timecmp := 0, tags := [⟨3, 0, []⟩] }).mapCrew 0 fun c =>
      { c with resident := some ⟨0, 0, 0, 0⟩, preempt := true } with doorbell := true }

/-- The same with no request, and the same waiting in a WFI. -/
def calm : State := due.mapCrew 0 fun c => { c with preempt := false }
def waiting (s : State) : State := s.mapHart 0 fun h => { h with stalled := some .wfi }
/-- The first hart waits for another device inside an instruction, whose translations are cached. -/
def pinning : State :=
  { acc.mapHart 0 fun h => { h with remote := [⟨9, 0, 255, .read 0x2000 8, none, false⟩] } with
      dies := acc.dies.map fun d => { d with tlb := [⟨0, 0, 0x4000_0000, 0x2F⟩, ⟨5, 0, 0x4000_0000, 0x2F⟩], walk := [⟨0, 0, 1, 0⟩, ⟨5, 0, 1, 0⟩] } }

/-- HartEvents: each cause due, beside a WFI and not; the timer with no doorbell and with one that is not enabled; none allowed in supervisor
mode; the end address; each CSR; the request standing and not; a context of its own; a tag that needs no write; translations pinned and not. -/
theorem test_hyps_hart :
    (∀ s ∈ [calm, waiting calm], mailboxDue s 0 ∧ timerDue { s with doorbell := false } 0 ∧
      timerDue (s.mapHart 0 fun h => { h with sstatus := 0x2_0001 }) 0) ∧
    (∀ s ∈ [due, waiting due, due.mapHart 0 fun h => { h with ended := true }], requestDue s 0) ∧
    ((due.hartAt 0).stalled ≠ some .wfi ∧ ((waiting due).hartAt 0).stalled = some .wfi) ∧
    (let s := due.mapHart 0 fun h => { h with sstatus := 0, sup := true }
     (s.hartAt 0).mayTake = false ∧ (s.hartAt 0).stalled ≠ some .wfi) ∧
    (let s := due.mapHart 0 fun h => { h with pc := 0xFFFF_FFFF_FFFF_F000 }
     s.issuing 0 = true ∧ (s.hartAt 0).sup = false ∧ (s.hartAt 0).pc = 0xFFFF_FFFF_FFFF_F000) ∧
    (∀ e ∈ maskedFields, (BitVec.ofNat 11 e.1).toNat = e.1) ∧
    (due.crewAt (crewOf 0)).preempt = true ∧ (acc.crewAt (crewOf 0)).preempt = false ∧
    ((acc.reqFor 0).ctx = 0 ∧ ((acc.mapMe fun h => { h with sxlat := 2 ^ 48 }).reqFor 0).ctx ≠ 0) ∧
    ((due.hartAt 0).run.bind Run.tag ≠ some 3 ∧ (due.hartAt 0).run.bind Run.pops ≠ some 3 ∧
      (∀ u ∈ (due.hartAt 0).tags, u.id = 3 → ∀ id ∈ u.needs, ∀ w ∈ due.writes, w.id = id → w.inView (.core (0 / 8)) = true) ∧
      (∃ u ∈ (due.hartAt 0).tags, u.id = 3)) ∧
    (15 < 16 ∧ (due.admission.filter fun x => x.src = 5).length < 16 ∧ (2#64).getLsbD 0 = false) ∧
    ((∀ e, (acc.coreAt 0).tlb[0]? = some e → acc.pinned e.ctx 0 = false) ∧ (∀ e, (pinning.coreAt 0).tlb[0]? = some e → pinning.pinned e.ctx 0 = true)) ∧
    (let held (ctx : Nat) : Prop := ∃ c, c / 8 = 0 ∧ pinning.pinned ctx c = true
     ((pinning.dieAt 0).tlb[1]? = some ⟨5, 0, 0x4000_0000, 0x2F⟩ ∧ (pinning.dieAt 0).walk[1]? = some ⟨5, 0, 1, 0⟩ ∧ ¬ held 5) ∧
     (∃ e, held e.ctx ∧ (pinning.dieAt 0).tlb[0]? = some e)) := by
  unfold timerDue mailboxDue interruptDue requestDue
  refine ⟨?_, ?_, by decide +kernel, by decide +kernel, by decide +kernel, by decide +kernel, by decide +kernel, by decide +kernel, by decide +kernel,
    by decide +kernel, by decide +kernel, ⟨?_, ?_⟩, ⟨by decide +kernel, by decide +kernel, ?_⟩, ⟨⟨0, 0, 0x4000_0000, 0x2F⟩, ⟨0, by decide, by decide +kernel⟩, by decide +kernel⟩⟩
  · intro s hs
    simp only [List.mem_cons, List.not_mem_nil, or_false] at hs
    rcases hs with rfl | rfl <;> decide +kernel
  · intro s hs
    simp only [List.mem_cons, List.not_mem_nil, or_false] at hs
    rcases hs with rfl | rfl | rfl <;> decide +kernel
  · intro e he; cases he; decide +kernel
  · intro e he; cases he; decide +kernel
  · rintro ⟨c, hc, hp⟩
    revert hp
    have hc : c < 8 := by omega
    interval_cases c <;> decide +kernel

theorem due_memOk : due.memOk := ⟨by decide +kernel, fun m h => by cases h⟩

/-! ### Queues and launches -/

/-- Queue 1 of die 0, its descriptor at the start of the pool memory: its ring at 0x1000 with four slots, with this TAIL and N. -/
def queue1 (m d : Bool) : UserQueue := ⟨0, 1, 0, 0x200_0000_0000, m, d, 0, 0⟩
def queued (m d : Bool) (tail n : Nat) : State :=
  put 0x200_0000_0000 64 (0x1000 + tail * 2 ^ 64 + 2 * 2 ^ 128 + n * 2 ^ 192) { pooled acc with queues := [queue1 m d] }

set_option maxRecDepth 20000 in
/-- QueuesAndLaunches: a notification; a record taken; a queue mapped; an empty one unmapped. -/
theorem test_hyps_queue :
    ((queued true false 0 0).memOk ∧ (queued true false 0 0).stopping = false ∧ ({ queued true false 0 0 with stopping := true }).stopping = true ∧ (queued true false 0 0).queueOf 0 1 = some (queue1 true false) ∧
      steady (queued true false 0 0) 0x200_0000_0000 64 ∧ (queued true false 0 0).tdiBars ((queued true false 0 0).ctxWorld 0) 1 false = false) ∧
    (let s := (put (ctxPa 0) 8 (3 * 2 ^ 8) (queued true false 0 0)).mapWorld 3 fun w => { w with tdi := 2 }
     s.queueOf 0 1 = some (queue1 true false) ∧ s.tdiBars (s.ctxWorld 0) 1 false = true) ∧
    (let s := queued true true 1 1
     let u := (s.putN (queue1 true true) 0).setQueue { queue1 true true with due := false }
     let d := u.qdesc (queue1 true true)
     s.memOk ∧ s.queueOf 0 1 = some (queue1 true true) ∧ steady s 0x200_0000_0000 64 ∧ (queue1 true true).mapped = true ∧ (queue1 true true).due = true ∧ qdTail d = (qdHead d + 1) % 2 ^ 32 ∧
     ∃ b, State.hwRead (u.dieReq 0 0) 5 u ((qdBase d + 128 * (qdHead d % 2 ^ qdLogn d)) % 2 ^ 64) 128 [] = (u, .ok b) ∧
       (leValue ((b.drop (8 * 1)).take 8) == 0) = true) ∧
    (let s := queued false false 0 1
     s.memOk ∧ s.mapNext 0 = some (queue1 false false) ∧ steady s 0x200_0000_0000 64 ∧ (queue1 false false).num = 1 ∧ (s.queues.filter fun x => x.die = 0 && x.mapped).length < 16 ∧
     qdHead (s.qdesc (queue1 false false)) = qdTail (s.qdesc (queue1 false false))) ∧
    (let s := (queued true false 0 0).mapDie 0 fun d => { d with clocks := 65536000 }
     s.queueOf 0 1 = some (queue1 true false) ∧ s.queueEmpty (queue1 true false) = true ∧
     (queue1 true false).mapped = true ∧ (queue1 true false).emptyAt + 65536 ≤ s.clocksOf 0 ∧ qdN (s.qdesc (queue1 true false)) = false) ∧
    (let hot (n : Nat) : UserQueue := { queue1 true false with num := n + 1 }
     let s := { put 0x200_0000_0040 64 (2 ^ 192) (queued true false 0 0) with
       queues := (List.range 16).map hot ++ [{ queue1 false false with num := 20, pa := 0x200_0000_0040 }] }
     s.queueOf 0 1 = some (queue1 true false) ∧ s.queueEmpty (queue1 true false) = true ∧ s.slotWanted (queue1 true false) = true) := by
  refine ⟨⟨⟨by decide +kernel, fun m h => by cases h⟩, rfl, rfl, by decide +kernel, steady_of (by decide +kernel), by decide +kernel⟩, ⟨by decide +kernel, by decide +kernel⟩,
    ⟨⟨by decide +kernel, fun m h => by cases h⟩, by decide +kernel, steady_of (by decide +kernel), rfl, rfl, by decide +kernel, same_of rfl (by decide +kernel)⟩,
    ⟨⟨by decide +kernel, fun m h => by cases h⟩, by decide +kernel, steady_of (by decide +kernel), rfl, by decide +kernel, by decide +kernel⟩, by decide +kernel, by decide +kernel⟩

/-- A launch of queue 1 with one placement on die 0, of two iterations. -/
def launch (lid : Nat) (st : LaunchSt) : Launch :=
  { lid := lid, die := 0, queue := 1, seq := 0, ctx := 0, prio := 0, desc := 0x1000, dep := .now, args := [], statusVa := 0, st := st, aentry := 0,
    eentry := 0, qcfg := 0, lanes := 1, scratch := 0, levels := [⟨2, 2⟩], places := [(0, 0, 1)], done := 0, code := 0, cause := 0, crew := 0,
    readyAt := 0, readyClk := Vector.replicate 8 0, answer := none }
/-- A kernel descriptor: version 1, one lane group, one level whose table is at 0x2000. -/
def kernelDesc : Nat := 0x2000 * 2 ^ 128 + 2 ^ 208 + 2 ^ 208 * 2 ^ 208

set_option maxRecDepth 20000 in
/-- QueuesAndLaunches: a launch with a sound descriptor and loop table; one whose dependence failed. -/
theorem test_hyps_launch :
    (let s := put 0x1000 64 kernelDesc { acc with launches := [launch 0 .pending] }
     let rq := s.dieReq 0 0
     s.launchAt 0 = some (launch 0 .pending) ∧ s.depMet 0 (launch 0 .pending).dep = some true ∧ s.hwNat rq 0x1000 64 = (s, .ok kernelDesc) ∧
     kernelOk 0x1000 kernelDesc = true ∧ bits kernelDesc 194 192 + 1 ≤ 4 ∧ s.hwNat rq (bits kernelDesc 191 128) (8 * 1) = (s, .ok 0) ∧
     loopOk (bits 0 63 0) = true) ∧
    (let l := { launch 0 .pending with dep := .failed }
     let s := { acc with launches := [l] }
     s.launchAt 0 = some l ∧ s.depMet l.ctx l.dep = some false) ∧
    (let l := { launch 0 .pending with dep := .remote 5 0 none, answer := some (false, []) }
     let s := { acc with launches := [l] }
     s.launchAt 0 = some l ∧ l.st = .pending ∧ ∃ dev pa p a, l.dep = .remote dev pa p ∧ l.answer = some (false, a)) := by
  refine ⟨⟨by decide +kernel, by decide +kernel, same_eq rfl (by decide +kernel), by decide +kernel, by decide +kernel, same_eq rfl (by decide +kernel), by decide +kernel⟩,
    by decide +kernel, by decide +kernel, rfl, _, _, _, _, rfl, rfl⟩

/-! ### Crews -/

/-- Crew 0 runs iteration `i` of a launch, its harts in the state that `f` gives them. -/
def residing (l : Launch) (i : Nat) (f : Hart → Hart) : State :=
  (({ acc with launches := [l] }.mapHart 0 f).mapHart 1 f).mapCrew 0 fun c => { c with resident := some ⟨0, l.lid, 0, i⟩, msave := 0x10_0000 }

/-- Crews: a placement dispatched; the next iteration; the end of a placement; an abandonment. -/
theorem test_hyps_crew :
    (let s := { acc with launches := [launch 0 .ready] }
     0 < 8 ∧ 0 / 32 = 0 ∧ s.bestItem 0 = some (.launch 0, 0) ∧ s.launchAt 0 = some (launch 0 .ready)) ∧
    (∀ i ∈ [0, 1], let s := residing (launch 0 .running) i fun h => { h with ended := true }
     0 < 256 ∧ (s.crewAt 0).resident = some ⟨0, 0, 0, i⟩ ∧ s.launchAt 0 = some (launch 0 .running) ∧ s.bothEnded 0 = true ∧
     (s.crewAt 0).ending = false ∧ (s.crewAt 0).abandoned = false ∧ (s.hartAt 0).copies = [] ∧ (∀ q ∈ s.requests, q.ticket < depTicket → q.hart / 2 ≠ 0) ∧
     (i = 0 → i + 1 < (launch 0 .running).iterations) ∧ (i = 1 → (launch 0 .running).iterations ≤ i + 1)) ∧
    (let s := residing (launch 0 .running) 0 fun h => { h with sup := true }
     (s.crewAt 0).resident = some ⟨0, 0, 0, 0⟩ ∧ s.launchAt 0 = some (launch 0 .running) ∧ (s.crewAt 0).ending = false ∧ (s.hartAt (2 * 0)).sup = true ∧
     ¬ ((s.crewAt 0).ending = true ∨ (s.bothEnded 0 = true ∧ (launch 0 .running).iterations ≤ 0 + 1))) ∧
    (∀ d ∈ [Dep.now, Dep.launches [3]], let l := { launch 0 .ready with dep := d }
     let s := { acc with launches := [l] }
     s.bestItem 0 = some (.launch 0, 0) ∧ s.launchAt 0 = some l ∧ s.now % 2 ^ 64 ≠ 2 ^ 64 - 1) := by
  decide +kernel

/-- Every crew runs launch 0; launch 1, of priority `p`, waits on die 0, whose clock has run a slice. -/
def full (p : Nat) : State :=
  { acc.mapDie 0 fun d => { d with clocks := 2 ^ 20 * 1000 } with
      launches := [launch 0 .running, { launch 1 .ready with prio := p }],
      crews := acc.crews.map fun c => { c with resident := some ⟨0, 0, 0, 0⟩ } }

/-- Crews: an item of higher priority than a victim, and one of equal priority that has waited a slice beside a crew that has run one. -/
theorem test_hyps_request :
    (let s := full 3
     ∃ l k, s.itemLaunch (.launch 1) = some l ∧ s.mayRequest 0 (.launch 1) = some k ∧ ∃ x ∈ s.victims 0 (.launch 1) l, x.2 < s.prioOf l) ∧
    (let s := full 0
     ∃ l k, s.itemLaunch (.launch 1) = some l ∧ s.mayRequest 0 (.launch 1) = some k ∧ (∀ x ∈ s.victims 0 (.launch 1) l, s.prioOf l ≤ x.2) ∧
      2 ^ s.sliceLog ≤ s.waited 0 (.launch 1) ∧
      ∃ x ∈ s.victims 0 (.launch 1) l, x.2 = s.prioOf l ∧ (s.crewAt x.1).since + 2 ^ s.sliceLog ≤ s.clocksOf 0) :=
  ⟨⟨{ launch 1 .ready with prio := 3 }, 0, by decide +kernel⟩, ⟨launch 1 .ready, 0, by decide +kernel⟩⟩
end Sys2Proof.Tests
end

