-- ==== Sys2Proof/Tests/WSluice.lean ====
section
/-! SUPPORT. Witnesses: states and operands that meet the hypotheses of the statements about the Sluice and the attention chain,
clause by clause. -/

namespace Sys2Proof.Tests
set_option Elab.async false
open Sys2Proof Sys2Proof.Machine Sys2Proof.Claims

/-- A merge buffer for one query of one head of 16 dimensions, one slot deep; a pool of pages of one head of 16 dimensions; a
subscription of query 0 to page 0. -/
def mb : MBind := ⟨0x4001_0000, [0x200_0001_0000], 1, 1, 1, 16, [], []⟩
def kvPool : PoolRec := ⟨0x200_0000_0000, 0, 4, 0, [0x1_0000]⟩
def kvDesc : Nat := 0x2_0000 + 4 * 2 ^ 128 + 127 * 2 ^ 176 + 127 * 2 ^ 184 + 2 ^ 192 + 16 * 2 ^ 200 + 2 ^ 212
def sub0 : Sub := ⟨0, 0, 0, 0, 1, acc.reqFor 0, 0, 0x200_0000_0000, 0x3300, 0, 0, 1, 1, 0, 1, 0, 0, false⟩
def pair0 (k : PairKind) : Pair := ⟨0, 0, 0x200_0000_0000, 0, k, 0, false⟩
def grp (b : Option MBind) (sv col : Option Nat) (ps : List Pass) : Group := ⟨0, 0, 0, 0, b, sv, col, [], ps, []⟩

/-- The execute hart of crew 0, which runs launch 0, with chute 1 copy-fed, that pool in service, page 0 shared by none, its group as
given, and the query word `q`. x5 names the pool, x7 a subscription record. -/
def sluice (g : Group) (q : Nat) : State :=
  let s := (pooled exe).mapMe fun h => ((h.setX 5 0x4000_0000 noTaint).setX 7 0x1000 noTaint).setX 8 0x4001_0000 noTaint
  let s := s.mapCrew 0 fun c => { c with resident := some ⟨0, 0, 0, 0⟩, chutes := c.chutes.set 1 (Chute.empty true) }
  put 0x200_0001_0040 8 q (put 0x200_0000_0000 64 kvDesc (put 0x1_0000 8 0x9_0001 (put 0x1000 32 (2 ^ 88 + 2 ^ 152)
    { s with pools := [kvPool], groups := [g], subs := [sub0], nextSub := 1 })))

/-- Where no frame belongs to a protected world, every write goes through. -/
theorem unprotected {s : State} (h : s.frameTag = []) (pa n : Nat) : steady s pa n := fun l _ => .inl (by unfold State.tagOf; rw [h]; rfl)
theorem mb_unprotected {s : State} {b : MBind} (h : s.frameTag = []) : mbSteady s b := fun _ _ => unprotected h _ _

def word (bs : List Byte) (k : Nat) : Nat := leValue ((bs.drop (8 * k)).take 8)
/-- The checks of PGSUB on its record and pool, for a domain as given. -/
def subChecks (g : Group) (u1 : State) (bs : List Byte) : Bool :=
  subOk (word bs 0) (word bs 1) (word bs 2) (word bs 3) (u1.poolDesc kvPool) mb && bits (word bs 2) 27 24 == 1 && bits (word bs 3) 55 48 == 0 &&
    bits (word bs 1) 63 48 == 0 && ((u1.crewAt 0).chute 1).copyFed && !((u1.crewAt 0).chute 1).isToken && !qBusy (u1.query mb 0) &&
    decide (u1.liveSubs 0 < 1024) && u1.groupAt 0 == some g

/-- SluiceCommands: PGSUB of a query of an idle domain, of a layer that is being served and of one that is not in turn, with its record read and its
pool in service. -/
theorem test_hyps_pgsub :
    (∀ g ∈ [grp (some mb) none none [], grp (some mb) (some 0) none [], grp (some mb) (some 5) none []],
      let s := sluice g 0
      let w := waited s [7, 5]
      s.memOk ∧ (s.me.xr 7).toNat % 32 = 0 ∧ g.bind = some mb ∧
      (∃ u1 bs, w.engBytes (sluiceAt w) (s.me.xr 7).toNat 32 = (u1, .ok bs) ∧ subChecks g u1 bs = true) ∧
      (w.engBytes (sluiceAt w) (s.me.xr 7).toNat 32).1.poolSeen (sluiceAt w) (s.me.xr 5).toNat =
        ((w.engBytes (sluiceAt w) (s.me.xr 7).toNat 32).1, .ok kvPool) ∧ mbSteady (w.engBytes (sluiceAt w) (s.me.xr 7).toNat 32).1 mb) ∧
    (grp (some mb) none none []).join 0 ≠ .wrong ∧ (grp (some mb) none none []).join 0 ≠ .late ∧ (grp (some mb) (some 0) none []).join 0 = .late ∧
    (grp (some mb) (some 5) none []).join 0 = .wrong ∧ oneFrame mb := by
  refine ⟨?_, by decide, by decide, by decide, by decide, by unfold oneFrame; decide⟩
  intro g hg
  simp only [List.mem_cons, List.not_mem_nil, or_false] at hg
  rcases hg with rfl | rfl | rfl
  all_goals exact ⟨⟨by decide +kernel, fun m h => by cases h⟩, by decide +kernel, rfl, then_of (by decide +kernel), Prod.ext rfl (by rfl), mb_unprotected (by decide +kernel)⟩

/-- SluiceCommands: PGOPEN of an idle domain and of the layer after the one served; of no layer; of another than the one collected. -/
theorem test_hyps_pgopen :
    let s := sluice { grp (some mb) none (some 0) [] with csubs := [0] } (2 ^ 24 + 2 ^ 48)
    let w := waited s [6]
    (s.me.xr 6).toNat < 2 ^ 16 ∧ (w.groupOf (crewOf s.cur)).serving = none ∧ (w.groupOf (crewOf s.cur)).collecting = some (s.me.xr 6).toNat ∧
    (∃ u todo, w.buildPass ((w.groupOf (crewOf s.cur)).csubs.filterMap s.subAt) .main = (u, some todo)) ∧
    2 ^ 16 ≤ (s.me.xr 5).toNat ∧
    ((sluice (grp none (some 3) none []) 0).groupOf 0).serving = some 3 ∧ (4 = (3 + 1) % 2 ^ 16) ∧
    ((sluice (grp none none (some 3) []) 0).groupOf 0).collecting = some 3 ∧
    (let g := grp (some mb) none none []
     let w := waited (sluice g 0) [6]
     g.passes = [] ∧ w.buildPass (g.csubs.filterMap w.subAt) .main = (w, some []) ∧
     w.settled { g with serving := some 0 } = true) :=
  ⟨by decide +kernel, by decide +kernel, by decide +kernel, some_of (by decide +kernel), by decide +kernel, by decide +kernel, by decide +kernel, by decide +kernel,
    rfl, rfl, by decide +kernel⟩

/-- SluiceCommands: MBSET with a busy query, with none, and of a buffer that is not bound yet. -/
theorem test_hyps_mbset :
    (sluice (grp (some mb) none none []) (2 ^ 48)).anyBusy mb = true ∧ (sluice (grp (some mb) none none []) 0).anyBusy mb = false ∧
    (sluice (grp (some mb) none none []) 0).groupAt 0 = some (grp (some mb) none none []) ∧
    (let s := sluice (grp none none none []) 0
     let w := waited s [8, 6]
     (s.me.xr 8).toNat = 0x4001_0000 ∧ mbConfigOk (1 + 2 ^ 16) = true ∧ (w.groupOf (crewOf s.cur)).bind = none ∧ (w.groupOf (crewOf s.cur)).ctx = 0 ∧
     ∃ u, State.mbFrames (sluiceAt w) 0 ((0x4001_0000 % 0x1_0000 + mb.size + 0xFFFF) / 0x1_0000) 0x4001_0000 w [] = (u, [0x200_0001_0000].map .ok)) :=
  ⟨by decide +kernel, by decide +kernel, by decide +kernel, by decide +kernel, by decide +kernel, by decide +kernel, by decide +kernel, _, Prod.ext rfl (by rfl)⟩

/-- SluiceEvents: the first page of a pass fetched; a missed one fetched again. -/
theorem test_hyps_fetch :
    (let s := sluice (grp (some mb) (some 0) none [⟨0, [[pair0 .main]], [], []⟩]) (2 ^ 24 + 2 ^ 48)
     s.nextDomain 0 = some (grp (some mb) (some 0) none [⟨0, [[pair0 .main]], [], []⟩], [pair0 .main], false) ∧ (s.dieAt 0).freeStage = some 0 ∧
     s.subAt 0 = some sub0 ∧ s.poolAt 0x200_0000_0000 = some kvPool ∧ prState (s.pageRec kvPool 0) ≠ 0 ∧ prState (s.pageRec kvPool 0) ≠ 4 ∧
     ∃ u data, s.engBytes sub0.agent ((pdBase (s.poolDesc kvPool) + pdPageBytes (s.poolDesc kvPool) * 0) % 2 ^ 64) (pdPageBytes (s.poolDesc kvPool)) =
       (u, .ok data)) ∧
    (let s := sluice (grp (some mb) (some 0) none [⟨0, [], [pair0 .refetch], []⟩]) (2 ^ 24 + 2 ^ 48)
     s.nextDomain 0 = some (grp (some mb) (some 0) none [⟨0, [], [pair0 .refetch], []⟩], [pair0 .refetch], true)) :=
  ⟨⟨by decide +kernel, by decide +kernel, by decide +kernel, by decide +kernel, by decide +kernel, by decide +kernel, ok_of (by decide +kernel)⟩,
    by decide +kernel⟩

/-- A page of that pool in stage `i`, two deliveries of it not complete. -/
def fetched (i : Nat) (l : List Pair) : Fetch := ⟨i, some i, 0x200_0000_0000, 0, [], l, 2, 0⟩

/-- SluiceEvents: two entries delivered; a stage reclaimed; a late joiner served. -/
theorem test_hyps_deliver :
    (let d : Deliv := ⟨0, pair0 .main, 0, 10⟩
     let s := (sluice (grp (some mb) (some 0) none []) (2 ^ 24 + 2 ^ 48)).mapDie 0 fun x => { x with fetches := [fetched 0 []], delivs := [d] }
     s.subAt 0 = some sub0 ∧ s.groupAt 0 = some (grp (some mb) (some 0) none []) ∧ s.subCrew sub0 = some 0 ∧ sub0.hart / 64 = 0 ∧ sub0.q < 16 ∧
     (s.dieAt 0).delivs.find? (fun w => w.pair.sub = 0) = some d ∧ (s.dieAt 0).fetches.find? (fun x => x.id = d.fetch) = some (fetched 0 []) ∧
     s.poolAt d.pair.pool = some kvPool ∧ d.pos + 2 < d.last ∧ 2 ≤ ((s.crewAt 0).chute sub0.q).free) ∧
    (let s := (sluice (grp (some mb) (some 0) none [⟨0, [[pair0 .main]], [], []⟩]) (2 ^ 24 + 2 ^ 48)).mapDie 0 fun x =>
       { x with fetches := (List.range 8).map fun i => fetched i [pair0 .main], clocks := 4096000 }
     s.reclaimable 0 = some (fetched 0 [pair0 .main]) ∧ (fetched 0 [pair0 .main]).pairs.length < (fetched 0 [pair0 .main]).left) ∧
    (let g := grp (some mb) (some 0) none [⟨0, [], [], [0]⟩]
     let s := sluice g (2 ^ 24 + 2 ^ 48)
     s.groups.find? (fun x => x.die = 0 && (match x.passes with | q :: _ => q.todo.isEmpty && !q.late.isEmpty | [] => false)) = some g ∧
     (∃ u todo, s.buildPass ([0].filterMap s.subAt) .late = (u, some todo)) ∧
     ((s.buildPass ([0].filterMap s.subAt) .late).2.getD []).flatten ≠ [] ∧ s.groupAt 0 = some g ∧
     (pair0 .main).kind ≠ .resume) :=
  ⟨by decide +kernel, by decide +kernel, by decide +kernel, some_of (by decide +kernel), by decide +kernel, by decide +kernel⟩

/-- SluiceEvents: the partial of page 0, which is the frontier of a query of two pages; and that of page 1, ahead of the frontier, with two slots. -/
theorem test_hyps_merge :
    let p : Partial := ⟨0, 0, 1, [0x3F80_0000], [0x3F80_0000], [List.replicate 16 0x3F80_0000]⟩
    let g : Group := { grp (some mb) (some 0) none [] with inbox := [p] }
    let s := sluice g (2 * 2 ^ 24 + 2 ^ 48)
    let v := s.query mb 0
    s.memOk ∧ mbSteady s mb ∧ s.groupAt 0 = some g ∧ g.inbox.findIdx? (fun x => x.mq = 0) = some 0 ∧ g.inbox[0]? = some p ∧ oneFrame mb ∧ 0 < mb.nq ∧ 0 < mb.slots ∧
    qBusy v = true ∧ qF v ≤ p.j ∧ p.j < qF v + mb.slots ∧ qF v < qE v ∧ mb.full = [] ∧ mb.empty = [] ∧
    oneFrame { mb with slots := 2 } ∧ 0 ≤ 1 ∧ 1 < 0 + 2 := by
  refine ⟨⟨by decide +kernel, fun m h => by cases h⟩, mb_unprotected rfl, ?_⟩
  unfold oneFrame
  decide +kernel

/-- The execute hart with a page header taken (one head of 16 dimensions), its chain in the phase given at the last slot but one, and
slots in chute 1. -/
def chained (ph cur n vt : Nat) : State :=
  let s := (sluice (grp (some mb) (some 0) none []) 0).mapMe fun h =>
    { h with vl := 16, vtype := BitVec.ofNat 11 vt, chain := { Chain.empty with phase := ph, cursor := cur, hdr1 := 2 ^ 16 + 16 } }
  s.mapCrew 0 fun c => { c with chutes := c.chutes.set 1 { Chute.empty true with entries := List.replicate n ⟨0, false, .sluice 0 0 0 0⟩ } }

theorem small {h : Hart} {n : Nat} (hn : h.acHn = 1) (hd : h.acD = 16) (h0 : (h.acGsh, hdrD h.chain.hdr1, kvBytes (hdrFmt h.chain.hdr1), n) = (0, 16, 2, 4)) :
    slotsHold h n := by
  intro head dim h1 h2
  simp only [Prod.mk.injEq] at h0
  rw [h0.1, h0.2.1, h0.2.2.1, h0.2.2.2]
  rw [hn] at h1
  rw [hd] at h2
  have : head = 0 := by omega
  subst this
  simp only [pow_zero, Nat.zero_div]
  omega

/-- AttentionChain: VASCORE of the last slot, VAEXP, VAACC of the last slot, and VAFIN of an idle query. -/
theorem test_hyps_attention :
    (let s := chained 1 63 4 6
     let h := (atIssue s).me
     vecReady s (fun h => h.sew = 4 ∨ h.sew = 6) ∧ h.acHn * h.acD ≤ h.vln ∧ h.acGsh ≤ 4 ∧ h.acFmt ≠ 3 ∧ h.chain.phase = 1 ∧ h.chain.cursor ≤ 64 ∧
     (myChute s 1).copyFed = true ∧ (∀ e ∈ (myChute s 1).entries, e.poison = false) ∧
     (64 - h.chain.cursor) * h.chain.slotEntries ≤ (myChute s 1).entries.length ∧ slotsHold h h.chain.slotEntries ∧
     (∀ i, i < h.acHn * h.acD → h.elemBad 2 h.ew i = false)) ∧
    (vecReady (chained 2 0 0 6) (fun _ => True) ∧ (atIssue (chained 2 0 0 6)).me.chain.phase = 2) ∧
    (let s := chained 4 63 4 6
     let h := (atIssue s).me
     vecReady s (fun _ => True) ∧ h.chain.phase = 4 ∧ h.chain.cursor = 63 ∧ (myChute s 1).copyFed = true ∧ (∀ e ∈ (myChute s 1).entries, e.poison = false) ∧
     (64 - h.chain.cursor) * h.chain.slotEntries ≤ (myChute s 1).entries.length ∧ slotsHold h h.chain.slotEntries) ∧
    (let s := chained 0 0 0 6
     let u := atIssue s
     vecReady s (fun h => 4 ≤ h.sew ∧ h.sew ≤ 6) ∧ (u.groupOf (crewOf s.cur)).bind = some mb ∧ u.me.acHn * u.me.acD ≤ u.me.vln ∧ (u.me.xr 0).toNat < mb.nq ∧
     u.me.acHn ≤ mb.hn ∧ u.me.acD = mb.d ∧ steady u (mb.pa (64 + mb.qb * (u.me.xr 0).toNat)) 8 ∧ qBusy (u.query mb (u.me.xr 0).toNat) = false) := by
  refine ⟨⟨by unfold vecReady; decide +kernel, by decide +kernel, by decide +kernel, by decide +kernel, by decide +kernel, by decide +kernel,
    by decide +kernel, by decide +kernel, by decide +kernel, small (by decide +kernel) (by decide +kernel) (by decide +kernel), by decide +kernel⟩,
    by unfold vecReady; decide +kernel, ⟨by unfold vecReady; decide +kernel, by decide +kernel, by decide +kernel, by decide +kernel, by decide +kernel,
    by decide +kernel, small (by decide +kernel) (by decide +kernel) (by decide +kernel)⟩, by unfold vecReady; decide +kernel,
    by decide +kernel, by decide +kernel, by decide +kernel, by decide +kernel, by decide +kernel, unprotected (by decide +kernel) _ _, by decide +kernel⟩

end Sys2Proof.Tests
end

