-- ==== Sys2Proof/Tests/WHost.lean ====
section
/-! SUPPORT. Witnesses: states and operands that meet the hypotheses of the statements about contexts, homes, repair, the link, the host,
worlds, power and the mailbox, clause by clause. -/

namespace Sys2Proof.Tests
set_option Elab.async false
open Sys2Proof Sys2Proof.Machine Sys2Proof.Claims

/-! ### Contexts and homes -/

/-- Context 1 with this record and this command. -/
def ctxIn (rec cmd : Nat) : State := put (ctxPa 1) 128 rec { acc with ctxCmds := [(1, cmd)] }

theorem ctxIn_memOk : ∀ r ∈ [0, 1, 2, 3, 4, 5, 6, 1 + 2 ^ 16], (ctxIn r 1).memOk := by
  intro r hr
  exact ⟨by revert r; decide +kernel, fun m h => by cases h⟩

/-- ContextsAndHomes: LIVE of a free record and of a quiesced one, QUIESCE with and without a resident crew, TEARDOWN, its completion,
RELEASE. -/
theorem test_hyps_context :
    (let s := ctxIn 0 1
     commanded s 1 1 ∧ s.ctxState 1 = 0 ∧ inMemory (s.ctxRoot 1 * 4096) = true ∧ s.ctxWorld 1 = 0 ∧ s.ctxField 1 255 232 ≤ 0xFF_FFFE ∧
      s.ctxField 1 196 192 ≤ 16 ∧ nonCanonical (s.ctxLog 1) = false ∧ s.ctxLog 1 % 64 = 0 ∧ s.ctxField 1 6 6 = 0) ∧
    (∀ r ∈ [2, 3], commanded (ctxIn r 1) 1 1 ∧ (ctxIn r 1).ctxState 1 = r) ∧
    (∀ r ∈ [1, 1 + 2 ^ 16], commanded (ctxIn r 2) 1 2 ∧ (ctxIn r 2).ctxState 1 = 1) ∧
    (let s := (ctxIn (1 + 2 ^ 16) 2).mapCrew 0 fun c => { c with resident := some ⟨1, 0, 0, 0⟩ }
     0 < 256 ∧ mayBeAsked s 0 ∧ (∃ r, (s.crewAt 0).resident = some r ∧ r.ctx = 1)) ∧
    (∀ r ∈ [1, 2, 3], commanded (ctxIn r 3) 1 3 ∧ (ctxIn r 3).ctxState 1 = r) ∧
    ((ctxIn 4 0).ctxState 1 = 4 ∧ (∀ r ∈ (ctxIn 4 0).requests, r.ctx ≠ 1) ∧ (ctxIn 4 0).ctxField 1 7 7 = 0) ∧
    (∀ r ∈ [5, 6], commanded (ctxIn r 4) 1 4 ∧ (ctxIn r 4).ctxState 1 = r) := by
  unfold commanded mayBeAsked
  refine ⟨by decide +kernel, by decide +kernel, by decide +kernel, ⟨by decide +kernel, by decide +kernel, ⟨_, rfl, rfl⟩⟩, by decide +kernel,
    by decide +kernel, by decide +kernel⟩

/-- A pool descriptor whose records lie at 0x4001_0000, in the pool memory of die 0. -/
def poolDesc0 : Nat := kvDesc + 0x4001_0000 * 2 ^ 64
def described (d : Nat) : State := put 0x200_0000_0000 64 d (pooled acc)

set_option maxRecDepth 20000 in
/-- ContextsAndHomes: a descriptor with a field out of range, a sound one, and an arrival of device 5 at a barrier of system scope. -/
theorem test_hyps_home :
    ((described poolDesc0).memOk ∧ inPool 0x200_0000_0000 = true ∧ 0x200_0000_0000 % 64 = 0 ∧ (∀ p ∈ (described poolDesc0).pools, p.pa ≠ 0x200_0000_0000) ∧
      pdValid ((described poolDesc0).homeNat 0x200_0000_0000 64) = true ∧ pdFieldsOk ((described poolDesc0).homeNat 0x200_0000_0000 64) = true ∧
      (described poolDesc0).ctxDead (pdCtx poolDesc0) = false ∧
      (put (ctxPa 7) 8 5 (described poolDesc0)).ctxDead 7 = true ∧
      (let s := described poolDesc0
       let d := poolDesc0
       s.homeNat 0x200_0000_0000 64 = d ∧
       s.recFrames ⟨pdCtx d, s.ctxWorld (pdCtx d), s.ctxRoot (pdCtx d), true, 8 * poolDie 0x200_0000_0000, false⟩ (poolDie 0x200_0000_0000)
        ((pdRecs d % 0x1_0000 + 8 * pdPages d + 0xFFFF) / 0x1_0000) (pdRecs d - pdRecs d % 0x1_0000) [] = (s, some [0x200_0001_0000]))) ∧
    ((described (2 ^ 212)).memOk ∧ pdValid ((described (2 ^ 212)).homeNat 0x200_0000_0000 64) = true ∧
      pdFieldsOk ((described (2 ^ 212)).homeNat 0x200_0000_0000 64) = false) ∧
    (let v := bSet + 4 * 2 ^ 4
     let s := { described v with admission := [⟨5, 0x200_0000_0000, 0x200_0000_FFFF, true, true, 0⟩] }
     s.memOk ∧ s.admitted 5 0x200_0000_0000 64 true = some 0 ∧ s.readRefused (s.ctxWorld 0) 0x200_0000_0000 64 = false ∧ steady s 0x200_0000_0000 64 ∧ 1 ≤ 3 ∧ brState (s.homeNat 0x200_0000_0000 64) = 1 ∧
      brScope (s.homeNat 0x200_0000_0000 64) = 4 ∧ barrierSound (s.homeNat 0x200_0000_0000 64) ∧ arrivalFits (s.homeNat 0x200_0000_0000 64) 3) := by
  refine ⟨⟨⟨by decide +kernel, fun m h => by cases h⟩, by decide +kernel, by decide +kernel, (fun p hp => by cases hp), by decide +kernel, by decide +kernel,
    by decide +kernel, by decide +kernel, by decide +kernel, Prod.ext rfl (by rfl)⟩,
    ⟨⟨by decide +kernel, fun m h => by cases h⟩, by decide +kernel, by decide +kernel⟩,
    ⟨by decide +kernel, fun m h => by cases h⟩, ?_⟩
  unfold barrierSound arrivalFits steady
  decide +kernel

/-! ### Repair and reset -/

/-- Port 0 in this state with all its lanes, one device admitted to the first 64 KiB of HBM, and BAR2 page 2 mapped to them. -/
def linked (st : PortState) : State :=
  { acc with
      ports := acc.ports.set 0 { Port.reset with st := st, lanes := 15 }, admission := [⟨5, 0, 0xFFFF, true, true, 0⟩],
      apertures := [⟨2, 0, true, true, 0, 0x1_0000⟩],
      requests := [⟨9, 0, 0, 255, 0x2000, 0, false, 0, 0, [], .access⟩] }.mapHart 0 fun h => { h with remote := [⟨9, 0, 255, .read 0x2000 8, none, false⟩] }

/-- RepairAndReset: each place scrubbed; a group in rebuild; a free core; one with a crew; a spare row and a spare of a bank; a
checkpoint with nothing outstanding; an image, and none. -/
theorem test_hyps_repair :
    (let s := acc
     SMap.wf false s.poison = true ∧ inMemory 0x200_0000_0000 = true ∧ inHbm 0x200_0000_0000 = false ∧ inScratch 0x204_0000_0000 = true ∧
     inHbm 0x204_0000_0000 = false ∧ inHbm 0x1000 = true ∧ (s.parity[Fin.ofNat 16 (hbmPlace 0x1000).1]).retired = none ∧
     255 < 256 ∧ (s.parity[Fin.ofNat 16 (255 % 16)]).retired = none) ∧
    ((∀ f ∈ [ReadFault.lasting, .demand, .double, .latentDouble], lost f) ∧ 15 < 16 * (exe.hartAt 1).lanes.length) ∧
    (let failed (es : List (Nat × Bool)) : State := { acc with rowFails := es }
     let inRow := inRowOf 0x200_0000_0000 32
     ¬ rowDue (failed [(0x200_0000_0000 / 64, false)]) inRow ∧ rowDue (failed [(0x200_0000_0000 / 64, true)]) inRow ∧
     rowDue (failed [(0x200_0000_0000 / 64, false), (0x200_0000_0000 / 64 + 31, false)]) inRow ∧
     rowDue (failed [(regRow 63 5, true)]) (fun l => l == regRow 63 5) ∧ bankOf (64 * rowLine 0x204_0000_0040 3) = bankOf 0x204_0000_0040 ∧
     inRowOf 0x204_0000_0040 4 (rowLine 0x204_0000_0040 3) = true ∧ rowDue (failed [(rowLine 0x204_0000_0040 3, true)]) (inRowOf 0x204_0000_0040 4)) ∧
    ((linked .up).requests ≠ [] ∧ acc.stopping = false) ∧
    (let s := { acc with parity := acc.parity.set 3 ⟨some 2, 6291455⟩ }
     s.parity[(3 : Fin 16)].retired = some 2 ∧ s.parity[(3 : Fin 16)].cursor < 6291456) ∧
    (63 < 64 ∧ acc.memOk ∧ (acc.coreAt 63).scratchOwner = none ∧ (∀ n, n / 4 = 63 → n < 256 ∧ (n < 256 → (acc.crewAt n).resident = none)) ∧
      (acc.dieAt (63 / 8)).spareUsed = false) ∧
    ((due.coreAt 0).scratchOwner = none ∧ 0 / 4 = 0 ∧ (due.crewAt 0).resident ≠ none ∧ ¬ mayBeAsked due 0 ∧
      mayBeAsked (due.mapCrew 0 fun c => { c with preempt := false }) 0) ∧
    (inPool 0x200_0000_0000 = true ∧ (acc.dieAt (poolDie 0x200_0000_0000)).spareRows < 1024 ∧ inPool 0x204_0000_0000 = false ∧
      inScratch 0x204_0000_0000 = true) ∧
    (State.reset.requests = [] ∧ ∀ n, n < 256 → State.reset.copiesStill (2 * n) = true) ∧
    ((let s := put Config.ckptBase 8 1 { acc with image := some acc.toModule }
      s.image = some acc.toModule ∧ s.homeNat Config.ckptBase 8 = 1) ∧ acc.image = none ∧ { acc with image := some acc.toModule }.homeNat Config.ckptBase 8 ≠ 1) ∧
    ((put Config.ckptBase 8 1 { acc with image := some acc.toModule }).memOk ∧ inLp6 0x100_0000_0000 = true ∧ inHbm 0 = true) ∧
    (let s := { acc with parity := acc.parity.set (Fin.ofNat 16 (hbmPlace 0x1000).1) ⟨some 15, 6291456⟩ }
     (s.parity[Fin.ofNat 16 (hbmPlace 0x1000).1]).retired = some 15 ∧ s.hbmChannel 0x1000 / 16 ≠ 15) := by
  refine ⟨by decide +kernel, by unfold lost; decide +kernel, by unfold rowDue; decide +kernel, by decide +kernel, by decide +kernel, ⟨by decide, acc_memOk, by decide +kernel, ?_, by decide +kernel⟩, ?_, by decide +kernel,
    ⟨rfl, ?_⟩, ⟨⟨rfl, by decide +kernel⟩, rfl, by decide +kernel⟩, ⟨⟨by decide +kernel, fun m h => by cases h; exact acc_memOk.1⟩, by decide, by decide⟩, by decide +kernel⟩
  · intro n hn
    have : n = 252 ∨ n = 253 ∨ n = 254 ∨ n = 255 := by omega
    rcases this with rfl | rfl | rfl | rfl <;> decide +kernel
  · unfold mayBeAsked; decide +kernel
  · intro n _
    show ((Vector.replicate 512 Hart.reset)[Fin.ofNat 512 (2 * n)]).copies.all _ = true
    rw [Fin.getElem_fin, Vector.getElem_replicate]
    rfl

/-! ### The link and the host -/

def flit (b : FlitBody) : Flit := ⟨true, 5, 255, 0, 1, none, none, true, b⟩

/-- LinkAndHost: ports in each state; reads and writes of an admitted peer; a flit that fails its check; a request outstanding; an
invalidation that has drained; reads and writes of the host. -/
theorem test_hyps_link :
    (0 < 32 ∧ ((linked .training).portAt 0).st = .training ∧ ((linked .training).portAt 0).attempts < 2 ∧
      (({ linked .training with ports := acc.ports.set 0 { Port.reset with attempts := 2 } }).portAt 0).st = .training ∧
      2 ≤ (({ linked .training with ports := acc.ports.set 0 { Port.reset with attempts := 2 } }).portAt 0).attempts ∧
      laneCount 15 = 4 ∧ laneCount 7 = 3 ∧ laneCount 3 = 2 ∧ (linked .training).devnum = 255) ∧
    (((linked .up).portAt 0).st = .up ∧ ((linked .degraded).portAt 0).st = .degraded ∧ ((linked .up).portAt 0).lanes.getLsbD 3 = true ∧
      ((linked .degraded).portAt 0).lanes.getLsbD 3 = true) ∧
    (inOrderFlit (linked .up) 0 (flit (.read 0xFFF8 8)) ∧ peerRange (linked .up) 5 0xFFF8 8 false 0 ∧ soundLines (linked .up) 0xFFF8 8) ∧
    (inOrderFlit (linked .up) 0 (flit (.write 0xFFF8 [1, 2, 3, 4, 5, 6, 7, 8])) ∧ peerRange (linked .up) 5 0xFFF8 8 true 0 ∧
      plainPlace (linked .up) ((linked .up).ctxWorld 0) 0xFFF8 8) ∧
    (let s : State := { linked .up with stopping := true }
     inOrderFlit { s with stopping := false } 0 (flit (.read 0xFFF8 8)) ∧ s.stopping = true) ∧
    (∀ n ∈ [0, 1], let s : State := { linked .up with ports := (linked .up).ports.set 0 { Port.reset with st := .up, lanes := 15, fails := n } }
     ({ flit (.read 0 8) with crcOk := false }).crcOk = false ∧ (s.portAt 0).st = .up ∧ (s.portAt 0).fails = n ∧ (s.portAt 0).lanes ≠ 0) ∧
    (let s : State := { linked .up with now := 10000000 }
     ∃ r, s.requests.find? (fun x => x.rid = 9) = some r ∧ s.requests.find? (fun x => x.rid = 9 && x.dev = 255) = some r ∧ overdueAt s r ∧
      ¬ overdueAt (linked .up) r ∧
      r.xlat = false ∧ r.ctx = 0 ∧ r.dev = 255 ∧ r.ticket < statusTicket ∧ r.ticket ≠ depTicket ∧ ∃ e ∈ (s.hartAt r.hart).remote, e.rid = 9) ∧
    (let s : State := { linked .up with requests := [⟨9, 0, 0, 255, 0x2000, 0, true, 0, 0, [], .access⟩] }
     ∃ r, s.requests.find? (fun x => x.rid = 9 && x.dev = 255) = some r ∧ s.requests.find? (fun x => x.rid = 9) = some r ∧ r.xlat = true ∧
       r.ticket < statusTicket) ∧
    (let s : State := { linked .up with requests := [⟨9, 0x1000, statusTicket, 255, 0x2000, 0, true, 0, 0, [], .access⟩], now := 10000000 }
     ∃ r, s.requests.find? (fun x => x.rid = 9) = some r ∧ overdueAt s r ∧ statusTicket ≤ r.ticket) ∧
    (let s := { linked .up with invals := [⟨1, [9]⟩, ⟨2, [8]⟩] }
     s.invals.find? (fun v => v.waits.all fun r => !s.requests.any fun x => x.rid = r) = some ⟨2, [8]⟩) ∧
    (barRange (linked .up) ⟨.bar2, 2 * 0x100_0000 + 0xFFF8, 8, none, 0, false, true⟩ ⟨2, 0, true, true, 0, 0x1_0000⟩ 8 0xFFF8 true ∧
      soundLines (linked .up) 0xFFF8 8) ∧
    (barRange (linked .up) ⟨.bar2, 2 * 0x100_0000 + 0xFFF8, 0, some [1, 2, 3, 4, 5, 6, 7, 8], 0, false, true⟩ ⟨2, 0, true, true, 0, 0x1_0000⟩ 8 0xFFF8 true ∧
      plainPlace (linked .up) ((linked .up).ctxWorld 0) 0xFFF8 8) := by
  unfold inOrderFlit peerRange soundLines plainPlace barRange overdueAt
  refine ⟨by decide +kernel, by decide +kernel, by decide +kernel, by decide +kernel, by decide +kernel, by decide +kernel, ⟨⟨9, 0, 0, 255, 0x2000, 0, false, 0, 0, [], .access⟩, by decide +kernel⟩,
    ⟨⟨9, 0, 0, 255, 0x2000, 0, true, 0, 0, [], .access⟩, by decide +kernel⟩, ⟨⟨9, 0x1000, statusTicket, 255, 0x2000, 0, true, 0, 0, [], .access⟩, by decide +kernel⟩, by decide +kernel, by decide +kernel, by decide +kernel⟩

theorem linked_memOk : (linked .up).memOk := ⟨by decide +kernel, fun m h => by cases h⟩

/-! ### Worlds, telemetry and power -/

/-- World 1 open with its interface in this state, one counter allowed, stream 4 carrying it; crew 0 holds counters of world 1, one crew of
which stands at 5. -/
def worldly (tdi : Nat) : State :=
  { (linked .up).mapWorld 1 (fun w => { w with isOpen := true, tdi := tdi, allow := [(1025, true)] }) with
      streams := [⟨4, 1, []⟩], telemetry := [(1025, 5)] }.mapCrew 0 fun c => { c with world := 1 }

/-- WorldsAndPower: each state of the interface; counters of world 0, of an own stream, allowed and denied; limits of power and temperature. -/
theorem test_hyps_world :
    (∀ x ∈ [0, 1, 2, 3], worldIs (worldly x) 1 true ∧ ((worldly x).worldAt 1).tdi = x) ∧
    (15 < 16 ∧ (List.replicate 32 (0 : Byte)).length = 32) ∧
    (let s := { worldly 0 with mem := SMap.setRange 0 (worldly 0).mem (ctxPa 3 + 1) [1], apertures := [⟨2, 3, true, true, 0, 0x1_0000⟩] }
     (s.worldAt 1).isOpen = true ∧ (∃ a ∈ s.apertures, s.ctxWorld a.ctx = 1)) ∧
    (let s := worldly 0
     s.counterWorld 0 = 0 ∧ s.counterValue 0 = some 0 ∧ s.counterWorld 1025 = 1 ∧ SMap.get false (s.worldAt 1).allow 1025 = true ∧
     s.counterValue 1025 = some 5 ∧ (∃ x ∈ s.streams, x.num = 4 ∧ x.world = 1) ∧ s.counterWorld 1026 = 1 ∧
     1026 < 130560 ∧ s.stopping = false ∧ ¬ (false = true ∧ ∃ x ∈ s.streams, x.num = 4 ∧ x.world = 1) ∧ SMap.get false (s.worldAt 1).allow 1026 = false ∧ 4 < 16) ∧
    (3400000 ≤ 3400000 ∧ (∀ x ∈ List.replicate 32 109999, x < 110000) ∧ (List.replicate 32 109999).length = 32) ∧
    (let s := { acc with power := 3400000 }
     s.pwrLimit * 1000 ≤ s.power) ∧
    (let s := { acc with temps := acc.temps.set 0 95000 }
     ∃ x ∈ s.sensors 1, 95000 ≤ x) ∧
    (acc.power < acc.pwrLimit * 1000 ∧ ∀ x ∈ acc.sensors 1, x < 90000) := by
  unfold worldIs
  refine ⟨by decide +kernel, by decide +kernel, by decide +kernel, by decide +kernel, by decide +kernel, by decide +kernel, by decide +kernel, by decide +kernel⟩

/-! ### The mailbox -/

def request (cmd : Nat) (rest : List Byte) : List Byte := (leBytesOf 2 cmd ++ leBytesOf 2 0 ++ leBytesOf 4 1 ++ rest ++ List.replicate 4096 0).take 4096

/-- MailboxCommands: requests that are unknown, that hold a non-zero reserved byte, that are sound, and after a failed boot. -/
theorem test_hyps_doorbell :
    acc.doorbell = false ∧ acc.stopping = false ∧ (request 0xA []).length = 4096 ∧ acc.bootFailed = false ∧ ({ acc with bootFailed := true }).bootFailed = true ∧
    mbxFields (reqWord (request 0xE []) % 2 ^ 16) = none ∧
    (∃ f, mbxFields (reqWord (request 0xA []) % 2 ^ 16) = some f ∧ reqBad (request 0xA [1]) f = true) ∧
    (∃ f, mbxFields (reqWord (request 0xA []) % 2 ^ 16) = some f ∧ reqBad (request 0xA []) f = false) :=
  ⟨by decide +kernel, by decide +kernel, by decide +kernel, by decide +kernel, by decide +kernel, by decide +kernel, ⟨[], by decide +kernel⟩, ⟨[], by decide +kernel⟩⟩

set_option maxRecDepth 20000 in
/-- MailboxCommands: queues bound and released; partitions, clocks, limits and ports; channels, leases, pages, the log. -/
theorem test_hyps_mailbox :
    (let s := put 0x200_0000_0000 64 (2 * 2 ^ 128) (pooled acc)
     7 < 8 ∧ 63 < 64 ∧ 0x4000_0000 % 64 = 0 ∧ s.memOk ∧ s.queueOf 0 63 = none ∧ s.hwPlace (s.dieReq 0 0) 0x4000_0000 64 = (s, some 0x200_0000_0000) ∧
     inPool 0x200_0000_0000 = true ∧ poolDie 0x200_0000_0000 = 0 ∧
     (let d := s.homeNat 0x200_0000_0000 64
      1 ≤ qdLogn d ∧ qdLogn d ≤ 12 ∧ qdBase d % 128 = 0 ∧ (∀ q ∈ s.queues, q.hit 0x200_0000_0000 64 = false) ∧
      isProtected ((s.homePut 0x200_0000_0000 64 (qdBase d + qdLogn d * 2 ^ 128 + qdPrio d * 2 ^ 132 + 0 * 2 ^ 136 + 2 ^ 152)).ctxWorld 0) = false ∧
      steady s 0x200_0000_0000 64)) ∧
    (let s := queued false false 0 0
     s.queueOf 0 1 = some (queue1 false false) ∧ (queue1 false false).mapped = false ∧
     isProtected ((s.homePut (0x200_0000_0000 + 16) 8 (putBits (s.homeNat (0x200_0000_0000 + 16) 8) 24 1 0)).ctxWorld 0) = false ∧
     steady s (0x200_0000_0000 + 16) 8 ∧ (queued true false 1 0).queueOf 0 1 = some (queue1 true false) ∧ (queue1 true false).mapped = true ∧
     qdHead ((queued true false 1 0).qdesc (queue1 true false)) ≠ qdTail ((queued true false 1 0).qdesc (queue1 true false))) ∧
    ((acc.dieAt 0).decode ≠ (0xFE : BitVec 8).getLsbD 0 ∧ (∀ n, n < 256 → (acc.crewAt n).resident = none) ∧ (due.crewAt 0).resident ≠ none ∧
      (due.dieAt (0 / 32)).decode ≠ (0xFE : BitVec 8).getLsbD (0 / 32)) ∧
    (2400 % 50 = 0 ∧ 1400 ≤ 2400 ∧ acc.clkset[(1 : Fin 2)] ≠ 2400 ∧ 1500 ≤ 3400 ∧ 16 ≤ 24) ∧
    (((linked .down).portAt 0).st = .down ∧ ((linked .failed).portAt 0).st = .failed ∧ ((linked .up).portAt 0).st ≠ .retired ∧
      ((linked .up).portAt 0).unacked = []) ∧
    (255 < 256 ∧ (acc.parity[Fin.ofNat 16 (255 % 16)]).retired = none ∧
      (let s := { acc with parity := acc.parity.set (Fin.ofNat 16 (255 % 16)) ⟨some 2, 6291456⟩ }
       (s.parity[Fin.ofNat 16 (255 % 16)]).retired = some 2 ∧ 6291456 ≤ (s.parity[Fin.ofNat 16 (255 % 16)]).cursor) ∧
      (acc.mapCrew 2 fun c => { c with lease := .held }).leaseHolder 0 = some 2) ∧
    (4095 < 4096 ∧ 0xFF_0000 % 0x1_0000 = 0 ∧ 0x100_0000 ≤ 0x100_0000 ∧ isProtected (acc.ctxWorld 0) = false ∧
      (linked .up).apertures.find? (fun x => x.page = 2) = some ⟨2, 0, true, true, 0, 0x1_0000⟩ ∧ 1 ≤ 127 ∧
      (∀ x ∈ (linked .up).apertures, x.page = 2 → isProtected ((linked .up).ctxWorld x.ctx) = false)) ∧
    (let s := { acc with doorbell := true, mbxReq := request 5 [0xE4, 0xC] }
     asked s 5 [(8, 2, 0xCE4)] ∧ ¬ asked s 6 [(8, 1, 0xE4)]) := by
  unfold asked steady
  refine ⟨⟨by decide, by decide, by decide, ⟨by decide +kernel, fun m h => by cases h⟩, by decide +kernel, Prod.ext rfl (by rfl), by decide +kernel,
    by decide +kernel, by decide +kernel⟩, by decide +kernel, by decide +kernel, by decide +kernel, by decide +kernel, by decide +kernel, by decide +kernel,
    by decide +kernel⟩

/-- MailboxCommands: commands on a closed world and on an open one. -/
theorem test_hyps_worlds :
    (worldIs acc 1 false ∧ worldIs (worldly 0) 1 true ∧ 1 ≤ 65535 ∧ 65535 ∉ ((worldly 0).worldAt 1).admitted ∧
      ((worldly 0).worldAt 1).admitted.length < 256 ∧ SMap.wf 0 (worldly 0).frameTag = true ∧ 0xFF_0000 % 0x1_0000 = 0 ∧
      inMemory 0xFF_0000 = true ∧ inScratch 0x204_0001_0000 = true ∧ 7 < 8 ∧ SMap.wf false ((worldly 0).worldAt 1).allow = true ∧
      (worldly 0).worldContexts 1 = []) ∧
    (∃ data : List Byte, data.length = 2048) ∧ (∃ report : List Byte, report.length = 592) ∧ (∃ modulus : List Byte, modulus.length = 384) ∧
    (∃ chain : List Byte, chain.length ≤ 3088) ∧
    (∃ blob : List Byte, blob.length = 408 ∧ leValue (blob.take 2) = 1 ∧ leValue ((blob.drop 2).take 1) = 1 ∧
      leValue ((blob.drop 3).take 5) = 0 ∧ leValue ((blob.drop 400).take 8) = 0) := by
  unfold worldIs
  refine ⟨by decide +kernel, ⟨List.replicate 2048 0, by decide +kernel⟩, ⟨List.replicate 592 0, by decide +kernel⟩, ⟨List.replicate 384 0, by decide +kernel⟩, ⟨[], by decide⟩,
    ⟨[1, 0, 1] ++ List.replicate 405 0, by decide +kernel⟩⟩
end Sys2Proof.Tests
end

