-- ==== Sys2Proof/Tests/WIndex.lean ====
section
/-! SUPPORT. Witnesses: states and operands that meet the hypotheses of the statements about index objects and cursors, clause by
clause. -/

namespace Sys2Proof.Tests
set_option Elab.async false
open Sys2Proof Sys2Proof.Machine Sys2Proof.Claims

/-- An index region at 0x8000 with the text 7, 8 in a capacity of 64, as yet unbound; x5 names it and x6 holds a value. -/
def region (x6 : Nat) : State :=
  put 0x8080 8 (7 + 8 * 2 ^ 32) (put 0x8000 16 (64 * 2 ^ 64 + 2 * 2 ^ 96)
    (exe.mapMe fun h => (h.setX 5 0x8000 noTaint).setX 6 (BitVec.ofNat 64 x6) noTaint))
/-- The same bound to context 0, under generation 1, with `len` tokens. -/
def obj : IxObj := ⟨0x8000, 1, 0, 0x8000, [0]⟩
def bound (x6 len : Nat) : State :=
  { put 0x8000 16 (1 + 2 ^ 32 + 64 * 2 ^ 64 + len * 2 ^ 96) (region x6) with indexes := [obj] }

/-- The first bytes of that object are sound, and it takes tokens. -/
theorem sound_of {s : State} {o : IxObj} {n : Nat} (h : (List.range n).all (fun k => s.tagOf (o.at' (k / 64 * 64)) == myWorld s &&
    !s.macBad (o.at' (k / 64 * 64)) && !s.poisoned (o.at' (k / 64 * 64))) = true) : ixSound s o n := by
  intro k hk
  simpa [and_assoc] using List.all_eq_true.mp h k (List.mem_range.mpr hk)
theorem sound_at {s : State} {pa n : Nat} {o : IxObj} (e : s.ixAt pa = some o) (h : ixSound s o n) : ∀ p, s.ixAt pa = some p → ixSound s p n := by
  intro p hp; rw [e] at hp; cases hp; exact h
theorem takes_of {s : State} {o : IxObj} {k : Nat} (h0 : (linesOf o.pa 64).all (fun l => s.tagOf (l * 64) == 0) = true)
    (h : (List.range k).all (fun j => let a := o.at' ((128 + 4 * (ixLen (s.ixHdr o) + j)) / 64 * 64)
      s.tagOf a == myWorld s && !s.macBad a && (linesOf a 64).all fun l => s.tagOf (l * 64) == 0) = true) : ixTakes s o k := by
  refine ⟨steady_of h0, fun j hj => ?_⟩
  have := List.all_eq_true.mp h j (List.mem_range.mpr hj)
  simp only [Bool.and_eq_true] at this
  exact ⟨by simpa using this.1.1, by simpa using this.1.2, steady_of this.2⟩
theorem slots_free {s : State} {c : Cursor} (h : (List.finRange 4).all (fun j => c.slots[j] == .empty) = true) : slotsSound s c := by
  intro j p g m o hj
  have := List.all_eq_true.mp h j (List.mem_finRange j)
  rw [hj] at this; cases this

theorem bound_place : ∀ p ∈ [(0, 2), (0x100_0000, 2), (9, 64), (9, 2), (1, 2)],
    let s := bound p.1 p.2
    s.memOk ∧ indexAddr (waited s [5, 6]) (s.me.xr 5).toNat 0x8000 ∧ (waited s [5, 6]).ixAt 0x8000 = some obj ∧
      indexUse (waited s [5, 6]) obj true ∧ ixLen ((waited s [5, 6]).ixHdr obj) = p.2 ∧ ixCap ((waited s [5, 6]).ixHdr obj) = 64 ∧
      (s.me.xr 6).toNat = p.1 ∧ ixTakes (waited s [5, 6]) obj 0 ∧ ixSound (waited s [5, 6]) obj (128 + 4 * p.2) := by
  intro p hp
  simp only [List.mem_cons, List.not_mem_nil, or_false] at hp
  rcases hp with rfl | rfl | rfl | rfl | rfl
  all_goals exact ⟨⟨by decide +kernel, fun m h => by cases h⟩, ⟨by decide +kernel, placed_of rfl (by decide +kernel), by decide +kernel, by decide +kernel,
      sound_at (o := obj) (by decide +kernel) (sound_of (by decide +kernel))⟩, by decide +kernel,
    ⟨by decide +kernel, .inl (by decide +kernel)⟩, by decide +kernel, by decide +kernel, by decide +kernel, takes_of (by decide +kernel) (by decide +kernel),
    sound_of (by decide +kernel)⟩

/-- The Vein as it serves the executing hart of that state. -/
def vein : Agent := ⟨.engine 1 .X 0, .die 0, (waited (region 1) [5, 6]).reqFor 1, 3, 1, 0, 0⟩
/-- The checks of IXINIT on what it reads, in the order it reads it. -/
def initText (text : List Byte) : Bool := decide (∀ i, i < 2 → leValue ((text.drop (4 * i)).take 4) < 2 ^ 24)
def initFrames (u2 : State) (fr : List Nat) : Bool :=
  fr == [0] && ((ixHeld [0] 0x8000 (128 + 64 * 64) 0 0).all fun h => !u2.writeRefused 0 h.pa h.len) &&
    passes (u2.engBytes vein (0x8000 + 128) (4 * 2)) fun _ text => initText text
def initHeader (u1 : State) (hdr : List Byte) : Bool :=
  decide (ixState (leValue hdr) ≠ 1 ∧ u1.ixAt 0x8000 = none ∧ ixHdrOk (leValue hdr) = true ∧ ixCap (leValue hdr) = 64 ∧ ixLen (leValue hdr) = 2) &&
    passes (State.ixFrames vein ((0x8000 + (128 + 64 * 64) + 0xFFFF) / 0x1_0000) (0x8000 - 0x8000) u1 []) initFrames

/-- IndexObjects: IXINIT with mode 1 at the unbound region, and the rest of its clauses at the bound one (bound_place). -/
theorem test_hyps_ixinit :
    let s := region 1
    let w := waited s [5, 6]
    let va := (s.me.xr 5).toNat
    s.memOk ∧ indexAddr w va 0x8000 ∧ s.me.xr 6 = 1 ∧ va = 0x8000 ∧ myCtx w = 0 ∧ myWorld w = 0 ∧
    vein = ⟨.engine s.cur .X 0, .die (s.cur.val / 64), w.reqFor s.cur, 3, s.cur, 0, s.me.pc.toNat⟩ ∧
    ∃ u1 hdr u2 fr u3 text, w.engBytes vein 0x8000 128 = (u1, .ok hdr) ∧
      State.ixFrames vein ((0x8000 + (128 + 64 * 64) + 0xFFFF) / 0x1_0000) (0x8000 - 0x8000) u1 [] = (u2, .ok fr) ∧
      u2.engBytes vein (0x8000 + 128) (4 * 2) = (u3, .ok text) ∧
      (ixState (leValue hdr) ≠ 1 ∧ u1.ixAt 0x8000 = none ∧ ixHdrOk (leValue hdr) = true ∧ ixCap (leValue hdr) = 64 ∧ ixLen (leValue hdr) = 2) ∧
      fr = [0] ∧ (∀ h ∈ ixHeld [0] 0x8000 (128 + 64 * 64) 0 0, u2.writeRefused 0 h.pa h.len = false) ∧
      ∀ i, i < 2 → leValue ((text.drop (4 * i)).take 4) < 2 ^ 24 := by
  refine ⟨⟨by decide +kernel, fun m h => by cases h⟩, ⟨by decide +kernel, placed_of rfl (by decide +kernel), by decide +kernel, by decide +kernel,
    fun o h => by rw [show (waited (region 1) [5, 6]).ixAt 0x8000 = none by decide +kernel] at h; cases h⟩, by decide +kernel, by decide +kernel,
    by decide +kernel, by decide +kernel, by decide +kernel, ?_⟩
  obtain ⟨u1, hdr, e1, h1⟩ := then_of (show passes ((waited (region 1) [5, 6]).engBytes vein 0x8000 128) initHeader = true by decide +kernel)
  obtain ⟨ha, h1⟩ := (Bool.and_eq_true _ _).mp h1
  obtain ⟨u2, fr, e2, h2⟩ := then_of h1
  obtain ⟨hb, h2⟩ := (Bool.and_eq_true _ _).mp h2
  obtain ⟨hf, hb⟩ := (Bool.and_eq_true _ _).mp hb
  obtain ⟨u3, text, e3, h3⟩ := then_of h2
  refine ⟨u1, hdr, u2, fr, u3, text, e1, e2, e3, of_decide_eq_true ha, by simpa using hf, fun h hh => ?_, of_decide_eq_true h3⟩
  simpa using List.all_eq_true.mp hb h hh

/-- IndexObjects: IXCUR, IXATT, IXDET, IXMATCH and IXSTAT with cursor 0 free. -/
theorem test_hyps_cursor :
    let s := bound 0 2
    let c := myCursor s 0
    (s.me.xr 6).toNat ≤ 7 ∧ (5 : BitVec 5) ≠ 0 ∧ 0 < 2 ^ 10 ∧ bits 0 7 3 = 0 ∧ indexUse (waited s [5, 6]) obj false ∧ c.window.length = min c.hlen 256 ∧
    slotsSound (waited s [5, 6]) c ∧ 0 < 2 ^ 13 ∧ bits 0 11 10 = 0 ∧ 0 < 2 ^ 24 ∧ c.hlen < 2 ^ 48 - 1 ∧
    ixSound (waited s [5, 6]) obj (128 + 4 * ixLen ((waited s [5, 6]).ixHdr obj)) ∧ ixSound (waited s [5, 6]) obj 128 := by
  unfold indexUse
  exact ⟨by decide +kernel, by decide, by decide, by decide, ⟨by decide +kernel, .inl (by decide +kernel)⟩, by decide +kernel, slots_free (by decide +kernel),
    by decide, by decide +kernel, by decide, by decide +kernel, sound_of (by decide +kernel), sound_of (by decide +kernel)⟩

/-- IndexExtendPropose: IXEXT of a wide token, at a full text and with room; IXEXTV of four tokens with room. -/
theorem test_hyps_extend :
    2 ^ 24 ≤ 0x100_0000 ∧ 64 ≤ 64 ∧ 9 < 2 ^ 24 ∧ 2 < 64 ∧
    (∀ i j, i < j → j < 4 → apart (obj.at' (128 + 4 * (2 + i))) 4 (obj.at' (128 + 4 * (2 + j))) 4) ∧
    (∀ j, j < 4 → apart (obj.at' (128 + 4 * (2 + j))) 4 obj.pa 128) ∧
    (let s := bound 0 2
      let w := memIssue s 0 [2] [5]
      let h := w.me
      vecReady s (fun h => h.sew = 2) ∧ h.vst = 0 ∧ (∀ i ∈ (List.range h.vln).filter (active h 0 h.vln), h.elemBad 2 32 i = false ∧ h.elem 2 32 i < 2 ^ 24) ∧
      indexAddr w (h.xr 5).toNat 0x8000 ∧ w.ixAt 0x8000 = some obj ∧ indexUse w obj true ∧
      ixLen (w.ixHdr obj) + ((List.range h.vln).filter (active h 0 h.vln)).length ≤ ixCap (w.ixHdr obj) ∧
      ixTakes w obj 4 ∧ ∀ a, spared (cleanRegs h [2]) a) := by
  refine ⟨by decide, by decide, by decide, by decide, ?_, ?_, by unfold vecReady; decide +kernel, by decide +kernel, by decide +kernel,
    ⟨by decide +kernel, placed_of rfl (by decide +kernel), by decide +kernel, by decide +kernel,
      sound_at (o := obj) (by decide +kernel) (sound_of (by decide +kernel))⟩, by decide +kernel, ⟨by decide +kernel, .inl (by decide +kernel)⟩, by decide +kernel,
    takes_of (by decide +kernel) (by decide +kernel), fun _ => .inl (by unfold cleanRegs; decide +kernel)⟩
  · intro i j h1 h2
    have : i < 4 := by omega
    interval_cases i <;> interval_cases j <;> first | omega | (unfold apart; decide +kernel)
  · intro j h
    interval_cases j <;> (unfold apart; decide +kernel)

/-- IndexExtendPropose: one row of one proposal: IXPROP; IXACC with no append, with an append and no own index, and with the own index bound. -/
theorem test_hyps_propose :
    let s := (bound 0x100 2).mapMe fun h => h.setX 7 0x1_0100 noTaint
    let w := memIssue s 0 [2, 3] [6]
    let h := w.me
    vecReady s (fun h => h.sew = 2) ∧ h.vst = 0 ∧ (h.xr 6).toNat = 0 + (1 - 1) * 2 ^ 4 + 1 * 2 ^ 8 + 0 * 2 ^ 24 ∧ 1 * (1 + 1) ≤ h.vln ∧
    (h.xr 7).toNat % 2 ^ 24 = 0 + (1 - 1) * 2 ^ 4 + 1 * 2 ^ 8 + 2 ^ 16 ∧ (h.xr 7).toNat < 2 ^ 32 ∧
    (∀ i, i < 2 → h.elemBad 2 32 i = false ∧ h.elemBad 3 32 i = false ∧ h.elem 3 32 i < 2 ^ 24) ∧ (myCursor w 0).own = none ∧ cleanRegs h [2, 3] ∧
    (let t := s.mapCrew 0 fun c => { c with cursors := c.cursors.set 0 { Cursor.free with own := some (0x8000, 1) } }
      let u := memIssue t 0 [2, 3] [7]
      (myCursor u 0).own = some (obj.pa, obj.gen) ∧ u.ixLive obj.pa obj.gen = some obj ∧ ixLen (u.ixHdr obj) + 1 + 1 ≤ ixCap (u.ixHdr obj) ∧
        ixSound u obj (128 + 4 * (ixLen (u.ixHdr obj) + 1 + 1)) ∧ ixTakes u obj (1 + 1) ∧ slotsSound u (myCursor u 0)) ∧ slotsSound w (myCursor w 0) := by
  refine ⟨by unfold vecReady; decide +kernel, by decide +kernel, by decide +kernel, by decide +kernel, by decide +kernel, by decide +kernel, by decide +kernel,
    by decide +kernel, by unfold cleanRegs; decide +kernel, ⟨by decide +kernel, by decide +kernel, by decide +kernel, sound_of (by decide +kernel),
    takes_of (by decide +kernel) (by decide +kernel), slots_free (by decide +kernel)⟩, slots_free (by decide +kernel)⟩

end Sys2Proof.Tests
end

