-- ==== Sys2Proof/Tests/WScalar.lean ====
section
/-! SUPPORT. Witnesses: states and operands that meet the hypotheses of the statements about scalar instructions, clause by clause. -/

namespace Sys2Proof.Tests
set_option Elab.async false
open Sys2Proof Sys2Proof.Machine Sys2Proof.Claims

/-- ImmediateArithmetic, RegisterArithmetic, Branches: the tables of forms are not empty; a shift with bit 6 set, one with bit 9 set, and
CLZ with an rs2. -/
theorem test_hyps_arithmetic : immForms.length = 6 ∧ shiftForms.length = 3 ∧ regForms.length = 21 ∧ countForms.length = 3 ∧
    branchForms.length = 6 ∧ 64 < 2 ^ 11 ∧ 64 ≤ 64 ∧ 512 / 64 % 16 ≠ 0 ∧ (31 : BitVec 5) ≠ 0 := by decide

/-- ScalarLoads: LD at 256 and C.LD at 16. -/
theorem test_hyps_loads :
    ((acc.me.xr 0 + (256 : BitVec 11).signExtend 64).toNat % 8 = 0 ∧
      ∃ u bs, (tagged (waited acc [0])).readVa (acc.me.xr 0 + (256 : BitVec 11).signExtend 64).toNat 8 .read false true = (u, .ok bs)) ∧
    ((acc.me.xr (BitVec.ofNat 5 8) + BitVec.ofNat 64 (8 * 2)).toNat % 8 = 0 ∧
      ∃ u bs, (tagged (waited acc [BitVec.ofNat 5 8])).readVa (acc.me.xr (BitVec.ofNat 5 8) + BitVec.ofNat 64 (8 * 2)).toNat 8 .read false true =
        (u, .ok bs)) :=
  ⟨⟨by decide +kernel, ok_of (by decide +kernel)⟩, by decide +kernel, ok_of (by decide +kernel)⟩

/-- ScalarStores: SD at 256 and C.SD at 16. -/
theorem test_hyps_stores :
    (acc.memOk ∧ (acc.me.xr 0 + (256 : BitVec 11).signExtend 64).toNat % 8 = 0 ∧
      ∃ u, (waited acc [0, 1]).locate ((waited acc [0, 1]).reqFor acc.cur) (acc.me.xr 0 + (256 : BitVec 11).signExtend 64).toNat .write =
        (u, .ok (.local 256)) ∧ plainPlace u ((waited acc [0, 1]).reqFor acc.cur).world 256 8) ∧
    ((acc.me.xr 8 + BitVec.ofNat 64 (8 * 2)).toNat % 8 = 0 ∧
      ∃ u, (waited acc [8, 9]).locate ((waited acc [8, 9]).reqFor acc.cur) (acc.me.xr 8 + BitVec.ofNat 64 (8 * 2)).toNat .write =
        (u, .ok (.local 16)) ∧ plainPlace u ((waited acc [8, 9]).reqFor acc.cur).world 16 8) := by
  refine ⟨⟨acc_memOk, by decide +kernel, _, Prod.ext rfl (by rfl), ?_⟩, by decide +kernel, _, Prod.ext rfl (by rfl), ?_⟩
  all_goals unfold plainPlace; decide +kernel

/-- Atomics: an AMO with release, LDA and STL at address 0. -/
theorem test_hyps_atomics :
    (∃ u, (amoReady acc .add 3 4 5 0 6).locate ((amoReady acc .add 3 4 5 0 6).reqFor acc.cur) (acc.me.xr 0).toNat .write =
      (u, .ok (.local 0)) ∧ plainPlace u ((amoReady acc .add 3 4 5 0 6).reqFor acc.cur).world 0 8 ∧ soundLines u 0 8) ∧
    (∃ u, (amoReady acc .lda 1 4 0 0 6).locate ((amoReady acc .lda 1 4 0 0 6).reqFor acc.cur) (acc.me.xr 0).toNat .read =
      (u, .ok (.local 0)) ∧ plainPlace u ((amoReady acc .lda 1 4 0 0 6).reqFor acc.cur).world 0 4 ∧ soundLines u 0 4) ∧
    (∃ u, (amoReady acc .stl 2 4 5 0 0).locate ((amoReady acc .stl 2 4 5 0 0).reqFor acc.cur) (acc.me.xr 0).toNat .write =
      (u, .ok (.local 0)) ∧ plainPlace u ((amoReady acc .stl 2 4 5 0 0).reqFor acc.cur).world 0 4 ∧ soundLines u 0 4) ∧
    acc.memOk ∧ noPosted acc 4 ∧ noPosted acc 3 ∧ (acc.me.xr 0).toNat % 8 = 0 ∧ (acc.me.xr 0).toNat % 4 = 0 := by
  refine ⟨⟨_, Prod.ext rfl (by rfl), ?_, ?_⟩, ⟨_, Prod.ext rfl (by rfl), ?_, ?_⟩, ⟨_, Prod.ext rfl (by rfl), ?_, ?_⟩, acc_memOk, ?_, fun h => absurd h (by decide), ?_, ?_⟩
  on_goal 7 => exact fun _ => by decide +kernel
  all_goals (try unfold plainPlace); (try unfold soundLines); decide +kernel

/-- Fences: FENCE.T on the execute hart, and FENCE.X from its own path, with no engine at work; a copy's write beside it. -/
theorem test_hyps_fences :
    let s : State := { exe with writes := [⟨0, .engine 1 .C 0, 256, [0], 0, []⟩] }
    s.cur.val % 2 = 1 ∧ noPosted s 4 ∧ ¬ noPosted { exe with requests := [⟨9, 1, 0, 5, 0, 0, false, 0, 0, [], .posted 0 0⟩] } 4 ∧
      s.engineBusy s.cur 1 = false ∧ s.engineBusy s.cur 2 = false ∧ (1 : BitVec 3).toNat = s.cur.val % 2 ∧
      (∃ w ∈ s.writes, w.who = .engine s.cur .C 0) := by
  refine ⟨rfl, fun _ => by decide +kernel, fun h => absurd (h rfl) (by decide +kernel), by decide +kernel, by decide +kernel, by decide +kernel, _, List.mem_cons_self, rfl⟩

/-- TaintControl: file x on the access hart, file v on the execute hart. -/
theorem test_hyps_taint : exe.cur.val % 2 = 1 ∧ ((0 : BitVec 2) = 0 ∧ (5 : BitVec 5) ≠ 0) := by decide +kernel

/-- TrapEntry: LD at 257, C.SD at 257 and AMOADD.W at 2. -/
theorem test_hyps_misaligned :
    let s := acc.mapMe fun h => h.setX 8 2 noTaint
    (s.me.xr 0 + (257 : BitVec 11).signExtend 64).toNat % 8 ≠ 0 ∧ (s.me.xr 8).toNat % 4 ≠ 0 ∧ (s.me.xr 8).toNat % 8 ≠ 0 ∧
      (s.me.xr 8 + BitVec.ofNat 64 (8 * 1)).toNat % 8 ≠ 0 := by decide +kernel

/-- SupervisorOnly: user mode at reset; CSR 0x100 is the supervisor's, 0x002 may only be read, 0x0FF does not exist. -/
theorem test_hyps_supervisor : exe.me.sup = false ∧ exe.cur.val % 2 = 1 ∧ (0x100 : BitVec 11).toNat ≥ 0x100 ∧
    csrMap (0xFF : BitVec 11).toNat = none ∧ csrMap (0x002 : BitVec 11).toNat = some (.ro, .ro) ∧ csrMap (0x005 : BitVec 11).toNat = some (.ro, .rw) ∧
    (privileged exe).me.sup = true := by decide +kernel

/-- WaitYieldInvalidate: WFI with a request and with none, YIELD with none, with one that may not and with one that may be taken; TLBINV while
another hart waits inside an access of the context, with a translation cached and with none, and while none does. -/
theorem test_hyps_wait :
    let p := privileged acc
    let q := p.mapCrew 0 fun c => { c with preempt := true }
    let b := p.mapHart 1 fun h => { h with remote := [⟨9, 0, 255, .read 0x2000 8, none, false⟩] }
    p.me.sup = true ∧ p.timerPending p.cur = false ∧ p.bellPending p.cur = false ∧ (p.crewAt (crewOf p.cur)).preempt = false ∧
    q.me.sup = true ∧ (q.crewAt (crewOf q.cur)).preempt = true ∧ q.me.sstatus.getLsbD 0 = false ∧
    ({ p with doorbell := true }).bellPending p.cur = true ∧
    ((acc.mapCrew 0 fun c => { c with preempt := true }).crewAt (crewOf acc.cur)).preempt = true ∧ acc.me.sup = false ∧
    b.me.sup = true ∧ b.ctxBusy (bits b.me.sxlat.toNat 63 48) = true ∧ b.cached (bits b.me.sxlat.toNat 63 48) none = true ∧
    b.cached (bits b.me.sxlat.toNat 63 48) (some 0x4000_0000) = false ∧ p.ctxBusy (bits p.me.sxlat.toNat 63 48) = false := by
  decide +kernel

/-- CsrAccess: user fcsr; a supervisor's stvec; vl of the access hart, where a write is ignored; CsrFields at both kinds of hart. -/
theorem test_hyps_csr : csrAllowed exe 8 false ∧ csrAllowed (privileged exe) 0x102 false ∧ csrAllowed acc 1 false ∧ csrAllowed exe 2 true ∧
    (1 < 512 ∧ 1 % 2 = 1 ∧ 0 % 2 = 0 ∧ 0 < 2 ^ 64) :=
  ⟨⟨.rw, .rw, by decide +kernel⟩, ⟨.none, .rw, by decide +kernel⟩, ⟨.rw, .rw, by decide +kernel⟩, ⟨.ro, .ro, by decide +kernel⟩, by decide⟩

/-- ChuteTransfers: chute 1 empty, with one entry, with a poisoned entry for x0, and full. -/
theorem test_hyps_chutes :
    let one : ChEntry := ⟨7, false, .put⟩
    (myChute acc 1).copyFed = false ∧ (myChute acc 1).free ≠ 0 ∧
    (myChute (holding acc (List.replicate 512 one)) 1).free = 0 ∧ (myChute (holding acc (List.replicate 512 one)) 1).copyFed = false ∧
    exe.cur.val % 2 = 1 ∧ (myChute exe 1).entries = [] ∧
    (myChute (holding exe [one]) 1).entries = one :: [] ∧ one.poison = false ∧
    (myChute (holding exe [⟨7, true, .put⟩]) 1).entries = ⟨7, true, .put⟩ :: [] := by decide +kernel

end Sys2Proof.Tests
end

