-- ==== Sys2Proof/Tests/WSwitch.lean ====
section
/-! SUPPORT. Witnesses for the switch-out and the resume of a crew: a save area whose every section can be written and read. -/

namespace Sys2Proof.Tests
set_option Elab.async false
open Sys2Proof Sys2Proof.Machine Sys2Proof.Claims

/-- Crew 0 resident with both harts left, its save area at 0x10_0000. -/
def leaving : State :=
  ((acc.mapHart 0 fun h => { h with left := true }).mapHart 1 fun h => { h with left := true }).mapCrew 0 fun c =>
    { c with resident := some ⟨0, 0, 0, 0⟩, msave := 0x10_0000 }

theorem chain_section_length (c : Chain) : c.section'.length = 37056 := by
  simp [Chain.section', List.length_flatMap]
theorem chute_section_length (c : Crew) : c.chuteSection.length = 65664 := by
  have k : ∀ q : Chute, q.saved.length * 8 + 8 * (512 - q.saved.length) = 4096 := by
    intro q
    have : q.saved.length ≤ 512 := by unfold Chute.saved; split <;> simp
    omega
  simp [Crew.chuteSection, List.length_flatMap, k, Function.comp_def]

theorem fitTo_length (n : Nat) (b : List Byte) : (fitTo n b).length = n := by
  simp only [fitTo, List.length_take, List.length_append, List.length_replicate]
  omega
theorem copy_section_length (h : Hart) : h.copySection.length = 8192 := by
  simp only [Hart.copySection, List.length_append, fitTo_length]
theorem cursor_section_length (c : Crew) : c.cursorSection.length = 10240 := by
  simp [Crew.cursorSection, List.length_flatMap, Cursor.section, fitTo_length]

/-- What the steps of a switch-out of crew 0 keep of that state. -/
def areaOpen (s : State) : Prop :=
  s.memOk ∧ s.cores = leaving.cores ∧ s.held = leaving.held ∧ s.frameTag = [] ∧ s.queues = [] ∧ s.harts = leaving.harts ∧ s.crews = leaving.crews ∧
  s.dies = leaving.dies ∧ s.subs = [] ∧ s.groups = [] ∧ ∀ a, Config.ctxTab ≤ a → a < Config.ctxTab + 128 → s.homeByte a = 0

theorem lineWritten_keeps (s : State) (pa n l : Nat) (h : s.frameTag = []) :
    (s.lineWritten pa n l).cores = s.cores ∧ (s.lineWritten pa n l).held = s.held ∧ (s.lineWritten pa n l).frameTag = [] ∧
    (s.lineWritten pa n l).queues = s.queues ∧ (s.lineWritten pa n l).harts = s.harts ∧ (s.lineWritten pa n l).crews = s.crews ∧
    (s.lineWritten pa n l).dies = s.dies ∧ (s.lineWritten pa n l).subs = s.subs ∧ (s.lineWritten pa n l).groups = s.groups := by
  have hb : s.bumpVersion l = s := by simp [State.bumpVersion, State.tagOf, h, SMap.get]
  unfold State.lineWritten
  dsimp only
  rw [hb]
  split
  · exact ⟨rfl, rfl, h, rfl, rfl, rfl, rfl, rfl, rfl⟩
  · exact ⟨rfl, rfl, h, rfl, rfl, rfl, rfl, rfl, rfl⟩

theorem linesWritten_keeps (pa n : Nat) : ∀ (ls : List Nat) (s : State), s.frameTag = [] →
    let t := ls.foldl (fun s l => s.lineWritten pa n l) s
    t.cores = s.cores ∧ t.held = s.held ∧ t.frameTag = [] ∧ t.queues = s.queues ∧ t.harts = s.harts ∧ t.crews = s.crews ∧
      t.dies = s.dies ∧ t.subs = s.subs ∧ t.groups = s.groups := by
  intro ls
  induction ls with
  | nil => intro s h; exact ⟨rfl, rfl, h, rfl, rfl, rfl, rfl, rfl, rfl⟩
  | cons l r ih =>
    intro s h
    have k := lineWritten_keeps s pa n l h
    have q := ih (s.lineWritten pa n l) k.2.2.1
    simp only [List.foldl_cons]
    exact ⟨q.1.trans k.1, q.2.1.trans k.2.1, q.2.2.1, q.2.2.2.1.trans k.2.2.2.1, q.2.2.2.2.1.trans k.2.2.2.2.1,
      q.2.2.2.2.2.1.trans k.2.2.2.2.2.1, q.2.2.2.2.2.2.1.trans k.2.2.2.2.2.2.1, q.2.2.2.2.2.2.2.1.trans k.2.2.2.2.2.2.2.1,
      q.2.2.2.2.2.2.2.2.trans k.2.2.2.2.2.2.2.2⟩

theorem area_store {s : State} (h : areaOpen s) (pa : Nat) (b : List Byte) (hb : pa + b.length ≤ 0x20_0000) :
    ∃ t, s.storeAt 0 .home pa b 3 = some t ∧ areaOpen t := by
  obtain ⟨hm, h1, h2, h3, h4, h5, h6, h7, h8, h9, h10⟩ := h
  have tag : ∀ a, s.tagOf a = 0 := by intro a; simp [State.tagOf, h3, SMap.get]
  refine ⟨_, storeAt_plain s 0 .home pa b 3 ?_ ?_ ?_ ?_, ?_⟩
  · have : s.held = [⟨.contexts, Config.ctxTab, 0x80_0000, 0, 0⟩] := h2
    simp only [State.writeRefused, State.readRefused, State.spentIn, tag, this, State.majorSpent, State.frameShut, Config.ctxTab]
    simp
    omega
  · have e : ¬ (Config.ctxTab ≤ pa) := by simp only [Config.ctxTab]; omega
    simp [inCtxTab, e]
  · rw [h4]; intro q hq; cases hq
  · intro ⟨hp, _⟩; simp only [inPool, Bool.and_eq_true, decide_eq_true_eq] at hp; omega
  · have q : (s.writeBytes .home pa b 3).queueWake pa b = s.writeBytes .home pa b 3 := by
      have k := linesWritten_keeps pa b.length (linesOf pa b.length) s h3
      have e : (s.writeBytes .home pa b 3).queues = [] := k.2.2.2.1.trans h4
      unfold State.queueWake
      rw [e]
      simp only [List.map_nil]
      rw [← e]
    rw [q]
    have k := linesWritten_keeps pa b.length (linesOf pa b.length) s h3
    refine ⟨writeBytes_memOk _ _ _ _ hm, k.1.trans h1, k.2.1.trans h2, k.2.2.1, k.2.2.2.1.trans h4, k.2.2.2.2.1.trans h5, k.2.2.2.2.2.1.trans h6,
      k.2.2.2.2.2.2.1.trans h7, k.2.2.2.2.2.2.2.1.trans h8, k.2.2.2.2.2.2.2.2.trans h9, ?_⟩
    intro a ha hb'
    rw [(homeByte_writeBytes .home pa b 3 hm).1 a (.inr (by simp only [Config.ctxTab] at ha; omega))]
    exact h10 a ha hb'

theorem area_locate (s : State) (rq : Req) (va : Nat) (acc : Acc) (ht : (s.coreAt rq.core).tlb = [⟨0, 0, 0x4000_0000, 0x2F⟩]) (hc : rq.ctx = 0)
    (hs : rq.sup = true) (hv : va < 0x4000_0000) (ha : acc ≠ .fetch) : s.locate rq va acc = (s, .ok (.local va)) := by
  have hb : bits va 63 56 = 0 := by simp only [bits]; omega
  have hn : nonCanonical va = false := by simp [nonCanonical, hb]
  have hl : s.leafFor rq va = (s, .ok ⟨0, 0, 0x4000_0000, 0x2F⟩) := by
    unfold State.leafFor
    simp [ht, hc, tlbFind, hv]
  have hp : permitted 0x2F true acc = true := by cases acc <;> first | rfl | exact absurd rfl ha
  unfold State.locate
  rw [hn, hl, hs]
  simp only [hp]
  have e1 : ¬ (0xF0_0000_0000_0000 ≤ va) := by omega
  simp [e1]
  have e6 : Nat.testBit 47 6 = false := by decide
  simp [State.leafLoc, eTol, ePa, bits, e6]

theorem ctx0_fields {s : State} (h : ∀ a, Config.ctxTab ≤ a → a < Config.ctxTab + 128 → s.homeByte a = 0) : s.ctxWorld 0 = 0 ∧ s.ctxRoot 0 = 0 := by
  have e : s.homeNat (ctxPa 0) 128 = 0 := by
    have : s.homeBytes (ctxPa 0) 128 = List.replicate 128 0 := by
      unfold State.homeBytes
      rw [List.map_congr_left (g := fun _ => (0 : Byte))]
      · simp
      · intro j hj
        have hj : j < 128 := by simpa using hj
        exact h _ (by simp only [ctxPa]; omega) (by simp only [ctxPa]; omega)
    rw [State.homeNat, this]; decide +kernel
  simp [State.ctxWorld, State.ctxRoot, State.ctxField, e, bits]

theorem area_hwWrite {rq : Req} (h0 : rq.ctx = 0) (h1 : rq.world = 0) (h2 : rq.sup = true) (h3 : rq.core = 0) : ∀ (k : Nat) (s : State) (va : Nat) (b : List Byte),
    areaOpen s → va + b.length ≤ 0x20_0000 → ∃ t, State.hwWrite rq k s va b = (t, true) ∧ areaOpen t := by
  intro k
  induction k with
  | zero => intro s va b h _; exact ⟨s, rfl, h⟩
  | succ k ih =>
    intro s va b h hb
    unfold State.hwWrite
    by_cases he : b.isEmpty = true
    · simp only [he, if_true]; exact ⟨s, rfl, h⟩
    · have ht : (s.coreAt rq.core).tlb = [⟨0, 0, 0x4000_0000, 0x2F⟩] := by
        rw [h3]; unfold State.coreAt; rw [h.2.1]; rfl
      rw [area_locate s rq va .write ht h0 h2 (by omega) (by decide)]
      simp only [he, h1]
      obtain ⟨t, e, ht⟩ := area_store h va (b.take (min b.length (64 - va % 64))) (by simp; omega)
      simp only [e]
      have hm : (va + min b.length (64 - va % 64)) % 2 ^ 64 = va + min b.length (64 - va % 64) := by omega
      rw [hm]
      exact ih t _ _ ht (by simp; omega)

theorem area_save {s : State} (h : areaOpen s) (off : Nat) (b : List Byte) (hb : off + b.length ≤ 0x10_0000) :
    ∃ t, s.saveBytes 0 0 off b = (t, true) ∧ areaOpen t := by
  have hw := (ctx0_fields h.2.2.2.2.2.2.2.2.2.2)
  have hm : (s.crewAt 0).msave.toNat = 0x10_0000 := by unfold State.crewAt; rw [h.2.2.2.2.2.2.1]; rfl
  have he : ((s.crewAt 0).msave.toNat + off) % 2 ^ 64 = 0x10_0000 + off := by rw [hm]; omega
  unfold State.saveBytes
  rw [he]
  exact area_hwWrite rfl hw.1 rfl rfl _ s _ b h (by omega)

theorem inOrder_cons {f : State → State × Bool} {r : List (State → State × Bool)} {s t : State} (h : f s = (t, true)) :
    inOrder (f :: r) s = inOrder r t := by simp [inOrder, h]

theorem leaving_open : areaOpen leaving := by
  refine ⟨⟨by decide +kernel, fun m h => by cases h⟩, rfl, rfl, rfl, rfl, rfl, rfl, rfl, rfl, rfl, fun a h1 h2 => ?_⟩
  show SMap.get 0 [(Config.errLog + 16, (12 : Byte))] a = 0
  simp only [Config.ctxTab, Config.errLog] at *
  simp [SMap.get]
  omega

theorem area_rolled {s : State} (h : areaOpen s) :
    areaOpen (s.mapHart (2 * 0) fun x => { x with copies := x.copies.map (s.crewAt 0).rollBack }) := by
  refine ⟨h.1, h.2.1, h.2.2.1, h.2.2.2.1, h.2.2.2.2.1, ?_, h.2.2.2.2.2.2⟩
  show s.harts.set 0 { s.harts[0] with copies := s.harts[0].copies.map (s.crewAt 0).rollBack } = leaving.harts
  rw [h.2.2.2.2.2.1]
  apply Vector.ext
  intro i hi
  rw [Vector.getElem_set]
  split
  · next q => subst q; rfl
  · rfl

theorem save_steps {s : State} (h : areaOpen s) : ∃ t, inOrder [State.saveCopies 0 0, State.saveMatrix 0 0, State.saveChain 0 0, State.saveChutes 0 0,
    State.saveCursors 0 0, fun s => s.saveBytes 0 0 0 (s.saveHeader 0)] s = (t, true) ∧ areaOpen t := by
  have copies : ∀ {s : State}, areaOpen s → (s.hartAt 0).copies = [] := by
    intro s h; unfold State.hartAt; rw [h.2.2.2.2.2.1]; rfl
  have crew : ∀ {s : State}, areaOpen s → s.crewAt 0 = leaving.crewAt 0 := by
    intro s h; unfold State.crewAt; rw [h.2.2.2.2.2.2.1]
  have hart : ∀ {s : State}, areaOpen s → s.hartAt 1 = leaving.hartAt 1 := by
    intro s h; unfold State.hartAt; rw [h.2.2.2.2.2.1]
  obtain ⟨t1, e1, h1⟩ : ∃ t, State.saveCopies 0 0 s = (t, true) ∧ areaOpen t := by
    have d : s.drainCopies (2 * 0) = s := by unfold State.drainCopies; dsimp only; rw [copies h]; dsimp only [List.foldl_nil]; rw [copies h]; rfl
    unfold State.saveCopies
    rw [d]
    exact area_save (area_rolled h) 425984 _ (by rw [copy_section_length]; decide)
  obtain ⟨t2, e2, h2⟩ : ∃ t, State.saveMatrix 0 0 t1 = (t, true) ∧ areaOpen t := by
    have d : t1.mxDrain 0 = t1 := by unfold State.mxDrain; rw [crew h1]; rfl
    have l : (t1.crewAt 0).lease = .none := by rw [crew h1]; rfl
    unfold State.saveMatrix
    rw [d]
    simp only [l]
    exact area_save h1 73728 _ (by simp)
  obtain ⟨t3, e3, h3⟩ : ∃ t, State.saveChain 0 0 t2 = (t, true) ∧ areaOpen t := by
    unfold State.saveChain
    have d : areaOpen (t2.sluicePark 0) := by
      unfold State.sluicePark
      rw [crew h2]
      dsimp only [show (leaving.crewAt 0).resident = some ⟨0, 0, 0, 0⟩ from rfl]
      rw [h2.2.2.2.2.2.2.2.2.1]
      have e : (t2.dieAt 0).delivs = [] := by unfold State.dieAt; rw [h2.2.2.2.2.2.2.2.1]; rfl
      have f : ({ t2.dieAt 0 with delivs := [], resume := (t2.dieAt 0).resume ++ [] } : Die) = t2.dieAt 0 := by
        unfold State.dieAt; rw [h2.2.2.2.2.2.2.2.1]; rfl
      simp only [List.filter_nil, List.any_nil, Nat.zero_div, e, List.filter_nil, List.foldl_nil]
      refine ⟨h2.1, h2.2.1, h2.2.2.1, h2.2.2.2.1, h2.2.2.2.2.1, h2.2.2.2.2.2.1, h2.2.2.2.2.2.2.1, ?_, h2.2.2.2.2.2.2.2.2.1,
        h2.2.2.2.2.2.2.2.2.2.1, h2.2.2.2.2.2.2.2.2.2.2⟩
      show t2.dies.set 0 _ = leaving.dies
      rw [h2.2.2.2.2.2.2.2.1]
      apply Vector.ext
      intro i hi
      rw [Vector.getElem_set]
      split
      · next q => subst q; rfl
      · rfl
    have e := hart d
    revert d e
    generalize t2.sluicePark 0 = u
    intro d e
    show ∃ t, u.saveBytes 0 0 372736 (u.hartAt 1).chain.section' = (t, true) ∧ areaOpen t
    rw [e]
    exact area_save d 372736 _ (by rw [chain_section_length]; decide)
  obtain ⟨t4, e4, h4⟩ : ∃ t, State.saveChutes 0 0 t3 = (t, true) ∧ areaOpen t := by
    unfold State.saveChutes
    exact area_save h3 4096 _ (by rw [chute_section_length]; decide)
  obtain ⟨t5, e5, h5⟩ : ∃ t, State.saveCursors 0 0 t4 = (t, true) ∧ areaOpen t := by
    exact area_save h4 413696 _ (by rw [cursor_section_length]; decide)
  obtain ⟨t6, e6, h6⟩ := area_save h5 0 (t5.saveHeader 0) (by simp [State.saveHeader])
  exact ⟨t6, by rw [inOrder_cons e1, inOrder_cons e2, inOrder_cons e3, inOrder_cons e4, inOrder_cons e5, inOrder_cons e6]; rfl, h6⟩

theorem area_release {s : State} (h : areaOpen s) : areaOpen (s.releaseLanes 1) := by
  refine ⟨h.1, ?_, h.2.2.1, h.2.2.2.1, h.2.2.2.2.1, ?_, h.2.2.2.2.2.2⟩
  · show s.cores.set 0 { s.cores[0] with lanes := s.cores[0].lanes.map fun g => if g.owner = some 1 then { g with owner := none } else g } = leaving.cores
    rw [h.2.1]
    apply Vector.ext
    intro i hi
    rw [Vector.getElem_set]
    split
    · next q =>
        subst q
        have e : ((leaving.cores[0]'(by decide)).lanes.map fun g => if g.owner = some 1 then { g with owner := none } else g) = (leaving.cores[0]'(by decide)).lanes := by
          decide +kernel
        dsimp only
        rw [e]
    · rfl
  · show s.harts.set 1 { s.harts[1] with lanes := [] } = leaving.harts
    rw [h.2.2.2.2.2.1]
    apply Vector.ext
    intro i hi
    rw [Vector.getElem_set]
    split
    · next q => subst q; rfl
    · rfl

/-- Crews: a crew whose harts have both left, with a save area that can be written. -/
theorem test_hyps_switch_out :
    let s := leaving
    0 < 256 ∧ (s.crewAt 0).resident = some ⟨0, 0, 0, 0⟩ ∧ s.bothLeft 0 = true ∧ (s.crewAt 0).ending = false ∧ (s.crewAt 0).abandoned = false ∧
    s.copiesStill (2 * 0) = true ∧
    ∃ u w, inOrder [State.saveCopies 0 0, State.saveMatrix 0 0, State.saveChain 0 0, State.saveChutes 0 0, State.saveCursors 0 0,
        fun s => s.saveBytes 0 0 0 (s.saveHeader 0)] s = (u, true) ∧
      ((u.releaseLanes (2 * 0 + 1)).releaseCrew 0).saveBytes 0 0 0
        (leBytesOf 8 (0 / 4 * 2 ^ 24 + (u.hartAt (2 * 0 + 1)).lanes.length * 2 ^ 16 + 1)) = (w, true) := by
  refine ⟨by decide, by decide +kernel, by decide +kernel, by decide +kernel, by decide +kernel, by decide +kernel, ?_⟩
  obtain ⟨u, e, hu⟩ := save_steps leaving_open
  obtain ⟨w, f, _⟩ := area_save (s := (u.releaseLanes 1).releaseCrew 0) (area_release hu) 0 (leBytesOf 8 (0 / 4 * 2 ^ 24 + (u.hartAt (2 * 0 + 1)).lanes.length * 2 ^ 16 + 1)) (by simp)
  exact ⟨u, w, e, f⟩

/-! ### Resume -/

theorem area_hwRead {s : State} {rq : Req} (h0 : rq.ctx = 0) (h1 : rq.world = 0) (h2 : rq.sup = true)
    (ht : (s.coreAt rq.core).tlb = [⟨0, 0, 0x4000_0000, 0x2F⟩]) (hf : s.frameTag = []) (hp : s.poison = []) :
    ∀ (k va n : Nat) (acc : List Byte), va + n ≤ 0x20_0000 → ∃ b, State.hwRead rq k s va n acc = (s, .ok b) := by
  intro k
  induction k with
  | zero => intro va n acc _; exact ⟨acc, rfl⟩
  | succ k ih =>
    intro va n acc hb
    unfold State.hwRead
    by_cases he : n = 0
    · simp only [he, if_true]; exact ⟨acc, rfl⟩
    · rw [area_locate s rq va .read ht h0 h2 (by omega) (by decide)]
      have hm : (va + min n (64 - va % 64)) % 2 ^ 64 = va + min n (64 - va % 64) := by omega
      have r1 : s.readRefused 0 va (min n (64 - va % 64)) = false := by simp [State.readRefused, State.tagOf, hf, SMap.get]
      have r2 : s.poisoned va = false := by simp [State.poisoned, hp, SMap.get]
      have r3 : s.macBad va = false := by simp [State.macBad, State.tagOf, hf, SMap.get]
      have hw : s.hwLine rq va va (min n (64 - va % 64)) = (s, none) := by simp [State.hwLine, h1, r1, r2, r3]
      simp only [he, hw, hm]
      exact ih _ _ _ (by omega)

theorem area_reads {s : State} {rq : Req} (h0 : rq.ctx = 0) (h1 : rq.world = 0) (h2 : rq.sup = true)
    (ht : (s.coreAt rq.core).tlb = [⟨0, 0, 0x4000_0000, 0x2F⟩]) (hf : s.frameTag = []) (hp : s.poison = []) :
    ∀ parts : List (Nat × Nat), (∀ e ∈ parts, 0x10_0000 + e.1 + e.2 ≤ 0x20_0000) → ∃ bs, State.areaReads rq 0x10_0000 parts s = (s, some bs) := by
  intro parts
  induction parts with
  | nil => intro _; exact ⟨[], rfl⟩
  | cons e r ih =>
    intro h
    obtain ⟨bs, hb⟩ := ih fun x hx => h x (List.mem_cons_of_mem _ hx)
    have he := h e (List.mem_cons_self ..)
    obtain ⟨b, hr⟩ : ∃ b, s.areaRead rq 0x10_0000 e.1 e.2 = (s, .ok b) := by
      unfold State.areaRead
      rw [show (0x10_0000 + e.1) % 2 ^ 64 = 0x10_0000 + e.1 by omega]
      exact area_hwRead h0 h1 h2 ht hf hp _ _ e.2 [] (by omega)
    exact ⟨b :: bs, by unfold State.areaReads; simp only [hr, hb]⟩

/-- A crew of launch 0 that has been switched out of crew 3. -/
def parked0 : Parked :=
  { pid := 7, resident := ⟨0, 0, 0, 0⟩, die := 0, core := 0, at' := 0, clk := 0, crew := 3, launchid := 0, groupid := 0, spidx := 0, tidx := 0,
    msave := 0x10_0000, revoked := false, copies := [], feeders := [], srcs := [] }

/-- Crews: a parked crew that is served next, with a save area that can be read. -/
theorem test_hyps_resume :
    let s := { acc with launches := [{ launch 0 .running with places := [(0, 1, 1)] }], parked := [parked0] }
    0 / 32 = parked0.die ∧ 0 < 256 ∧ s.parkedAt 7 = some parked0 ∧ s.bestItem parked0.die = some (.parked 7, 0) ∧
    (∃ u parts, State.areaReads (s.crewReq 0 parked0.resident.ctx) parked0.msave.toNat areaParts s = (u, some parts) ∧ u.launches = s.launches) ∧
    ∃ l, s.launchAt parked0.resident.lid = some l ∧ l.st ≠ .ending := by
  refine ⟨by decide, by decide, by decide +kernel, by decide +kernel, ?_, _, rfl, by decide⟩
  obtain ⟨parts, e⟩ := area_reads (s := { acc with launches := [{ launch 0 .running with places := [(0, 1, 1)] }], parked := [parked0] })
    (rq := (acc.crewReq 0 0)) rfl (by decide +kernel) rfl rfl rfl rfl areaParts (by decide)
  exact ⟨_, parts, e, rfl⟩
end Sys2Proof.Tests
end

