-- ==== Sys2Proof/Tests/WVecMem.lean ====
section
/-! SUPPORT. Witnesses: states and operands that meet the hypotheses of the statements about vector memory, clause by clause. -/

namespace Sys2Proof.Tests
set_option Elab.async false
open Sys2Proof Sys2Proof.Machine Sys2Proof.Claims

/-- The first 128 bytes, and the state of a vector access before it: readable and writable, word by word. -/
theorem readable_of {s : State} {va n : Nat} (h1 : va % 0x1_0000 + n ≤ 0x1_0000) (h2 : placed s va .read va)
    (h3 : s.readRefused (myWorld s) va n = false) (h4 : ∀ l ∈ linesOf va n, s.poisoned (l * 64) = false ∧ s.macBad (l * 64) = false) :
    readable s va va n := ⟨h1, h2, h3, h4⟩
theorem writable_of {s : State} {va n : Nat} (h1 : va % 0x1_0000 + n ≤ 0x1_0000) (h2 : placed s va .write va)
    (h3 : s.readRefused (myWorld s) va n = false ∧ s.writeRefused (myWorld s) va n = false ∧ inCtxTab va = false ∧
      (∀ l ∈ linesOf va n, s.macBad (l * 64) = false) ∧ (∀ q ∈ s.queues, q.hit va n = false) ∧ ¬ (inPool va = true ∧ va ≤ va / 64 * 64 + 24 ∧ va / 64 * 64 + 32 ≤ va + n))
    (h4 : ∀ l ∈ linesOf va n, s.tagOf (l * 64) = 0 ∨ SMap.get 0 s.frameMajor (frameOf (l * 64)) + 2 ^ 16 < 2 ^ 48) :
    writable s va va n := ⟨h1, h2, h3, h4⟩

/-- The same at an address that comes from a register or an index. -/
theorem readable_at {s : State} {va n : Nat} (k : Nat) (e : va = k) (h : readable s k k n) : readable s va va n := e ▸ h
theorem writable_at {s : State} {va n : Nat} (k : Nat) (e : va = k) (h : writable s k k n) : writable s va va n := e ▸ h

/-- The execute hart with x3, x5 and x6 set, register v2 with 5 in its second word, and a compressed array and a descriptor in memory. -/
def vec : State :=
  let s := exe.mapMe fun h => ((h.setX 3 5 noTaint).setX 5 0x100 noTaint).setX 6 0x3FFF_FFFC noTaint
  { s.mapMe fun h => { h with v := h.v.set 2 (5 <<< 32) } with
    mem := [(0, 0x40), (0x40, 1), (0x50, 7), (0x101, 2), (0x10C, 3)] }
/-- The same with TAP6 elements. -/
def tap : State := vec.mapMe fun h => { h with vtype := 31 }

theorem vec_memOk : vec.memOk := ⟨by decide +kernel, fun m h => by cases h⟩
theorem tap_memOk : tap.memOk := ⟨by decide +kernel, fun m h => by cases h⟩

/-- The hypotheses of a vector load, with physical addresses as virtual ones (the definition of loads). -/
def loadsMeet (s : State) (sv sx : List (BitVec 5)) (chute : Option (BitVec 5)) (legal : Hart → Prop)
    (addr : State → Nat → Nat) (ok : State → Nat → Prop) : Prop :=
  let w := tagged (popped (memIssue s 0 sv sx) chute)
  let h := w.me
  vecReady s legal ∧ runLen w chute = some 4 ∧
    (∀ j, active h 0 4 j = true → ok w j ∧ (h.ew ≠ 6 → addr w j % (h.ew / 8) = 0) ∧
      readable w (elemByte h.ew (addr w j) j) (elemByte h.ew (addr w j) j) (elemLen h.ew j))

/-- VectorLoads: VLE of words and of TAP6 elements, VLSE with stride 0, VLXE, VLXB below its bound. -/
theorem test_hyps_vload :
    loadsMeet vec [] [0] none (fun _ => True) (fun w j => unitAt w.me 0 j) (fun _ _ => True) ∧
    loadsMeet tap [] [0] none (fun _ => True) (fun w j => unitAt w.me 0 j) (fun _ _ => True) ∧
    loadsMeet vec [] [0, 0] none (fun h => h.ew ≠ 6) (fun w j => strideAt w.me 0 0 j) (fun _ _ => True) ∧
    loadsMeet vec [4] [0] none (fun h => 1 ≤ h.sew ∧ h.sew ≤ 6) (fun w j => indexedAt w false 0 4 j) (fun w j => w.me.elemBad 4 w.me.ew j = false) ∧
    loadsMeet vec [4] [2, 2 + 1] none (fun h => 1 ≤ h.sew ∧ h.sew ≤ 6) (fun w j => indexedAt w false 2 4 j)
      (fun w j => w.me.elemBad 4 w.me.ew j = false ∧ indexAt w false 4 j < (w.me.xr (2 + 1)).toNat) := by
  refine ⟨?_, ?_, ?_, ?_, ?_⟩
  all_goals
    refine ⟨by unfold vecReady; decide +kernel, by decide +kernel, below ?_⟩
    intro j hj
    interval_cases j
  all_goals refine ⟨by decide +kernel, by decide +kernel, ?_⟩
  all_goals first
    | exact readable_at 0 (by decide +kernel) (readable_of (by decide +kernel) (placed_of rfl (by decide +kernel)) (by decide +kernel) (by decide +kernel))
    | exact readable_of (by decide +kernel) (placed_of rfl (by decide +kernel)) (by decide +kernel) (by decide +kernel)

/-- VectorLoads: VLXE with four indexes of 0 in a chute, put-fed and copy-fed. -/
theorem test_hyps_vload_chute (fed : Bool) :
    let s := exe.mapCrew 0 fun c => { c with chutes := c.chutes.set 1 { Chute.empty fed with entries := [⟨0, false, .put⟩, ⟨0, false, .put⟩] } }
    loadsMeet s [] [0] (some 1) (fun h => 1 ≤ h.sew ∧ h.sew ≤ 6) (fun w j => indexedAt w true 0 1 j) fun w j => chuteSound (srcChute w 1) w.me.ew (j - w.me.vst) := by
  cases fed
  all_goals
    refine ⟨by unfold vecReady; decide +kernel, by decide +kernel, below ?_⟩
    intro j hj
    interval_cases j
  all_goals
    exact ⟨by unfold chuteSound; decide +kernel, by decide +kernel, readable_at 0 (by decide +kernel)
      (readable_of (by decide +kernel) (placed_of rfl (by decide +kernel)) (by decide +kernel) (by decide +kernel))⟩

/-- VectorLoads: VLEFF whose second element has no translation; VLXB whose second index is the bound. -/
theorem test_hyps_limits :
    (let w := loadIssue vec 0 [] [6]
      let h := w.me
      vecReady vec (fun _ => True) ∧ h.ew ≠ 6 ∧ h.bl = 0 ∧ active h 0 h.vln 1 = true ∧ h.first < (if h.bl = 0 then 1 else 1 / h.bl * h.bl) ∧
      (∀ j, active h 0 1 j = true → unitAt h 6 j % (h.ew / 8) = 0 ∧ readable w (unitAt h 6 j) (unitAt h 6 j) (h.ew / 8)) ∧
      unitAt h 6 1 % (h.ew / 8) = 0 ∧ w.locate (w.reqFor w.cur) (unitAt h 6 1) .read = (w, .error 2)) ∧
    (let w := loadIssue vec 0 [2] [2, 3]
      let h := w.me
      vecReady vec (fun h => 1 ≤ h.sew ∧ h.sew ≤ 6) ∧ active h 0 h.vln 1 = true ∧
      (∀ j, active h 0 1 j = true → h.elemBad 2 h.ew j = false ∧ indexAt w false 2 j < (h.xr (2 + 1)).toNat ∧
        indexedAt w false 2 2 j % (h.ew / 8) = 0 ∧ readable w (indexedAt w false 2 2 j) (indexedAt w false 2 2 j) (h.ew / 8)) ∧
      h.elemBad 2 h.ew 1 = false ∧ (h.xr (2 + 1)).toNat ≤ indexAt w false 2 1) := by
  refine ⟨⟨by unfold vecReady; decide +kernel, by decide +kernel, by decide +kernel, by decide +kernel, by decide +kernel, below ?_,
    by decide +kernel, rfl⟩, ⟨by unfold vecReady; decide +kernel, by decide +kernel, below ?_, by decide +kernel, by decide +kernel⟩⟩
  · intro j hj
    interval_cases j
    exact ⟨by decide +kernel, readable_of (by decide +kernel) (placed_of rfl (by decide +kernel)) (by decide +kernel) (by decide +kernel)⟩
  · intro j hj
    interval_cases j
    exact ⟨by decide +kernel, by decide +kernel, by decide +kernel,
      readable_at 0 (by decide +kernel) (readable_of (by decide +kernel) (placed_of rfl (by decide +kernel)) (by decide +kernel) (by decide +kernel))⟩

/-- The hypotheses of a vector store (the definition of stores). -/
def storesMeet (s : State) (sv sx : List (BitVec 5)) (chute : Option (BitVec 5)) (legal : Hart → Prop)
    (addr : State → Nat → Nat) (ok : State → Nat → Prop) : Prop :=
  let w := memIssue s 0 sv sx
  let h := w.me
  let b := h.ew / 8
  s.memOk ∧ vecReady s legal ∧ h.ew ≠ 6 ∧ runLen w chute = some 4 ∧ (chute ≠ none → h.tags.length < 64) ∧
    (∀ j, active h 0 4 j = true → ok w j ∧ addr w j % b = 0 ∧ writable w (addr w j) (addr w j) b)

/-- VectorStores: VSE and VSSE of a register, VSXE, and VSE of TAP6 elements. -/
theorem test_hyps_vstore :
    storesMeet vec [2] [0] none (fun _ => True) (fun w j => unitAt w.me 0 j) (fun w j => w.me.elemBad 2 w.me.ew j = false) ∧
    storesMeet vec [2] [0, 0] none (fun h => h.ew ≠ 6) (fun w j => strideAt w.me 0 0 j) (fun w j => w.me.elemBad 2 w.me.ew j = false) ∧
    storesMeet vec [2, 4] [0] none (fun h => 1 ≤ h.sew ∧ h.sew ≤ 6) (fun w j => indexedAt w false 0 4 j)
      (fun w j => w.me.elemBad 2 w.me.ew j = false ∧ w.me.elemBad 4 w.me.ew j = false) ∧
    (let w := memIssue tap 0 [2] [0]
      let h := w.me
      tap.memOk ∧ vecReady tap (fun _ => True) ∧ h.ew = 6 ∧ runLen w none = some 4 ∧
      (∀ j, active h 0 4 j = true → w.me.elemBad 2 w.me.ew j = false ∧
        ∀ b, (b = 6 * j / 8 ∨ b = (6 * j + 5) / 8) → writable w (((h.xr 0).toNat + b) % 2 ^ 64) (0 + b) 1)) := by
  refine ⟨⟨vec_memOk, ?_, ?_, ?_, fun h => absurd rfl h, below ?_⟩, ⟨vec_memOk, ?_, ?_, ?_, fun h => absurd rfl h, below ?_⟩,
    ⟨vec_memOk, ?_, ?_, ?_, fun h => absurd rfl h, below ?_⟩, tap_memOk, ?_, ?_, ?_, below ?_⟩
  on_goal 16 =>
    intro j hj
    refine ⟨by interval_cases j <;> decide +kernel, fun b hb => ?_⟩
    have hb : b < 3 := by omega
    clear hj
    interval_cases b
    all_goals exact writable_of (by decide +kernel) (placed_of rfl (by decide +kernel)) (by decide +kernel) (by decide +kernel)
  all_goals first
    | (unfold vecReady; decide +kernel)
    | decide +kernel
    | (intro j hj
       interval_cases j
       all_goals refine ⟨by decide +kernel, by decide +kernel, ?_⟩
       all_goals first
         | exact writable_at 0 (by decide +kernel) (writable_of (by decide +kernel) (placed_of rfl (by decide +kernel)) (by decide +kernel) (by decide +kernel))
         | exact writable_of (by decide +kernel) (placed_of rfl (by decide +kernel)) (by decide +kernel) (by decide +kernel))

/-- ScatterAdd: four adds to one word. -/
theorem test_hyps_scatter :
    let w := memIssue vec 0 [2, 4] [0]
    let h := w.me
    vec.memOk ∧ vecReady vec (fun h => 2 ≤ h.sew ∧ h.sew ≤ 6) ∧ runLen w none = some 4 ∧
    (∀ j, active h 0 4 j = true → h.elemBad 2 h.ew j = false ∧ h.elemBad 4 h.ew j = false ∧
      indexedAt w false 0 4 j = 0 ∧ writable w 0 0 (h.ew / 8) ∧ 0 % (h.ew / 8) = 0 ∧ soundLines w 0 (h.ew / 8)) := by
  refine ⟨vec_memOk, by unfold vecReady; decide +kernel, by decide +kernel, below ?_⟩
  intro j hj
  interval_cases j
  all_goals exact ⟨by decide +kernel, by decide +kernel, by decide +kernel, writable_of (by decide +kernel) (placed_of rfl (by decide +kernel)) (by decide +kernel) (by decide +kernel),
    by decide +kernel, by unfold soundLines; decide +kernel⟩

/-- CompressedArrays: VLCB of four elements of which one has its bit; VSCB of four of which one is not zero. -/
theorem test_hyps_chunks :
    (let w := loadIssue vec 0 [] [0, 0]
      let h := w.me
      vecReady vec (fun h => h.ew ≠ 6) ∧ (h.xr 0).toNat % 4 = 0 ∧
      (∀ j, active h 0 h.vln j = true → readable w 0 0 4 ∧ viewed w false 0 4 % 16 = 0 ∧ viewed w false 0 4 = 0x40 ∧ readable w 0x40 0x40 16 ∧
        ((viewed w false 0x40 16).testBit j = true → j = 0 ∧ readable w 0x50 0x50 4))) ∧
    (let w := memIssue vec 0 [2] [0, 0]
      let h := w.me
      vec.memOk ∧ vecReady vec (fun h => h.ew ≠ 6 ∧ h.vst % 128 = 0) ∧ h.vln ≤ h.vst + 128 ∧ (h.xr 0).toNat % 128 = 0 ∧
      (∀ j, h.vst ≤ j → j < h.vln → h.elemBad 2 h.ew j = false) ∧
      (nonZero ((List.range (h.vln - h.vst)).map fun j => h.elem 2 h.ew (h.vst + j))).length = 1 ∧
      readable w 0 0 4 ∧ viewed w false 0 4 = 0x40 ∧ (0 + 0x40) % 2 ^ 64 % 16 = 0 ∧ ((0 + 0x40) % 2 ^ 64 + 16) % (h.ew / 8) = 0 ∧ writable w 0x40 0x40 20 ∧ writable w 4 4 4 ∧ apart 0x40 20 4 4) := by
  refine ⟨⟨by unfold vecReady; decide +kernel, by decide +kernel, below ?_⟩, vec_memOk, by unfold vecReady; decide +kernel, by decide +kernel,
    by decide +kernel, fun j _ hj => ?_, by decide +kernel, readable_of (by decide +kernel) (placed_of rfl (by decide +kernel)) (by decide +kernel) (by decide +kernel), by decide +kernel, by decide, by decide +kernel,
    writable_of (by decide +kernel) (placed_of rfl (by decide +kernel)) (by decide +kernel) (by decide +kernel), writable_of (by decide +kernel) (placed_of rfl (by decide +kernel)) (by decide +kernel) (by decide +kernel),
    by unfold apart; decide⟩
  · intro j hj
    refine ⟨readable_of (by decide +kernel) (placed_of rfl (by decide +kernel)) (by decide +kernel) (by decide +kernel), by decide +kernel, by decide +kernel,
      readable_of (by decide +kernel) (placed_of rfl (by decide +kernel)) (by decide +kernel) (by decide +kernel), fun h => ⟨?_, ?_⟩⟩
    · have : j < 4 := hj
      revert h
      interval_cases j <;> decide +kernel
    · exact readable_of (by decide +kernel) (placed_of rfl (by decide +kernel)) (by decide +kernel) (by decide +kernel)
  · have : j < 4 := hj
    interval_cases j <;> decide +kernel

/-- CompressedArrays: VCAPP of four elements to an array at 0x200 with room for three. -/
theorem test_hyps_append :
    let w := memIssue vec 0 [2] [5]
    let h := w.me
    let act := (List.range h.vln).filter (active h 0 h.vln)
    vec.memOk ∧ vecReady vec (fun h => h.ew ≠ 6) ∧ act ≠ [] ∧ (∀ j ∈ act, h.elemBad 2 h.ew j = false) ∧ (h.xr 5).toNat % 16 = 0 ∧
    writable w (h.xr 5).toNat 0x100 16 ∧ soundLines w 0x100 16 ∧ w.homeNat 0x100 8 = 0x200 ∧ 0x200 % (h.ew / 8) = 0 ∧ w.homeNat (0x100 + 8) 4 = 0 ∧
    min act.length (w.homeNat (0x100 + 12) 4 - 0) = 3 ∧ (∀ j, j < 3 → writable w (0x200 + 4 * j) (0x200 + 4 * j) 4 ∧ apart (0x200 + 4 * j) 4 0x100 16) ∧
    (∀ j l, j < l → l < 3 → apart (0x200 + 4 * j) 4 (0x200 + 4 * l) 4) := by
  refine ⟨vec_memOk, by unfold vecReady; decide +kernel, by decide +kernel, by decide +kernel, by decide +kernel,
    writable_of (by decide +kernel) (placed_of rfl (by decide +kernel)) (by decide +kernel) (by decide +kernel), by unfold soundLines; decide +kernel, by decide +kernel,
    by decide +kernel, by decide +kernel, by decide +kernel, fun j hj => ?_, fun j l _ _ => by unfold apart; omega⟩
  interval_cases j
  all_goals exact ⟨writable_of (by decide +kernel) (placed_of rfl (by decide +kernel)) (by decide +kernel) (by decide +kernel), by unfold apart; decide⟩

/-- One pair with the key `key`; the first bucket of its table of 16 holds `old`. -/
def hashed (key : BitVec 16384) (old : SMap Byte) : State :=
  { (exe.mapMe fun h => h.setX 5 0x100 noTaint).mapMe fun h => { h with vl := 1, v := h.v.set 2 key } with mem := [(0x104, 4), (0x105, 1)] ++ old }

/-- HashAccumulate: key 0 found in the table; its other cases at a key of all ones and at an empty bucket. -/
theorem test_hyps_hash :
    let s := hashed 0 []
    let w := memIssue s 0 [4, 2] [5]
    let h := w.me
    let desc := viewed w false 0x100 16
    let lo := desc % 2 ^ 64
    (s.memOk ∧ vecReady s (fun h => h.sew = 2 ∨ h.sew = 3 ∨ h.sew = 6) ∧ runLen w none = some 1 ∧ (List.range 1).filter (active h 0 1) = [0] ∧
      h.elemBad 4 h.ew 0 = false ∧ h.elemBad 2 h.ew 0 = false ∧ (h.xr 5).toNat % 16 = 0 ∧ writable w (h.xr 5).toNat 0x100 16 ∧
      readable w (h.xr 5).toNat 0x100 16 ∧ bits lo 31 0 = 0 ∧ bits lo 36 32 = 4 ∧ bits lo 39 37 = 0 ∧ bits lo 46 40 = 1 ∧ bits lo 63 47 = 0 ∧
      desc / 2 ^ 96 = 0 ∧ apart 0x100 16 (scratchPa (coreOf s.cur) 0) (2 ^ 4 * (2 * 4)) ∧
      (∀ a, scratchPa (coreOf s.cur) 0 ≤ a → a < scratchPa (coreOf s.cur) 0 + 2 ^ 4 * (2 * 4) → w.tagOf a = myWorld w) ∧
      (∀ p, soundLines w (scratchPa (coreOf s.cur) 0 + (hashHome 0 4 + p) % 2 ^ 4 * (2 * 4)) (2 * 4) ∧
        steady w (scratchPa (coreOf s.cur) 0 + (hashHome 0 4 + p) % 2 ^ 4 * (2 * 4)) (2 * 4)) ∧ h.ew = 32 ∧
      w.homeNat (scratchPa (coreOf s.cur) 0 + (hashHome 0 4 + 0) % 2 ^ 4 * (2 * 4)) 4 = 0) ∧
    (indexAt (memIssue (hashed 0xFFFF_FFFF []) 0 [4, 2] [5]) false 2 0 = 2 ^ 32 - 1) ∧
    (let e := hashed 0 [(0x204_0000_0000, 0xFF), (0x204_0000_0001, 0xFF), (0x204_0000_0002, 0xFF), (0x204_0000_0003, 0xFF)]
     indexAt (memIssue e 0 [4, 2] [5]) false 2 0 = 0 ∧ (memIssue e 0 [4, 2] [5]).homeNat (scratchPa 0 0 + (hashHome 0 4 + 0) % 2 ^ 4 * (2 * 4)) 4 = 2 ^ 32 - 1) := by
  have lines : ∀ k, k < 2 ^ 4 → ∀ l ∈ linesOf (scratchPa (coreOf (hashed 0 []).cur) 0 + k * (2 * 4)) (2 * 4),
      (memIssue (hashed 0 []) 0 [4, 2] [5]).poisoned (l * 64) = false ∧ (memIssue (hashed 0 []) 0 [4, 2] [5]).macBad (l * 64) = false := by
    decide +kernel
  have tags : (memIssue (hashed 0 []) 0 [4, 2] [5]).frameTag = [] := by decide +kernel
  have tag0 (a : Nat) : (memIssue (hashed 0 []) 0 [4, 2] [5]).tagOf a = 0 := by unfold State.tagOf; rw [tags]; rfl
  refine ⟨⟨⟨by decide +kernel, fun m h => by cases h⟩, by unfold vecReady; decide +kernel, by decide +kernel, by decide +kernel, by decide +kernel, by decide +kernel,
    by decide +kernel, writable_of (by decide +kernel) (placed_of rfl (by decide +kernel)) (by decide +kernel) (by decide +kernel),
    readable_of (by decide +kernel) (placed_of rfl (by decide +kernel)) (by decide +kernel) (by decide +kernel),
    by decide +kernel, by decide +kernel, by decide +kernel, by decide +kernel, by decide +kernel, by decide +kernel, by unfold apart; decide +kernel,
    fun a _ _ => tag0 a, fun p => ⟨lines _ (Nat.mod_lt _ (by decide)), fun l _ => .inl (tag0 _)⟩,
    by decide +kernel, by decide +kernel⟩, by decide +kernel, by decide +kernel⟩

/-- VectorChutes: four words to a chute with room; four from one with two entries; a copy-fed chute. -/
theorem test_hyps_vchute :
    (let w := memIssue exe 0 [2] []
      let h := w.me
      vecReady exe (fun _ => True) ∧ (myChute exe 1).copyFed = false ∧
      (∀ j ∈ (List.range h.vln).filter (active h 0 h.vln), h.elemBad 2 h.ew j = false) ∧
      (((List.range h.vln).filter (active h 0 h.vln)).length + 64 / h.ew - 1) / (64 / h.ew) ≤ (myChute exe 1).free) ∧
    runLen (atIssue (holding exe [⟨7, false, .put⟩, ⟨8, false, .put⟩])) (chuteFor 3 1) = some 4 ∧
    (∀ j, j < 4 → secondSound (atIssue (holding exe [⟨7, false, .put⟩, ⟨8, false, .put⟩])) 3 1 j) ∧
    (myChute (exe.mapCrew 0 fun c => { c with chutes := c.chutes.set 1 (Chute.empty true) }) 1).copyFed = true := by
  unfold vecReady secondSound chuteSound; decide +kernel

end Sys2Proof.Tests
end

