-- ==== Sys2Proof/Tests/WVector.lean ====
section
/-! SUPPORT. Witnesses: states and operands that meet the hypotheses of the statements about vector arithmetic, clause by clause. -/

namespace Sys2Proof.Tests
set_option Elab.async false
open Sys2Proof Sys2Proof.Machine Sys2Proof.Claims

/-- The hypotheses of an element-wise instruction (the definition of elementwise). -/
def elementsMeet (s : State) (ok : BitVec 2) (km : BitVec 3) (src : BitVec 5) (legal : Hart → Prop)
    (reads : Hart → Nat → List (BitVec 5 × Nat × Nat)) (readsB : Hart → Nat → Bool) (n : Nat) : Prop :=
  let u := atIssue s
  let h := u.me
  vecReady s legal ∧ runLen u (chuteFor ok src) = some n ∧
    (∀ j, active h km n j = true → (∀ e ∈ reads h j, h.elemBad e.1 e.2.1 e.2.2 = false) ∧ (readsB h j = true → secondSound u ok src j))

/-- VectorInteger: two registers, masked by k0; and a chute of two entries. -/
theorem test_hyps_integer :
    elementsMeet exe 0 0 3 (fun h => h.sew ≤ 3) (fun h j => [(2, h.ew, j)]) (fun _ _ => true) 4 ∧
    elementsMeet (holding exe [⟨7, false, .put⟩, ⟨8, false, .put⟩]) 3 0 1 (fun h => h.sew ≤ 3) (fun h j => [(2, h.ew, j)]) (fun _ _ => true) 4 := by
  refine ⟨⟨?_, by decide +kernel, below ?_⟩, ⟨?_, by decide +kernel, below ?_⟩⟩
  all_goals (first | unfold vecReady | unfold secondSound chuteSound); decide +kernel

/-- VectorMoves: VMACC, VMERGE under k1 (all clear), VMV of an immediate, VID. -/
theorem test_hyps_moves :
    elementsMeet exe 1 0 3 (fun h => h.sew ≤ 3) (fun h j => [(2, h.ew, j), (4, h.ew, j)]) (fun _ _ => true) 4 ∧
    elementsMeet exe 0 0 3 (fun _ => True) (fun h j => if ((1 : BitVec 3) == 0 || (h.kr 1).getLsbD j) then [] else [(2, h.ew, j)])
      (fun h j => (1 : BitVec 3) == 0 || (h.kr 1).getLsbD j) 4 ∧
    elementsMeet exe 2 0 3 (fun _ => True) (fun _ _ => []) (fun _ _ => true) 4 ∧
    elementsMeet exe 2 0 0 (fun h => h.sew ≤ 3) (fun _ _ => []) (fun _ _ => false) 4 := by
  refine ⟨⟨?_, by decide +kernel, below ?_⟩, ⟨?_, by decide +kernel, below ?_⟩, ⟨?_, by decide +kernel, below ?_⟩, ⟨?_, by decide +kernel, below ?_⟩⟩
  all_goals (first | unfold vecReady | unfold secondSound chuteSound); decide +kernel

/-- VectorCompare, VectorFloat: integer and float elements. -/
theorem test_hyps_float :
    elementsMeet exe 0 0 3 (fun h => h.sew ≤ 3) (fun h j => [(2, h.ew, j)]) (fun _ _ => true) 4 ∧
    elementsMeet flt 0 0 3 (floatSew false) (fun h j => [(2, h.ew, j)]) (fun _ _ => true) 4 ∧
    elementsMeet flt 0 0 3 (floatSew true) (fun h j => [(2, h.ew, j), (4, h.ew, j)]) (fun _ _ => true) 4 ∧
    elementsMeet flt 0 0 3 (floatSew true) (fun _ _ => []) (fun _ _ => true) 4 := by
  refine ⟨⟨?_, by decide +kernel, below ?_⟩, ⟨?_, by decide +kernel, below ?_⟩, ⟨?_, by decide +kernel, below ?_⟩, ⟨?_, by decide +kernel, below ?_⟩⟩
  all_goals (first | unfold vecReady floatSew | unfold vecReady | unfold secondSound chuteSound); decide +kernel

/-- VectorConvert: BF16 to FP32 and back, and blocks of 16 with their scales. -/
theorem test_hyps_convert :
    ((∃ val, narrow flt.me.sew 4 = some (16, val)) ∧
      elementsMeet flt 2 0 0 (fun _ => True) (fun _ j => [(2, 16, j)]) (fun _ _ => false) 4) ∧
    elementsMeet flt 0 0 3 (fun h => (4 : BitVec 5).toNat % 8 = 7 ∨ h.frm ≤ 4) (fun _ _ => []) (fun _ _ => true) 4 ∧
    elementsMeet blk 2 0 0 (fun h => floatSew false h ∧ h.bl ≠ 0) (fun h j => [(2, (nfOf (vtNf h.vt)).width, j), (5, 8, j / h.bl)])
      (fun _ _ => false) 16 ∧
    (blk.me.bl ≠ 0 ∧ (atIssue blk).me.vln % blk.me.bl = 0 ∧ runLen (atIssue blk) (chuteFor 0 3) = some 16 ∧
      elementsMeet blk 0 0 3 (floatSew false) (fun _ _ => []) (fun _ _ => true) 16) := by
  refine ⟨⟨⟨_, rfl⟩, ⟨?_, by decide +kernel, below ?_⟩⟩, ⟨?_, by decide +kernel, below ?_⟩, ⟨?_, by decide +kernel, below ?_⟩,
    by decide +kernel, by decide +kernel, by decide +kernel, ⟨?_, by decide +kernel, below ?_⟩⟩
  all_goals (first | unfold vecReady floatSew | unfold vecReady | unfold secondSound chuteSound); decide +kernel

/-- MaskForms: at an integer SEW, with an element left. -/
theorem test_hyps_mask :
    elementsMeet exe 2 0 0 (fun _ => True) (fun _ _ => []) (fun _ _ => false) 4 ∧
    elementsMeet exe 2 0 0 (fun _ => True) (fun h j => [(2, h.ew, j)]) (fun _ _ => false) 4 ∧
    elementsMeet exe 2 0 0 (fun h => h.sew ≤ 3) (fun _ _ => []) (fun _ _ => false) 4 ∧ exe.cur.val % 2 = 1 ∧ exe.me.vstate ≠ 0 := by
  refine ⟨⟨?_, by decide +kernel, below ?_⟩, ⟨?_, by decide +kernel, below ?_⟩, ⟨?_, by decide +kernel, below ?_⟩, rfl, by decide +kernel⟩
  all_goals (first | unfold vecReady | unfold secondSound chuteSound); decide +kernel

/-- VectorConfiguration: x0 names vtype 0; one lane group is held. -/
theorem test_hyps_vsetvl : exe.cur.val % 2 = 1 ∧ exe.me.vstate ≠ 0 ∧ (exe.me.xr 0).toNat < 2 ^ 11 ∧ (atIssue exe).me.lanes.length ≤ 16 := by
  decide +kernel

/-- Permutations: no element poisoned; a chute that gives the operand of a slide. -/
theorem test_hyps_permute :
    let s := holding exe [⟨1, false, .put⟩]
    let u := atIssue s
    vecReady s (fun h => h.sew ≤ 3 ∧ h.vst = 0) ∧ vecReady s (fun _ => True) ∧
    (0 < 64 / u.me.ew * (srcChute u 1).entries.length - (srcChute u 1).head ∧ chuteSound (srcChute u 1) u.me.ew 0) ∧
    (∀ j, j < u.me.vln → withinBad u.me 2 j = false ∧ withinBad u.me 2 (j + 1) = false ∧ withinBad u.me 2 (j - 1) = false ∧
      u.me.elemBad 3 u.me.ew j = false ∧ u.me.elemBad 2 u.me.ew (bitsBelow u.me 1 j) = false) ∧ u.me.elemBad 2 u.me.ew 0 = false := by
  unfold vecReady chuteSound; decide +kernel

/-- ReductionsAndSegments: vstart 0, no element poisoned, integer and float. -/
theorem test_hyps_reduce :
    (vecReady exe (fun h => h.sew ≤ 3 ∧ h.vst = 0) ∧ (atIssue exe).me.elemBad 3 (atIssue exe).me.ew 0 = false ∧
      ∀ j, j < (atIssue exe).me.vln → (atIssue exe).me.elemBad 2 (atIssue exe).me.ew j = false) ∧
    (vecReady flt (fun h => floatSew true h ∧ h.vst = 0) ∧ vecReady flt (fun h => (h.sew ≤ 3 ∨ floatSew true h) ∧ h.vst = 0) ∧
      vecReady flt (fun h => h.sew ≤ 6 ∧ h.vst = 0) ∧ ∀ j, j < (atIssue flt).me.vln → (atIssue flt).me.elemBad 2 (atIssue flt).me.ew j = false) := by
  unfold vecReady floatSew; decide +kernel

/-- VectorStops: the access hart; vstate Off; a float SEW; vstart at vl; and the third of four elements poisoned. -/
theorem test_hyps_stops :
    acc.cur.val % 2 = 0 ∧ ((exe.mapMe fun h => { h with vstate := 0 }).me.vstate = 0 ∧ exe.cur.val % 2 = 1) ∧ ¬ flt.me.sew ≤ 3 ∧
    (atIssue (exe.mapMe fun h => { h with vl := 0 })).me.vln ≤ (atIssue (exe.mapMe fun h => { h with vl := 0 })).me.vst ∧
    (let s := exe.mapMe fun h => { h with vpoison := h.vpoison.set 2 0x100 }
      let h := (atIssue s).me
      vecReady s (fun h => h.sew ≤ 3) ∧ active h 0 h.vln 2 = true ∧
      (∀ k, k < 2 → active h 0 h.vln k = true → h.elemBad 2 h.ew k = false ∧ secondSound (atIssue s) 0 3 k) ∧ h.elemBad 2 h.ew 2 = true) := by
  unfold vecReady secondSound chuteSound; decide +kernel

end Sys2Proof.Tests
end

