-- ==== Sys2Proof/Tests/WWhole.lean ====
section
/-! SUPPORT. Witnesses: states and operands that meet the hypotheses of the statements about the whole machine. -/

namespace Sys2Proof.Tests
set_option Elab.async false
open Sys2Proof Sys2Proof.Machine Sys2Proof.Claims

theorem reset_memOk : State.reset.memOk := ⟨rfl, fun m h => by cases h⟩
theorem reset_zeroOk : State.reset.zeroOk := by
  refine ⟨fun h => ?_, fun m h => by cases h⟩
  show (Vector.replicate 512 Hart.reset)[h].x[0] = 0
  rw [Fin.getElem_fin, Vector.getElem_replicate]
  rfl

/-- EncodeDecode: ADDI is well formed and has an encoding; so has a matrix instruction. -/
theorem test_hyps_encode : wellFormed (.addi 5 6 0x7FD) = true ∧ encode (.addi 5 6 0x7FD) = some (32, 0xFFA0C501) ∧
    wellFormed .mswap = true ∧ encode .mswap = some (64, 0xB) := by decide +kernel

/-- A state whose next step is the issue of ADDI x5, x0, 7 by the access hart of crew 0. -/
def placed : State := State.reset.withFetchWord 32 0x00E00501

theorem next_of {o : Host.Outcome State Fault Refusal} {p : State → Bool} (h : (match o with | .next t => p t | _ => false) = true) :
    ∃ t, o = .next t ∧ p t = true := by
  cases o with
  | next t => exact ⟨t, rfl, h⟩
  | fault f => cases h
  | refused r => cases h

/-- StepKeepsMemory and StepKeepsZero: a state that takes a step. -/
theorem test_hyps_step : placed.memOk ∧ placed.zeroOk ∧ ∃ t, step placed = .next t := by
  refine ⟨⟨?_, fun m h => by cases h⟩, ⟨fun h => ?_, fun m h => by cases h⟩, ?_⟩
  · exact SMap.wf_setRange _ _ (SMap.wf_setRange _ _ (SMap.wf_setRange _ _ (SMap.wf_setRange _ _ rfl)))
  · show (State.reset.harts.set 0 _ (by decide))[h].x[0] = 0
    rw [Fin.getElem_fin, Vector.getElem_set]
    split
    · exact reset_zeroOk.1 0
    · exact reset_zeroOk.1 h
  obtain ⟨t, h, _⟩ := next_of (o := step placed) (p := fun _ => true) (by decide +kernel)
  exact ⟨t, h⟩

/-- StepRunsDecoded: the first ready hart in the order of its pipeline fetches and runs a decoded instruction; an instruction that retires. -/
theorem test_hyps_runs :
    ∃ (r : List Act) (pre post : List Nat) (b : List Byte) (i : Instr) (rest : List Byte) (v t : State),
      let q := { placed with agenda := r }
      let u := q.opportunity 0
      let w := { v with ir := BitVec.ofNat 64 (leNat b) }
      0 < 512 ∧ placed.off = false ∧ placed.agenda = ⟨0, none, 0, 0⟩ :: r ∧ q.issuing 0 = true ∧
      (crewOrder (0 / 8) (placed.coreAt (0 / 8)).accessPtr).map (fun n => 2 * n + 0 % 2) = pre ++ 0 :: post ∧ (∀ j ∈ pre, q.attempt 0 j = none) ∧
      (u.me.sup = true ∨ u.me.pc ≠ endAddress) ∧ u.fetch = (v, .ok b) ∧ decode b = .ok (i, rest) ∧
      (w.mapMe fun x => { x with window := false, remote := x.remote.filter fun e => e.ticket != 0 }).dueTrap w.cur = none ∧ exec i w = .next t ∧
      t.hartAt 0 ≠ placed.hartAt 0 ∧ t.me.instret ≠ w.me.instret ∧ t.me.stalled = none := by
  obtain ⟨v, b, e, h⟩ := then_of (r := (({ placed with agenda := [] }).opportunity 0).fetch)
    (p := fun v b => match decode b with
      | .ok (i, _) =>
        let w := { v with ir := BitVec.ofNat 64 (leNat b) }
        ((w.mapMe fun x => { x with window := false, remote := x.remote.filter fun e => e.ticket != 0 }).dueTrap w.cur).isNone &&
          (match exec i w with
            | .next t => decide (t.hartAt 0 ≠ placed.hartAt 0) && (decide (t.me.instret ≠ w.me.instret) && decide (t.me.stalled = none))
            | _ => false)
      | .error _ => false) (by decide +kernel)
  cases hd : decode b with
  | error x => rw [hd] at h; cases h
  | ok p =>
    obtain ⟨i, rest⟩ := p
    rw [hd] at h
    simp only [Bool.and_eq_true, Option.isNone_iff_eq_none] at h
    obtain ⟨h1, h2⟩ := h
    obtain ⟨t, ht, h3⟩ := next_of (o := exec i { v with ir := BitVec.ofNat 64 (leNat b) })
      (p := fun t => decide (t.hartAt 0 ≠ placed.hartAt 0) &&
        (decide (t.me.instret ≠ ({ v with ir := BitVec.ofNat 64 (leNat b) } : State).me.instret) && decide (t.me.stalled = none))) h2
    simp only [Bool.and_eq_true, decide_eq_true_eq] at h3
    exact ⟨[], [], [2, 4, 6], b, i, rest, v, t, by decide, rfl, rfl, by decide +kernel, by decide +kernel, (fun j hj => by cases hj), .inr (by decide +kernel),
      e, hd, h1, ht, h3.1, h3.2.1, h3.2.2⟩

/-- The access hart with its first gigabyte mapped for fetching. -/
def fetching : State := acc.mapCore 0 fun c => { c with tlb := [⟨0, 0, 0x4000_0000, 0x33⟩] }
/-- StepRunsDecoded: bytes that can be fetched at the pc. -/
theorem test_hyps_fetched :
    let s := fetching
    let at' (k : Nat) : List Byte := s.viewBytes (hartView s.cur) (.hart s.cur false) (0 + k) 2
    s.me.pc.toNat % 2 = 0 ∧ 2 = classLength (leNat ((at' 0).take 1)) ∧ s.me.pc.toNat % 0x1_0000 + 2 ≤ 0x1_0000 ∧ s.writes = [] ∧
    (∀ k, k < 2 → s.locate (s.reqFor s.cur) (s.me.pc.toNat + k) .fetch = (s, .ok (.local (0 + k)))) ∧
    s.readRefused (myWorld s) 0 2 = false ∧ soundLines s 0 2 := by
  refine ⟨by decide +kernel, by decide +kernel, by decide +kernel, rfl, ?_, by decide +kernel, ?_⟩
  · intro k hk
    have : k = 0 ∨ k = 1 := by omega
    rcases this with rfl | rfl
    · exact Prod.ext rfl (by rfl)
    · exact Prod.ext rfl (by rfl)
  · unfold soundLines; decide +kernel

/-- UserModeConfined: an instruction in user mode that completes. -/
theorem test_hyps_user : (encode (.addi 5 6 1)).isSome = true ∧ acc.me.sup = false ∧ ∃ t, exec (.addi 5 6 1) acc = .next t := by
  refine ⟨by decide +kernel, by decide +kernel, ?_⟩
  obtain ⟨t, h, _⟩ := next_of (o := exec (.addi 5 6 1) acc) (p := fun _ => true) (by decide +kernel)
  exact ⟨t, h⟩
end Sys2Proof.Tests
end

section
/-! PROOFS. Scalar arithmetic, constants and branches (06_scalar R122, R123, R124, R126): what the shared operations of the scalar
family leave, the values of the forms, their words, and the words that are reserved. -/

namespace Sys2Proof.Proofs.Scalar
open Sys2Proof.Machine Sys2Proof.Claims

/-! ### The shared operations, and an instruction that is one of them -/

/-- Writing a register and retiring is what `scalarAfter` says. -/
theorem setX_retire (h : Hart) (rd : BitVec 5) (v : Word) (t : Taint) (len : Nat) :
    (h.setX rd v t).retire len = scalarAfter h rd v t (h.pc + BitVec.ofNat 64 len) := by
  simp [Hart.retire, scalarAfter]

theorem settle_opImm (len : Nat) (f : Word → Word) (rd rs1 : BitVec 5) (s : State) : settle (opImm len f rd rs1) s =
    .next (s.mapMe fun h => scalarAfter h rd (f (h.xr rs1)) (named h [rs1]) (h.pc + BitVec.ofNat 64 len)) := by
  rw [settle_ok (opImm_run len f rd rs1 s)]
  simp only [setX_retire]
  rfl
theorem settle_opReg (len : Nat) (f : Word → Word → Word) (rd rs1 rs2 : BitVec 5) (s : State) : settle (opReg len f rd rs1 rs2) s =
    .next (s.mapMe fun h =>
      scalarAfter h rd (f (h.xr rs1) (h.xr rs2)) (named h [rs1, rs2]) (h.pc + BitVec.ofNat 64 len)) := by
  rw [settle_ok (opReg_run len f rd rs1 rs2 s)]
  simp only [setX_retire]
  rfl
theorem settle_branch (len : Nat) (c : Word → Word → Bool) (rs1 rs2 : BitVec 5) (off : Word) (s : State) :
    settle (branch len c rs1 rs2 off) s =
    .next (s.mapMe fun h =>
      scalarAfter h 0 0 noTaint (if c (h.xr rs1) (h.xr rs2) then h.pc + off else h.pc + BitVec.ofNat 64 len)) := by
  rw [settle_ok (branch_run len c rs1 rs2 off s)]
  congr 2
  funext h
  split <;> rfl
/-- A constant written with an empty taint (R124). -/
theorem settle_writeX (len : Nat) (rd : BitVec 5) (v : Hart → Word) (s : State) :
    settle (do writeX rd (v (← getHart)) noTaint; retire len) s =
    .next (s.mapMe fun h => scalarAfter h rd (v h) noTaint (h.pc + BitVec.ofNat 64 len)) := by
  have run : (do writeX rd (v (← getHart)) noTaint; retire len : M Unit) s =
      .ok () (s.mapMe fun h => (h.setX rd (v h) noTaint).retire len) := by
    simp [State.me, State.mapMe]
  rw [settle_ok run]
  simp only [setX_retire]

variable {i : Instr} {rd rs1 rs2 : BitVec 5} {s : State}

theorem exec_of_opImm (len : Nat) {f : Word → Word} {v : Hart → Word} (hi : exec i s = settle (opImm len f rd rs1) s)
    (hv : ∀ h : Hart, f (h.xr rs1) = v h) :
    exec i s = .next (s.mapMe fun h => scalarAfter h rd (v h) (named h [rs1]) (h.pc + BitVec.ofNat 64 len)) := by
  rw [hi, settle_opImm]
  simp only [hv]
theorem exec_of_opReg (len : Nat) {f : Word → Word → Word} {v : Hart → Word} (hi : exec i s = settle (opReg len f rd rs1 rs2) s)
    (hv : ∀ h : Hart, f (h.xr rs1) (h.xr rs2) = v h) :
    exec i s = .next (s.mapMe fun h => scalarAfter h rd (v h) (named h [rs1, rs2]) (h.pc + BitVec.ofNat 64 len)) := by
  rw [hi, settle_opReg]
  simp only [hv]

/-! ### Immediates -/

theorem sext64_eq_ofInt {n : Nat} (v : BitVec n) : sext64 v = BitVec.ofInt 64 v.toInt := rfl
theorem halfOff_eq_ofInt {n : Nat} (imm : BitVec n) : halfOff imm = BitVec.ofInt 64 (2 * imm.toInt) := by
  rw [halfOff, sext64_eq_ofInt, Int.mul_comm, BitVec.ofInt_mul]
  rfl
theorem upper_eq_ofInt (imm : BitVec 19) : sext64 imm <<< 11 = BitVec.ofInt 64 (imm.toInt * 2 ^ 11) := by
  rw [sext64_eq_ofInt, BitVec.shiftLeft_eq_mul_twoPow, BitVec.ofInt_mul]
  rfl

theorem exec_of_branch (len : Nat) {n : Nat} (imm : BitVec n) {f : Word → Word → Bool} {taken : Hart → Prop} [∀ h, Decidable (taken h)]
    (hi : exec i s = settle (branch len f rs1 rs2 (halfOff imm)) s) (hc : ∀ h : Hart, f (h.xr rs1) (h.xr rs2) = true ↔ taken h) :
    exec i s = .next (s.mapMe fun h => scalarAfter h 0 0 noTaint
      (if taken h then h.pc + BitVec.ofInt 64 (2 * imm.toInt) else h.pc + BitVec.ofNat 64 len)) := by
  rw [hi, settle_branch]
  simp only [hc, halfOff_eq_ofInt]

/-! ### Values (R122, R123, R29) -/

theorem add_value (a b : Word) : a + b = BitVec.ofNat 64 (a.toNat + b.toNat) := rfl
theorem sub_value (a b : Word) : a - b = BitVec.ofInt 64 ((a.toNat : Int) - b.toNat) := by
  apply BitVec.eq_of_toNat_eq
  simp only [BitVec.toNat_sub, BitVec.toNat_ofInt]
  omega
theorem mul_value (a b : Word) : a * b = BitVec.ofNat 64 (a.toNat * b.toNat) := rfl
theorem shl_value (a : Word) (n : Nat) : a <<< n = BitVec.ofNat 64 (a.toNat * 2 ^ n) := by
  apply BitVec.eq_of_toNat_eq
  rw [BitVec.toNat_shiftLeft, BitVec.toNat_ofNat, Nat.shiftLeft_eq]
theorem shr_value (a : Word) (n : Nat) : a >>> n = BitVec.ofNat 64 (a.toNat / 2 ^ n) := by
  apply BitVec.eq_of_toNat_eq
  rw [BitVec.toNat_ushiftRight, BitVec.toNat_ofNat, Nat.shiftRight_eq_div_pow,
    Nat.mod_eq_of_lt (Nat.lt_of_le_of_lt (Nat.div_le_self _ _) a.isLt)]
theorem sar_value (a : Word) (n : Nat) : a.sshiftRight n = BitVec.ofInt 64 (a.toInt / 2 ^ n) := by
  rw [BitVec.sshiftRight, Int.shiftRight_eq_div_pow]
  norm_cast

theorem slt_value (a b : Word) : boolWord (a.slt b) = flagWord (decide (a.toInt < b.toInt)) := rfl
theorem sltu_value (a b : Word) : boolWord (a.ult b) = flagWord (decide (a.toNat < b.toNat)) := rfl

/-- The model compares strictly and the table does not: they part only where the operands are equal, and there both choices agree. -/
theorem ite_lt_eq_ite_le {α β : Type} [LinearOrder β] {x y : β} {a b : α} (e : x = y → a = b) :
    (if x < y then a else b) = if x ≤ y then a else b := by
  by_cases h : x = y
  · simp [e h]
  · simp only [le_iff_lt_or_eq, h, or_false]
theorem min_value (a b : Word) : (if a.slt b then a else b) = if a.toInt ≤ b.toInt then a else b := by
  simp only [BitVec.slt_eq_decide, decide_eq_true_eq]
  exact ite_lt_eq_ite_le BitVec.eq_of_toInt_eq
theorem max_value (a b : Word) : (if a.slt b then b else a) = if a.toInt ≤ b.toInt then b else a := by
  simp only [BitVec.slt_eq_decide, decide_eq_true_eq]
  exact ite_lt_eq_ite_le fun e => (BitVec.eq_of_toInt_eq e).symm
theorem minu_value (a b : Word) : (if a.ult b then a else b) = if a.toNat ≤ b.toNat then a else b := by
  simp only [BitVec.ult_eq_decide, decide_eq_true_eq]
  exact ite_lt_eq_ite_le BitVec.eq_of_toNat_eq
theorem maxu_value (a b : Word) : (if a.ult b then b else a) = if a.toNat ≤ b.toNat then b else a := by
  simp only [BitVec.ult_eq_decide, decide_eq_true_eq]
  exact ite_lt_eq_ite_le fun e => (BitVec.eq_of_toNat_eq e).symm

/-- The high half of 128 bits is the quotient by 2^64, rounded down. -/
theorem high_ofInt (z : Int) : BitVec.ofInt 64 (z / 2 ^ 64) = (BitVec.ofInt 128 z).extractLsb' 64 64 := by
  apply BitVec.eq_of_toNat_eq
  simp only [BitVec.extractLsb'_toNat, BitVec.toNat_ofInt, Nat.shiftRight_eq_div_pow]
  omega
theorem mulh_value (a b : Word) : mulh64 a b = (a.signExtend 128 * b.signExtend 128).extractLsb' 64 64 := by
  rw [mulh64, high_ofInt, BitVec.ofInt_mul]
  rfl
theorem mulhu_value (a b : Word) : mulhu64 a b = (a.setWidth 128 * b.setWidth 128).extractLsb' 64 64 := by
  have h := high_ofInt (a.toNat * b.toNat : Nat)
  rw [BitVec.ofInt_natCast, BitVec.ofNat_mul, BitVec.ofNat_toNat, BitVec.ofNat_toNat] at h
  rw [← h, mulhu64, ← BitVec.ofInt_natCast]
  norm_cast

theorem div_value (a b : Word) : sdiv64 a b = if b = 0 then BitVec.allOnes 64 else a.sdiv b := by
  have quotient : BitVec.ofInt 64 (a.toInt.tdiv b.toInt) = a.sdiv b :=
    BitVec.eq_of_toInt_eq (by rw [BitVec.toInt_ofInt, BitVec.toInt_sdiv])
  rw [sdiv64, quotient, BitVec.not_zero]
theorem rem_value (a b : Word) : srem64 a b = if b = 0 then a else a.srem b := by
  rw [srem64, ← BitVec.toInt_srem, BitVec.ofInt_toInt]
theorem divu_value (a b : Word) : udiv64 a b = if b = 0 then BitVec.allOnes 64 else a / b := by
  have quotient : BitVec.ofNat 64 (a.toNat / b.toNat) = a / b := by
    rw [← BitVec.toNat_udiv, BitVec.ofNat_toNat, BitVec.setWidth_eq]
  rw [udiv64, quotient, BitVec.not_zero]
theorem remu_value (a b : Word) : urem64 a b = if b = 0 then a else a % b := by
  rw [urem64, ← BitVec.toNat_umod, BitVec.ofNat_toNat, BitVec.setWidth_eq]

/-! ### Counts of bits (R123) -/

/-- Numbers taken from 0 on while they pass end at the first that does not. -/
theorem length_takeWhile_range {p : Nat → Bool} {m n : Nat} (hm : m < n) (hp : ∀ k < m, p k = true) (hq : p m = false) :
    ((List.range n).takeWhile p).length = m := by
  have first : (List.range n).findIdx (fun k => !p k) = m := by
    rw [List.findIdx_eq (by simpa using hm)]
    simpa [hq] using hp
  rw [List.takeWhile_eq_take_findIdx_not, first, List.length_take, List.length_range, Nat.min_eq_left hm.le]

theorem clz_value (a : Word) :
    clz64 a = BitVec.ofNat 64 ((List.range 64).takeWhile fun k => !a.getLsbD (63 - k)).length := by
  rw [clz64]
  congr 1
  by_cases h0 : a.toNat = 0
  · have : a = 0 := BitVec.eq_of_toNat_eq h0
    subst this
    decide
  · have top : a.toNat.log2 < 64 := (Nat.log2_lt h0).mpr a.isLt
    rw [if_neg h0]
    refine (length_takeWhile_range (by omega) (fun k hk => ?_) ?_).symm
    · have : a.toNat < 2 ^ (63 - k) := (Nat.log2_lt h0).mp (by omega)
      simp [BitVec.getLsbD, Nat.testBit_lt_two_pow this]
    · rw [show 63 - (63 - a.toNat.log2) = a.toNat.log2 by omega]
      simp [BitVec.getLsbD, Nat.testBit_log2 h0]

theorem ctzGo_eq (v n i : Nat) : ctzGo v n i = i + ((List.range n).takeWhile fun k => !v.testBit (i + k)).length := by
  induction n generalizing i with
  | zero => rfl
  | succ n ih =>
    rw [ctzGo, ih, List.range_succ_eq_map, List.takeWhile_cons, List.takeWhile_map]
    cases v.testBit i
    · simp [Function.comp_def, Nat.add_assoc, Nat.add_comm, Nat.add_left_comm]
    · simp
theorem ctz_value (a : Word) : ctz64 a = BitVec.ofNat 64 ((List.range 64).takeWhile fun k => !a.getLsbD k).length := by
  simp only [ctz64, ctzGo_eq, BitVec.getLsbD, Nat.zero_add]

theorem popCount_eq (v n : Nat) : popCount v n = ((List.range n).filter fun k => v.testBit k).length := by
  induction n with
  | zero => rfl
  | succ n ih =>
    rw [popCount, ih, List.range_succ, List.filter_append, List.length_append]
    cases h : v.testBit n <;> simp [h]
theorem cpop_value (a : Word) : cpop64 a = BitVec.ofNat 64 ((List.range 64).filter fun k => a.getLsbD k).length := by
  simp only [cpop64, popCount_eq, BitVec.getLsbD]

/-! ### Words (R84, R85) -/

theorem encI_eq_immWord {fn3 : Nat} (h : fn3 < 8) (rd rs1 : BitVec 5) (imm : BitVec 11) :
    encI 0 fn3 rd rs1 imm = immWord imm.toNat fn3 rs1 rd := by
  have := imm.isLt
  simp only [encI, Fields.pack, immWord, BitVec.toNat_ofNat]
  omega
theorem encR_eq_regWord {fn9 : Nat} (h : fn9 < 512) (rd rs1 rs2 : BitVec 5) : encR 1 fn9 rd rs1 rs2 = regWord fn9 rs2 rs1 rd := by
  simp only [encR, Fields.pack, regWord, BitVec.toNat_ofNat]
  omega
theorem encU_eq {major : Nat} (h : major < 64) (rd : BitVec 5) (imm : BitVec 19) :
    encU major rd imm = imm.toNat * 2 ^ 13 + rd.toNat * 2 ^ 8 + major * 4 + 1 := by
  have := imm.isLt
  simp only [encU, Fields.pack, BitVec.toNat_ofNat]
  omega
theorem encS_eq {major fn3 : Nat} (hm : major < 64) (h : fn3 < 8) (rs1 rs2 : BitVec 5) (imm : BitVec 11) :
    encS major fn3 rs1 rs2 imm =
      imm.toNat / 32 * 2 ^ 26 + fn3 * 2 ^ 23 + rs2.toNat * 2 ^ 18 + rs1.toNat * 2 ^ 13 + imm.toNat % 32 * 2 ^ 8 + major * 4 + 1 := by
  have := imm.isLt
  simp only [encS, Fields.pack, BitVec.toNat_ofNat]
  omega
/-- A shift's amount is the immediate of the I form, under the bits that tell SRAI from SRLI. -/
theorem encI_shift {fn3 : Nat} (h : fn3 < 8) {hi : Nat} (hhi : hi ≤ 1024) (rd rs1 : BitVec 5) (sh : BitVec 6) :
    encI 0 fn3 rd rs1 (BitVec.ofNat 11 (hi + sh.toNat)) = immWord (hi + sh.toNat) fn3 rs1 rd := by
  rw [encI_eq_immWord h, BitVec.toNat_ofNat, Nat.mod_eq_of_lt (by omega)]

/-! ### Reserved words (R102) -/

theorem leBytes_take {m n : Nat} (h : m ≤ n) (v : Nat) : (leBytes n v).take m = leBytes m v := by
  induction m generalizing n v with
  | zero => rfl
  | succ m ih =>
    obtain ⟨n, rfl⟩ : ∃ k, n = k + 1 := ⟨n - 1, by omega⟩
    rw [leBytes, List.take_succ_cons, ih (by omega), leBytes]
/-- A table word of the scalar class decodes as its fields do, refused or not. -/
theorem decodeTableWord_scalar (x : Fields) : decodeTableWord 32 (Fields.pack 1 x) = (decodeScalar x).toOption := by
  obtain ⟨hc, hw⟩ := Fields.pack_bounds 1 x (by decide)
  have class4 : classLength (Fields.pack 1 x % 2 ^ (8 * 1)) = 4 := by
    rw [show (2 : Nat) ^ (8 * 1) = 256 from rfl, classLength_mod]
    simp [classLength, hc]
  simp only [decodeTableWord, decode, Nat.mod_eq_of_lt hw, leBytes_take (show 1 ≤ 8 by decide), leNat_leBytes, class4,
    leBytes_take (show 4 ≤ 8 by decide), leBytes_length, decodeBits_scalar, show ((8 : Nat) < 4) = False by simp, if_false,
    show 8 * 4 = 32 from rfl]
  cases decodeScalar x <;> rfl

/-- The fields of an OPIMM word (R122). -/
def immFields (imm : BitVec 11) (fn3 : Nat) (rs1 rd : BitVec 5) : Fields where
  f := BitVec.ofNat 4 (imm.toNat / 128)
  e := BitVec.ofNat 2 (imm.toNat / 32)
  d := BitVec.ofNat 3 (imm.toNat / 4)
  c := BitVec.ofNat 5 (8 * (imm.toNat % 4) + fn3)
  b := rs1
  a := rd
  major := 0
theorem decodeTableWord_immWord {imm fn3 : Nat} (hi : imm < 2 ^ 11) (h : fn3 < 8) (rs1 rd : BitVec 5) :
    decodeTableWord 32 (immWord imm fn3 rs1 rd) = (decodeOpImm (immFields (BitVec.ofNat 11 imm) fn3 rs1 rd)).toOption := by
  have e := encI_eq_immWord h rd rs1 (BitVec.ofNat 11 imm)
  rw [BitVec.toNat_ofNat, Nat.mod_eq_of_lt hi] at e
  rw [← e]
  exact decodeTableWord_scalar (immFields (BitVec.ofNat 11 imm) fn3 rs1 rd)
theorem immFields_fn3 (imm : BitVec 11) {fn3 : Nat} (h : fn3 < 8) (rs1 rd : BitVec 5) : (immFields imm fn3 rs1 rd).fn3 = fn3 :=
  Fields.fn3_pack imm fn3 rd rs1 _ _ _ 0 h
theorem immFields_immI (imm : BitVec 11) {fn3 : Nat} (h : fn3 < 8) (rs1 rd : BitVec 5) : (immFields imm fn3 rs1 rd).immI = imm :=
  Fields.immI_pack imm fn3 rd rs1 0 h
theorem accept_false (j : Instr) : (accept false j).toOption = none := rfl

theorem slli_reserved {imm : Nat} (hi : imm < 2 ^ 11) (h : 64 ≤ imm) (rs1 rd : BitVec 5) :
    decodeTableWord 32 (immWord imm 6 rs1 rd) = none := by
  have high : imm / 64 ≠ 0 := by omega
  rw [decodeTableWord_immWord hi (by decide)]
  simp only [decodeOpImm, immFields_fn3 _ (show 6 < 8 by decide), immFields_immI _ (show 6 < 8 by decide), BitVec.toNat_ofNat,
    Nat.mod_eq_of_lt hi, high, decide_false, accept_false]
theorem srli_srai_reserved {imm : Nat} (hi : imm < 2 ^ 11) (h : imm / 64 % 16 ≠ 0) (rs1 rd : BitVec 5) :
    decodeTableWord 32 (immWord imm 7 rs1 rd) = none := by
  have notSrli : imm / 64 ≠ 0 := by omega
  have notSrai : imm / 64 ≠ 16 := by omega
  rw [decodeTableWord_immWord hi (by decide)]
  simp only [decodeOpImm, immFields_fn3 _ (show 7 < 8 by decide), immFields_immI _ (show 7 < 8 by decide), BitVec.toNat_ofNat,
    Nat.mod_eq_of_lt hi, notSrli, notSrai, if_false, decide_false, accept_false]

/-- The fields of an OP word (R123). -/
def regFields (fn9 : Nat) (rs2 rs1 rd : BitVec 5) : Fields where
  f := BitVec.ofNat 4 (fn9 / 32)
  e := BitVec.ofNat 2 (fn9 / 8)
  d := BitVec.ofNat 3 fn9
  c := rs2
  b := rs1
  a := rd
  major := 1
theorem decodeTableWord_regWord {fn9 : Nat} (h : fn9 < 512) (rs2 rs1 rd : BitVec 5) :
    decodeTableWord 32 (regWord fn9 rs2 rs1 rd) = (decodeOp (regFields fn9 rs2 rs1 rd)).toOption := by
  rw [← encR_eq_regWord h]
  exact decodeTableWord_scalar (regFields fn9 rs2 rs1 rd)
/-- A one-source OP form whose rs2 field is not zero is no instruction (R123). -/
theorem count_reserved {fn9 : Nat} (h : fn9 < 512) {rs2 : BitVec 5} (h2 : rs2 ≠ 0) (rs1 rd : BitVec 5) {j : Instr}
    (hj : decodeOp (regFields fn9 rs2 rs1 rd) = accept (rs2 == 0) j) : decodeTableWord 32 (regWord fn9 rs2 rs1 rd) = none := by
  rw [decodeTableWord_regWord h, hj, beq_false_of_ne h2, accept_false]

/-! ### R122 -/

theorem exec_immForms : ∀ p ∈ immForms, ∀ rd rs1 imm s, exec (p.1 rd rs1 imm) s =
    .next (s.mapMe fun h => scalarAfter h rd (p.2 (h.xr rs1) (imm.signExtend 64)) (named h [rs1]) (h.pc + 4)) := by
  simp only [immForms, List.forall_mem_cons]
  refine ⟨?addi, ?slti, ?sltiu, ?andi, ?ori, ?xori, nofun⟩ <;> intro rd rs1 imm s
  case addi => exact exec_of_opImm 4 (execAddi.eq_def ..) fun _ => add_value _ _
  case slti => exact exec_of_opImm 4 (execSlti.eq_def ..) fun _ => slt_value _ _
  case sltiu => exact exec_of_opImm 4 (execSltiu.eq_def ..) fun _ => sltu_value _ _
  case andi => exact exec_of_opImm 4 (execAndi.eq_def ..) fun _ => rfl
  case ori => exact exec_of_opImm 4 (execOri.eq_def ..) fun _ => rfl
  case xori => exact exec_of_opImm 4 (execXori.eq_def ..) fun _ => rfl
theorem encode_immForms : ∀ p ∈ immForms.zipIdx, ∀ rd rs1 (imm : BitVec 11),
    encode (p.1.1 rd rs1 imm) = some (32, immWord imm.toNat p.2 rs1 rd) := by
  simp only [immForms, List.zipIdx_cons, List.zipIdx_nil, List.forall_mem_cons]
  refine ⟨?_, ?_, ?_, ?_, ?_, ?_, nofun⟩ <;> intro rd rs1 imm
  all_goals rw [← encI_eq_immWord (by decide)]; rfl
theorem exec_shiftForms : ∀ p ∈ shiftForms, ∀ rd rs1 sh s, exec (p.1 rd rs1 sh) s =
    .next (s.mapMe fun h => scalarAfter h rd (p.2 (h.xr rs1) sh.toNat) (named h [rs1]) (h.pc + 4)) := by
  simp only [shiftForms, List.forall_mem_cons]
  refine ⟨?slli, ?srli, ?srai, nofun⟩ <;> intro rd rs1 sh s
  case slli => exact exec_of_opImm 4 (execSlli.eq_def ..) fun _ => shl_value _ _
  case srli => exact exec_of_opImm 4 (execSrli.eq_def ..) fun _ => shr_value _ _
  case srai => exact exec_of_opImm 4 (execSrai.eq_def ..) fun _ => sar_value _ _
theorem encode_shifts (rd rs1 : BitVec 5) (sh : BitVec 6) : encode (.slli rd rs1 sh) = some (32, immWord sh.toNat 6 rs1 rd) ∧
    encode (.srli rd rs1 sh) = some (32, immWord sh.toNat 7 rs1 rd) ∧
    encode (.srai rd rs1 sh) = some (32, immWord (1024 + sh.toNat) 7 rs1 rd) := by
  have low (fn3 : Nat) (h : fn3 < 8) : encI 0 fn3 rd rs1 (BitVec.ofNat 11 (0 + sh.toNat)) = immWord sh.toNat fn3 rs1 rd := by
    rw [encI_shift h (by decide), Nat.zero_add]
  refine ⟨?slli, ?srli, ?srai⟩
  case slli => rw [← low 6 (by decide)]; rfl
  case srli => rw [← low 7 (by decide)]; rfl
  case srai => rw [← encI_shift (by decide) le_rfl]; rfl
/-- x0 reads 0 with an empty taint set (R83), so only the immediate is left. -/
theorem exec_cLi (rd imm : BitVec 5) (s : State) :
    exec (.cLi rd imm) s = .next (s.mapMe fun h => scalarAfter h rd (imm.signExtend 64) noTaint (h.pc + 2)) :=
  exec_of_opImm (rs1 := 0) 2 (execCLi.eq_def ..) fun _ => BitVec.zero_add _
theorem exec_cAddi (rd imm : BitVec 5) (s : State) : exec (.cAddi rd imm) s =
    .next (s.mapMe fun h => scalarAfter h rd (h.xr rd + imm.signExtend 64) (named h [rd]) (h.pc + 2)) :=
  exec_of_opImm 2 (execCAddi.eq_def ..) fun _ => rfl
theorem exec_cNop (s : State) : exec .cNop s = .next (s.mapMe fun h => scalarAfter h 0 0 noTaint (h.pc + 2)) :=
  exec_of_opImm (rd := 0) (rs1 := 0) 2 (execCNop.eq_def ..) fun _ => rfl

/-! ### R123 -/

theorem exec_regForms : ∀ p ∈ regForms, ∀ rd rs1 rs2 s, exec (p.1 rd rs1 rs2) s =
    .next (s.mapMe fun h => scalarAfter h rd (p.2 (h.xr rs1) (h.xr rs2)) (named h [rs1, rs2]) (h.pc + 4)) := by
  simp only [regForms, List.forall_mem_cons]
  refine ⟨?add, ?sub, ?and, ?or, ?xor, ?sll, ?srl, ?sra, ?slt, ?sltu, ?min, ?max, ?minu, ?maxu, ?mul, ?mulh, ?mulhu, ?div, ?divu, ?rem,
    ?remu, nofun⟩ <;> intro rd rs1 rs2 s
  case add => exact exec_of_opReg 4 (execAdd.eq_def ..) fun _ => add_value _ _
  case sub => exact exec_of_opReg 4 (execSub.eq_def ..) fun _ => sub_value _ _
  case and => exact exec_of_opReg 4 (execAnd.eq_def ..) fun _ => rfl
  case or => exact exec_of_opReg 4 (execOr.eq_def ..) fun _ => rfl
  case xor => exact exec_of_opReg 4 (execXor.eq_def ..) fun _ => rfl
  case sll => exact exec_of_opReg 4 (execSll.eq_def ..) fun _ => shl_value _ _
  case srl => exact exec_of_opReg 4 (execSrl.eq_def ..) fun _ => shr_value _ _
  case sra => exact exec_of_opReg 4 (execSra.eq_def ..) fun _ => sar_value _ _
  case slt => exact exec_of_opReg 4 (execSlt.eq_def ..) fun _ => slt_value _ _
  case sltu => exact exec_of_opReg 4 (execSltu.eq_def ..) fun _ => sltu_value _ _
  case min => exact exec_of_opReg 4 (execMin.eq_def ..) fun _ => min_value _ _
  case max => exact exec_of_opReg 4 (execMax.eq_def ..) fun _ => max_value _ _
  case minu => exact exec_of_opReg 4 (execMinu.eq_def ..) fun _ => minu_value _ _
  case maxu => exact exec_of_opReg 4 (execMaxu.eq_def ..) fun _ => maxu_value _ _
  case mul => exact exec_of_opReg 4 (execMul.eq_def ..) fun _ => mul_value _ _
  case mulh => exact exec_of_opReg 4 (execMulh.eq_def ..) fun _ => mulh_value _ _
  case mulhu => exact exec_of_opReg 4 (execMulhu.eq_def ..) fun _ => mulhu_value _ _
  case div => exact exec_of_opReg 4 (execDiv.eq_def ..) fun _ => div_value _ _
  case divu => exact exec_of_opReg 4 (execDivu.eq_def ..) fun _ => divu_value _ _
  case rem => exact exec_of_opReg 4 (execRem.eq_def ..) fun _ => rem_value _ _
  case remu => exact exec_of_opReg 4 (execRemu.eq_def ..) fun _ => remu_value _ _
theorem encode_regForms : ∀ p ∈ regForms.zipIdx, ∀ rd rs1 rs2, encode (p.1.1 rd rs1 rs2) = some (32, regWord p.2 rs2 rs1 rd) := by
  simp only [regForms, List.zipIdx_cons, List.zipIdx_nil, List.forall_mem_cons]
  refine ⟨?_, ?_, ?_, ?_, ?_, ?_, ?_, ?_, ?_, ?_, ?_, ?_, ?_, ?_, ?_, ?_, ?_, ?_, ?_, ?_, ?_, nofun⟩ <;>
    intro rd rs1 rs2
  all_goals rw [← encR_eq_regWord (by decide)]; rfl
theorem exec_countForms : ∀ p ∈ countForms, ∀ rd rs1 s, exec (p.1 rd rs1) s =
    .next (s.mapMe fun h => scalarAfter h rd (BitVec.ofNat 64 (p.2 (h.xr rs1))) (named h [rs1]) (h.pc + 4)) := by
  simp only [countForms, List.forall_mem_cons]
  refine ⟨?clz, ?ctz, ?cpop, nofun⟩ <;> intro rd rs1 s
  case clz => exact exec_of_opImm 4 (execClz.eq_def ..) fun _ => clz_value _
  case ctz => exact exec_of_opImm 4 (execCtz.eq_def ..) fun _ => ctz_value _
  case cpop => exact exec_of_opImm 4 (execCpop.eq_def ..) fun _ => cpop_value _
theorem encode_countForms : ∀ p ∈ countForms.zipIdx, ∀ rd rs1, encode (p.1.1 rd rs1) = some (32, regWord (21 + p.2) 0 rs1 rd) ∧
    ∀ rs2, rs2 ≠ 0 → decodeTableWord 32 (regWord (21 + p.2) rs2 rs1 rd) = none := by
  simp only [countForms, List.zipIdx_cons, List.zipIdx_nil, List.forall_mem_cons]
  refine ⟨?_, ?_, ?_, nofun⟩ <;> refine fun rd rs1 => ⟨?_, fun _ h => count_reserved (by decide) h rs1 rd rfl⟩
  all_goals rw [← encR_eq_regWord (by decide)]; rfl
theorem exec_cMv (rd rs : BitVec 5) (s : State) :
    exec (.cMv rd rs) s = .next (s.mapMe fun h => scalarAfter h rd (h.xr rs) (named h [0, rs]) (h.pc + 2)) :=
  exec_of_opReg 2 (execCMv.eq_def ..) fun _ => BitVec.zero_add _
theorem exec_cAdd (rd rs : BitVec 5) (s : State) : exec (.cAdd rd rs) s =
    .next (s.mapMe fun h => scalarAfter h rd (h.xr rd + h.xr rs) (named h [rd, rs]) (h.pc + 2)) :=
  exec_of_opReg 2 (execCAdd.eq_def ..) fun _ => rfl

/-! ### R124 -/

theorem exec_lui (rd : BitVec 5) (imm : BitVec 19) (s : State) : exec (.lui rd imm) s =
    .next (s.mapMe fun h => scalarAfter h rd (BitVec.ofInt 64 (imm.toInt * 2 ^ 11)) noTaint (h.pc + 4)) := by
  rw [← upper_eq_ofInt]
  exact settle_writeX 4 rd (fun _ => sext64 imm <<< 11) s
theorem exec_auipc (rd : BitVec 5) (imm : BitVec 19) (s : State) : exec (.auipc rd imm) s =
    .next (s.mapMe fun h => scalarAfter h rd (h.pc + BitVec.ofInt 64 (imm.toInt * 2 ^ 11)) noTaint (h.pc + 4)) := by
  rw [← upper_eq_ofInt]
  exact settle_writeX 4 rd (fun h => h.pc + sext64 imm <<< 11) s
theorem encode_upper (rd : BitVec 5) (imm : BitVec 19) :
    encode (.lui rd imm) = some (32, imm.toNat * 2 ^ 13 + rd.toNat * 2 ^ 8 + 2 * 4 + 1) ∧
    encode (.auipc rd imm) = some (32, imm.toNat * 2 ^ 13 + rd.toNat * 2 ^ 8 + 3 * 4 + 1) := by
  constructor
  · rw [← encU_eq (major := 2) (by decide)]; rfl
  · rw [← encU_eq (major := 3) (by decide)]; rfl

/-! ### R126 -/

theorem exec_branchForms : ∀ p ∈ branchForms, ∀ rs1 rs2 imm s, exec (p.1 rs1 rs2 imm) s =
    .next (s.mapMe fun h => scalarAfter h 0 0 noTaint
      (if p.2 (h.xr rs1) (h.xr rs2) then h.pc + BitVec.ofInt 64 (2 * imm.toInt) else h.pc + 4)) := by
  simp only [branchForms, List.forall_mem_cons]
  refine ⟨?beq, ?bne, ?blt, ?bge, ?bltu, ?bgeu, nofun⟩ <;> intro rs1 rs2 imm s
  case beq => exact exec_of_branch 4 imm (execBeq.eq_def ..) fun _ => by rw [beq_eq_decide]
  case bne => exact exec_of_branch 4 imm (execBne.eq_def ..) fun _ => by rw [bne_iff_ne, decide_eq_true_eq]
  case blt => exact exec_of_branch 4 imm (execBlt.eq_def ..) fun _ => by rw [BitVec.slt_eq_decide]
  case bge => exact exec_of_branch 4 imm (execBge.eq_def ..) fun _ => by simp [BitVec.slt_eq_decide]
  case bltu => exact exec_of_branch 4 imm (execBltu.eq_def ..) fun _ => by rw [BitVec.ult_eq_decide]
  case bgeu => exact exec_of_branch 4 imm (execBgeu.eq_def ..) fun _ => by simp [BitVec.ult_eq_decide]
theorem encode_branchForms : ∀ p ∈ branchForms.zipIdx, ∀ rs1 rs2 (imm : BitVec 11), encode (p.1.1 rs1 rs2 imm) =
    some (32, imm.toNat / 32 * 2 ^ 26 + p.2 * 2 ^ 23 + rs2.toNat * 2 ^ 18 + rs1.toNat * 2 ^ 13 + imm.toNat % 32 * 2 ^ 8 + 6 * 4 + 1) := by
  simp only [branchForms, List.zipIdx_cons, List.zipIdx_nil, List.forall_mem_cons]
  refine ⟨?_, ?_, ?_, ?_, ?_, ?_, nofun⟩ <;> intro rs1 rs2 imm
  all_goals rw [← encS_eq (major := 6) (by decide) (by decide)]; rfl
theorem exec_cBeqz (rs1 : BitVec 3) (off : BitVec 7) (s : State) : exec (.cBeqz rs1 off) s =
    .next (s.mapMe fun h => scalarAfter h 0 0 noTaint
      (if h.xr (BitVec.ofNat 5 (8 + rs1.toNat)) = 0 then h.pc + BitVec.ofInt 64 (2 * off.toInt) else h.pc + 2)) :=
  exec_of_branch 2 off (execCBeqz.eq_def ..) fun _ => beq_iff_eq
theorem exec_cBnez (rs1 : BitVec 3) (off : BitVec 7) (s : State) : exec (.cBnez rs1 off) s =
    .next (s.mapMe fun h => scalarAfter h 0 0 noTaint
      (if h.xr (BitVec.ofNat 5 (8 + rs1.toNat)) ≠ 0 then h.pc + BitVec.ofInt 64 (2 * off.toInt) else h.pc + 2)) :=
  exec_of_branch 2 off (execCBnez.eq_def ..) fun _ => bne_iff_ne

end Sys2Proof.Proofs.Scalar

namespace Sys2Proof.Proofs
open Sys2Proof.Machine Sys2Proof.Claims Sys2Proof.Proofs.Scalar

/-- Settles O1: every form is the shared operation of R122 with the value of its row. -/
theorem immediateArithmetic : Obligations.ImmediateArithmetic :=
  ⟨exec_immForms, encode_immForms, exec_shiftForms, encode_shifts,
    fun rd rs1 _ hi => ⟨fun h => slli_reserved hi h rs1 rd, fun h => srli_srai_reserved hi h rs1 rd⟩, exec_cLi, exec_cAddi, exec_cNop⟩

/-- Settles O2: every form is the shared operation of R123 with the value of its row. -/
theorem registerArithmetic : Obligations.RegisterArithmetic :=
  ⟨exec_regForms, encode_regForms, exec_countForms, encode_countForms, exec_cMv, exec_cAdd⟩

/-- Settles O3: both write their constant with an empty taint and retire. -/
theorem upperImmediates : Obligations.UpperImmediates :=
  ⟨exec_lui, exec_auipc, encode_upper⟩

/-- Settles O5: every branch is the shared operation of R126 with the condition of its row. -/
theorem branches : Obligations.Branches :=
  ⟨exec_branchForms, encode_branchForms, exec_cBeqz, exec_cBnez⟩

end Sys2Proof.Proofs
end
